-- ==== Sys2Proof/Word.lean ====
section
/-!
DEFINITION. The plainest data of the model: sparse maps in one canonical form, two's-complement conversions,
complex integers, and the names that commands carry (who sends an access, which half of a register it reaches).
-/

namespace Sys2Proof

/-- A sparse map: pairs of a key and a value, keys rising, no entry equal to the default that an unlisted key reads as. -/
abbrev SMap (α : Type) := List (Nat × α)

/-- What key `k` reads as; `d` is what an unlisted key reads as. -/
def SMap.get {α : Type} (d : α) : SMap α → Nat → α
  | [], _ => d
  | p :: m, k => if p.1 = k then p.2 else SMap.get d m k

/-- Put `v` at `k`, in front of the first larger key, in place of an entry for `k`. -/
def SMap.insert {α : Type} (k : Nat) (v : α) : SMap α → SMap α
  | [] => [(k, v)]
  | p :: m => if k < p.1 then (k, v) :: p :: m else if p.1 = k then (k, v) :: m else p :: SMap.insert k v m

/-- Take out every entry for `k`. -/
def SMap.erase {α : Type} (k : Nat) (m : SMap α) : SMap α := m.filter fun p => p.1 ≠ k

/-- Write `v` at `k`; writing the default takes the entry out, so that equal maps stay equal data. -/
def SMap.put {α : Type} [DecidableEq α] (d : α) (m : SMap α) (k : Nat) (v : α) : SMap α :=
  if v = d then SMap.erase k m else SMap.insert k v m

/-- The canonical form: keys strictly rising and no entry equal to the default. -/
def SMap.wf {α : Type} [DecidableEq α] (d : α) : SMap α → Bool
  | [] => true
  | [p] => decide (p.2 ≠ d)
  | p :: q :: m => decide (p.2 ≠ d) && decide (p.1 < q.1) && SMap.wf d (q :: m)

/-- Whether `k` has an entry, in a map read as a set or a partial function. -/
def SMap.has {α : Type} (m : SMap α) (k : Nat) : Bool := m.any fun p => p.1 = k

/-- The entry for `k`, if there is one. -/
def SMap.find {α : Type} : SMap α → Nat → Option α
  | [], _ => none
  | p :: m, k => if p.1 = k then some p.2 else SMap.find m k

/-- A sorted list without repeats, read as a set of numbers: put `k` in. -/
def setIns (k : Nat) : List Nat → List Nat
  | [] => [k]
  | j :: m => if k < j then k :: j :: m else if j = k then j :: m else j :: setIns k m

/-- Take `k` out of a set of numbers. -/
def setDel (k : Nat) (m : List Nat) : List Nat := m.filter fun j => j ≠ k

/-- The two's-complement reading of the low `w` bits of `n` (R15). -/
def toS (w n : Nat) : Int := if n % 2 ^ w < 2 ^ (w - 1) then (n % 2 ^ w : Nat) else (n % 2 ^ w : Nat) - (2 ^ w : Nat)

/-- The low `w` bits of the two's-complement form of `i` (R15). -/
def ofS (w : Nat) (i : Int) : Nat := (i % (2 ^ w : Nat)).toNat

/-- Saturate to the signed range of `w` bits (R15). -/
def satS (w : Nat) (i : Int) : Int := max (-(2 ^ (w - 1) : Nat)) (min ((2 ^ (w - 1) : Nat) - 1) i)

/-- Saturate a count to `w` bits. -/
def satU (w n : Nat) : Nat := min (2 ^ w - 1) n

/-- Bits `[lo + wd - 1 : lo]` of `n`. -/
def bits (n lo wd : Nat) : Nat := n / 2 ^ lo % 2 ^ wd

/-- Bit `i` of `n`. -/
def bit (n i : Nat) : Bool := n / 2 ^ i % 2 = 1

/-- 1 for true, 0 for false. -/
def b2n (b : Bool) : Nat := if b then 1 else 0

/-- `n` with bit `i` set or cleared. -/
def putBit (n i : Nat) (b : Bool) : Nat :=
  if bit n i then (if b then n else n - 2 ^ i) else (if b then n + 2 ^ i else n)

/-- How many of the low `w` bits of `n` are 1. -/
def popcount (w n : Nat) : Nat := (List.range w).countP fun i => bit n i

/-- `n` rounded up to a multiple of `m`, in units of `m`. -/
def ceilDiv (n m : Nat) : Nat := (n + m - 1) / m

/-- `i / d` rounded to nearest, ties away from zero (`d > 0`). -/
def rndDiv (i : Int) (d : Nat) : Int :=
  if 0 ≤ i then (2 * i + d) / (2 * d) else -((2 * (-i) + d) / (2 * d))

/-- Keep `i` between `lo` and `hi`. -/
def clampI (lo hi i : Int) : Int := max lo (min hi i)

/-- A complex integer: the two parts of a fixed-point sample or coefficient. -/
structure Cx where
  re : Int
  im : Int
  deriving DecidableEq, Repr, Inhabited

namespace Cx
/-- Zero. -/
def zero : Cx := ⟨0, 0⟩
/-- Sum. -/
def add (a b : Cx) : Cx := ⟨a.re + b.re, a.im + b.im⟩
/-- Difference. -/
def sub (a b : Cx) : Cx := ⟨a.re - b.re, a.im - b.im⟩
/-- Product. -/
def mul (a b : Cx) : Cx := ⟨a.re * b.re - a.im * b.im, a.re * b.im + a.im * b.re⟩
/-- Conjugate. -/
def conj (a : Cx) : Cx := ⟨a.re, -a.im⟩
/-- Product with a real factor. -/
def scale (a : Cx) (k : Int) : Cx := ⟨a.re * k, a.im * k⟩
/-- Squared magnitude. -/
def normSq (a : Cx) : Int := a.re * a.re + a.im * a.im
/-- Apply a function to both parts. -/
def map (f : Int → Int) (a : Cx) : Cx := ⟨f a.re, f a.im⟩
end Cx

/-- Who sends an access: the physical function, a virtual function (`vf i` is VF i + 1), or a supervisor core. -/
inductive Requester where
  | pf
  | vf (i : Fin 8)
  | core (c : Fin 4)
  deriving DecidableEq, Repr

/-- The supply rails (R420), the ZMD's own among them, and the backup cell; VDD_CNV and VDDA_CNV belong to one converter die each, 0 = DCD. -/
inductive Rail where
  | vddBd | vddIo | vddSer
  | vddCnv (die : Fin 2)
  | vddaCnv (die : Fin 2)
  | vbat
  | vddZm
  deriving DecidableEq, Repr

/-- Which half of a 64-bit register an access reaches (R1). -/
inductive Half where
  | lo
  | hi
  | full
  deriving DecidableEq, Repr

/-- Whether the access reaches bits [31:0]. -/
def Half.hasLo : Half → Bool
  | .hi => false
  | _ => true

/-- Whether the access reaches bits [63:32]. -/
def Half.hasHi : Half → Bool
  | .lo => false
  | _ => true

/-- The register image of written data: a 32-bit access to the upper half carries bits [63:32] (R1). -/
def Half.image (h : Half) (v : Nat) : Nat :=
  match h with
  | .lo => v % 2 ^ 32
  | .hi => v % 2 ^ 32 * 2 ^ 32
  | .full => v % 2 ^ 64

/-- The data an access returns from a register image (R1). -/
def Half.data (h : Half) (v : Nat) : Nat :=
  match h with
  | .lo => v % 2 ^ 32
  | .hi => v / 2 ^ 32 % 2 ^ 32
  | .full => v % 2 ^ 64

/-- A register of a supervisor core (R334). -/
abbrev Xword := BitVec 64

/-- Repeat a function `n` times. -/
def iter {α : Type} (g : α → α) : Nat → α → α
  | 0, a => a
  | n + 1, a => iter g n (g a)

end Sys2Proof
end

