-- ==== Sys2Proof/Syntax.lean ====
section
/-!
DEFINITION. The commands: one constructor for every row of spec/opcode_table.json, with the operands that its rule gives it.
A command is an access by a requester, or an event that the outside or the passing of time delivers.
-/

namespace Sys2Proof

/-- What the ZMD's start finds (R226, R234): bit k of `slots`: the integrity check of calibration slot k passed; the correction of
each input's receiver by the reference check, in 0.001 dB. -/
structure StartFound where
  slots : Nat
  refs : List Int
  deriving DecidableEq, Repr

/-- The commands of the block. -/
inductive Instr where
  /-- R5. A write to a register that has no row of its own acts on each field according to its access code. -/
  | registerWrite (q : Requester) (addr : Nat) (half : Half) (value : Nat)
  /-- R2. An access of an unsupported size or alignment completes with Unsupported Request or is discarded, and a register access fault is recorded. -/
  | accessSizeFault (q : Requester) (addr : Nat) (isWrite : Bool)
  /-- R5. A read of a register that holds RC fields returns them and clears them. -/
  | rcRead (q : Requester) (addr : Nat) (half : Half)
  /-- R208. A write to an RWP field stores the value in the shadow copy and claims the target for the writer's context, or is discarded. -/
  | stageWrite (q : Requester) (addr : Nat) (half : Half) (value : Nat)
  /-- R32. A sample flit that fails its CRC has its samples replaced by zero, and adaptation on that lane is suspended. -/
  | sampleFlitCrcFail (die : Fin 2) (toBoard : Bool) (lane : Fin 8)
  /-- R32. A control flit that fails its CRC is discarded and not acknowledged. -/
  | controlFlitCrcFail (die : Fin 2) (toBoard : Bool) (resent : Fin 4)
  /-- R32. An unacknowledged control flit is sent again 32 bridge clocks later, up to three times. -/
  | controlFlitRetransmit (die : Fin 2)
  /-- R34. The loss condition takes a die bridge to DOWN and mutes the squares that use that die. -/
  | bridgeLoss (die : Fin 2) (cause : Fin 4)
  /-- R33. A bridge leaves DOWN for TRAIN 1 ms after entry, once both ends are ready. -/
  | bridgeTrainStart (die : Fin 2)
  /-- R33. A bridge in TRAIN enters UP after 1,024 consecutive good flits on every lane. -/
  | bridgeUp (die : Fin 2)
  /-- R33. A bridge that has not reached UP within 100 µs of entering TRAIN returns to DOWN. -/
  | bridgeTrainTimeout (die : Fin 2)
  /-- R192. MS_BRIDGE clears at a tempo boundary once the die is UP and in RUN and the fill time has passed. -/
  | bridgeMuteClear (sq : Fin 128)
  /-- R37. The wing, package and tenant output sums are updated every 16 tempi, and OVER is set where a limit is exceeded. -/
  | powerSumUpdate
  /-- R53. The START command begins an image load from the selected source. -/
  | imgStart (q : Requester)
  /-- R46. The ABORT command ends the load with CAUSE 5. -/
  | imgAbort (q : Requester)
  /-- R57. The CLEAR command unroutes every square and starts the erasure of the structure space. -/
  | imgClear (q : Requester)
  /-- R57. The erasure of the structure space completes, and a held START or HASH_REQ then acts. -/
  | clearEraseDone
  /-- R59. The HASH_REQ command starts a SHA-256 of the structure space. -/
  | hashReq (q : Requester)
  /-- R59. The hash completes, the digest is written to TOP_HASH0–3, and HASH_VALID is set. -/
  | hashDone
  /-- R54. A write to TOP_IMG_PORT delivers or holds a stream word, or is discarded with PORT_DROP. -/
  | imgPortWrite (q : Requester) (half : Half) (value : Nat)
  /-- R55. An xSPI read burst of 256 bytes completes and delivers its stream words. -/
  | flashBurstDone (words : List Nat)
  /-- R44. A WRITE header with a valid COUNT opens a record targeting a structure index. -/
  | imageWriteHeader
  /-- R45. A data word is stored at its index, or is discarded when its index is reserved. -/
  | imageDataWord
  /-- R46. An END record ends the load with CAUSE 1 and starts resolution. -/
  | imageEndRecord
  /-- R46. A header with another TYPE, or with an invalid COUNT, ends the load with CAUSE 2 or 3. -/
  | imageBadHeader
  /-- R46. The flash read range runs out, and the load ends with CAUSE 4. -/
  | flashRangeExhausted
  /-- R48. Resolution completes, the routed squares and wing shares are set, and the hash starts. -/
  | resolutionDone
  /-- R60. A read of TOP_STRUCT_DATA returns the structure word and advances INDEX while AUTOINC is 1. -/
  | structDataRead (q : Requester) (half : Half)
  /-- R64. At every multiple of 4,096 Tc the tempo ends, and gains, slewing, detectors and the control step advance. -/
  | tempoBoundary
  /-- R65. EPOCH increments when AT crosses a multiple of C. -/
  | epochRollover
  /-- R65. A write to AIR_EPOCH in ACQUIRE is held until the next step. -/
  | airEpochWrite (q : Requester) (value : Nat)
  /-- R72. A write of AIR_CTRL that changes SOURCE or the numerology enters ACQUIRE. -/
  | airCtrlWrite (q : Requester) (half : Half) (value : Nat)
  /-- R72. RESTART enters ACQUIRE, resets TRIM and withdraws any pending step. -/
  | airRestart (q : Requester)
  /-- R69. A donor-cell detection is evaluated, and it drives the timeline state, the trim and the slewing. -/
  | cellDetection (corr pci : Nat) (pbchOk : Bool) (pos : Nat)
  /-- R69. A PPS_IN edge is evaluated as a detection of the external source. -/
  | ppsEdge (rising : Bool)
  /-- R69. A SYNC_IN edge is evaluated against SFN 0 for the external source. -/
  | syncEdge (rising : Bool)
  /-- R70. At a tempo boundary in ACQUIRE, AT steps to the detected value, and schedule entries in the skipped span are retired. -/
  | atStep
  /-- R72. In LOCKED, one SSB period without a valid detection sets COAST. -/
  | coastTimeout
  /-- R72. HOLD_MS without a valid detection takes LOCKED to HOLDOVER. -/
  | holdTimeout
  /-- R72. HOLDOVER_MS in HOLDOVER takes the timeline to LOST and applies the timeline hold. -/
  | holdoverTimeout
  /-- R73. At the first tempo boundary after the effective state leaves ACQUIRE and LOST, the timeline hold is released. -/
  | holdRelease
  /-- R78. A write of word 0 with KIND other than 0 arms a schedule entry, or retires it REJECTED or LATE. -/
  | schedArm (q : Requester) (entry : Fin 1024) (value : Nat)
  /-- R78. A write of word 0 with KIND 0 sets the entry EMPTY. -/
  | schedDisarm (q : Requester) (entry : Fin 1024) (value : Nat)
  /-- R79. The scanner visits an entry and takes its occurrences that lie in the window, or DROPS them over the limits. -/
  | schedTake (entry : Fin 1024)
  /-- R77. A TR occurrence fires and sets a timed output to its level. -/
  | trFire
  /-- R77. A DIR occurrence fires and sets the passing direction of a TDD pair. -/
  | dirFire
  /-- R211. A PLAN occurrence fires and applies the waiting plans with its identifier, or sets ORPHAN. -/
  | planFire
  /-- R99. A CAL occurrence fires and opens a calibration window, or is refused. -/
  | calFire
  /-- R376. A CAPTURE occurrence fires and starts the engine's waiting descriptor, or advances ORPHAN. -/
  | captureFire
  /-- R251. A PWMF occurrence fires and writes the bank select of a PWM channel. -/
  | pwmfFire
  /-- R77. A MARK occurrence fires and sets its interrupt pending. -/
  | markFire
  /-- R85. PPS_OUT or SYNC_OUT goes high at its AT multiple while it is enabled. -/
  | timingOutputRise (sync : Bool)
  /-- R85. PPS_OUT or SYNC_OUT goes low 196,608 Tc after its rise. -/
  | timingOutputFall (sync : Bool)
  /-- R86. A read of AIR_AT bits [31:0], or a 64-bit read, latches AIR_POS. -/
  | airAtRead (q : Requester) (half : Half)
  /-- R97. A write of POWER_EN turns a converter die on from OFF, or takes it to OFF. -/
  | cnvPowerEnWrite (q : Requester) (die : Fin 2) (on : Bool)
  /-- R97. RECAL takes a converter die from RUN or SAFE to STARTCAL. -/
  | cnvRecal (q : Requester) (die : Fin 2)
  /-- R87. A control flit from the converter die refreshes the values that the die reports. -/
  | cnvStatusRefresh (die : Fin 2) (overloads : List Nat)
  /-- R97. The converter-clock multiplier achieves lock. -/
  | ckmLock (die : Fin 2)
  /-- R97. After the CKM has held lock for 100 µs with the bridge UP, the die enters STARTCAL. -/
  | cnvClockingDone (die : Fin 2)
  /-- R97. With no lock 2 ms after entry or after a loss of lock, CKM_FAIL is set and the CKM stops trying. -/
  | ckmFail (die : Fin 2)
  /-- R97. A loss of CKM lock takes the die to SAFE and the bridge down. -/
  | ckmUnlock (die : Fin 2)
  /-- R98. A start-up calibration phase completes, and after the last phase the die enters RUN. -/
  | startcalPhaseDone (die : Fin 2) (results : List (List Nat))
  /-- R94. A write of a synthesiser setting enables it, retunes it or is refused. -/
  | synWrite (q : Requester) (die : Fin 2) (syn : Fin 2) (half : Half) (value : Nat)
  /-- R95. A synthesiser achieves lock. -/
  | synLock (die : Fin 2) (syn : Fin 2)
  /-- R95. A synthesiser loses lock, and its mixer lanes are blanked. -/
  | synUnlock (die : Fin 2) (syn : Fin 2)
  /-- R95. The blank ends after the synthesiser has held lock for 100 µs. -/
  | synBlankEnd (die : Fin 2) (syn : Fin 2)
  /-- R96. A write of CNV_LANE sets the lane paths, takes the lane offline, or requests it online. -/
  | cnvLaneWrite (q : Requester) (die : Fin 2) (lane : Fin 8) (half : Half) (value : Nat)
  /-- R96. A lane requested online goes online at the next tempo boundary. -/
  | laneOnline (die : Fin 2) (lane : Fin 8)
  /-- R100. A calibration step starts at a tempo boundary inside the window when it fits. -/
  | calStepStart (die : Fin 2)
  /-- R100. A calibration step completes and is counted, or is discarded. -/
  | calStepDone (die : Fin 2) (results : List (List Nat))
  /-- R100. The corrections of a completed calibration are applied at the next tempo boundary. -/
  | calApply (die : Fin 2)
  /-- R99. A calibration window closes ARG tempi after it opened, and its blank ends. -/
  | calWindowClose (die : Fin 2)
  /-- R103. At the first tempo boundary after a band change, the ADCs take the skew entries of the new band. -/
  | skewBandSwitch (die : Fin 2)
  /-- R105. A write of RFC_TR_SET forces the named outputs high where this is allowed. -/
  | trForceHigh (q : Requester) (half : Half) (value : Nat)
  /-- R105. A write of RFC_TR_CLR forces the named outputs low where this is allowed. -/
  | trForceLow (q : Requester) (half : Half) (value : Nat)
  /-- R106. A Register 0 Write command is queued on an RFFE master. -/
  | rffeRegister0Write (q : Requester) (m : Fin 6) (usid : Fin 16) (data : Nat)
  /-- R106. A Register Write command is queued on an RFFE master. -/
  | rffeRegisterWrite (q : Requester) (m : Fin 6) (usid : Fin 16) (addr data : Nat)
  /-- R106. A Register Read command is queued on an RFFE master. -/
  | rffeRegisterRead (q : Requester) (m : Fin 6) (usid : Fin 16) (addr : Nat)
  /-- R106. An Extended Register Write command is queued on an RFFE master. -/
  | rffeExtendedWrite (q : Requester) (m : Fin 6) (usid : Fin 16) (addr : Nat) (bytes : Fin 4) (data : Nat)
  /-- R106. An Extended Register Read command is queued on an RFFE master. -/
  | rffeExtendedRead (q : Requester) (m : Fin 6) (usid : Fin 16) (addr : Nat) (bytes : Fin 4)
  /-- R106. An Extended Register Write Long command is queued on an RFFE master. -/
  | rffeExtendedWriteLong (q : Requester) (m : Fin 6) (usid : Fin 16) (addr : Nat) (bytes : Fin 4) (data : Nat)
  /-- R106. An Extended Register Read Long command is queued on an RFFE master. -/
  | rffeExtendedReadLong (q : Requester) (m : Fin 6) (usid : Fin 16) (addr : Nat) (bytes : Fin 4)
  /-- R107. An RFFE frame completes on the bus, and a result is queued where the rules require one. -/
  | rffeFrameDone (m : Fin 6) (error : Bool) (data : Nat)
  /-- R107. A read of RFFE_RESULT bits [63:32], or a 64-bit read, removes the oldest result. -/
  | rffeResultRead (q : Requester) (m : Fin 6) (half : Half)
  /-- R121. A write of SQ_COEF_DATA stores a coefficient in the inactive bank, or is discarded while the bank is locked. -/
  | sqCoefWrite (q : Requester) (sq : Fin 128) (half : Half) (value : Nat)
  /-- R121. A read of SQ_COEF_DATA returns a coefficient and advances INDEX while AUTOINC is 1. -/
  | sqCoefRead (q : Requester) (sq : Fin 128) (half : Half)
  /-- R124. A coarse detector block completes and yields a coarse sample. -/
  | coarseBlock (sq : Fin 128) (donor service : List (List Nat))
  /-- R130. At the first tempo boundary after the fill time, FILLING passes to RAMP_UP or to MUTED. -/
  | fillDone (sq : Fin 128)
  /-- R129. A mute or unmute ramp ends, and the square enters ON, OFF or MUTED. -/
  | rampEnd (sq : Fin 128)
  /-- R130. A MUTED square starts its unmute ramp at the first tempo boundary with no mute source active. -/
  | unmuteStart (sq : Fin 128)
  /-- R115. After a rate change leaves placement failing, the square is muted when its die returns to RUN. -/
  | placementMute (sq : Fin 128)
  /-- R23. A parity error in a square's datapath or active bank raises its square fault and mutes it. -/
  | squareParityError (sq : Fin 128) (inCoef : Option (Fin 384))
  /-- R147. A write of SQ_EC_CDATA stores an echo coefficient when this is allowed, or is discarded with COEF_DROP. -/
  | ecCoefWrite (q : Requester) (sq : Fin 128) (half : Half) (value : Nat)
  /-- R147. A read of SQ_EC_CDATA returns an echo coefficient and advances TAP and PATH while AUTOINC is 1. -/
  | ecCoefRead (q : Requester) (sq : Fin 128) (half : Half)
  /-- R152. At the end of the first tempo of an outer step, I_eff and I_PHYS are published and EST_VALID is judged. -/
  | estimatePublish (sq : Fin 128)
  /-- R159. Floor and divergence faults clear one recovery interval after they were raised. -/
  | stabilityFaultClear (sq : Fin 128)
  /-- R145. At the first tempo boundary after a band change, the canceller step takes the new band's μ. -/
  | muBandSwitch (sq : Fin 128)
  /-- R173. At 3,060 cc the co-processor abandons unfinished work, which raises FLAGFALL. -/
  | deadline (rank : Fin 16)
  /-- R177. An outer step begins, and the set-point reductions and the noise-rise tests run. -/
  | outerStep (rank : Fin 16)
  /-- R175. A single-bit memory error in a rank is corrected and counted. -/
  | rkEccCorrected (rank : Fin 16)
  /-- R174. An uncorrectable co-processor memory error raises a rank fault, or a square fault if it lies in a matrix bank. -/
  | rkMemoryError (rank : Fin 16) (inMatrix : Option (Fin 8 × Fin 2 × Fin 172))
  /-- R174. An array fault raises a rank fault and mutes the rank's squares. -/
  | arrayFault (rank : Fin 16)
  /-- R174. A rank fault clears at a qualifying boundary, and x̂ is reset to X0. -/
  | rankFaultClear (rank : Fin 16)
  /-- R175. A write to a matrix window stores a word in the inactive bank, or is discarded. -/
  | matrixWrite (q : Requester) (rank : Fin 16) (sub : Fin 8) (w2 : Fin 86) (half : Half) (value : Nat)
  /-- R187. MS_PROTECT clears one recovery interval after the trigger, and the gain limit is applied. -/
  | oscillationClear (sq : Fin 128)
  /-- R189. The uplink noise-rise mute is released after DIR_HOLD tempi. -/
  | noiseRiseRelease
  /-- R188. A converter die reports a change of its permit, and the permit mute is raised or its release is timed. -/
  | permitReport (die : Fin 2) (present : Bool)
  /-- R189. The permit mute is released after the permit has been present for 16 tempi. -/
  | permitMuteRelease (die : Fin 2)
  /-- R190. PROTECT_N low for 150 cc raises the package pin stop. -/
  | protectNLow
  /-- R191. PROTECT_N returns high, which starts the level-mode release count. -/
  | protectNHigh
  /-- R191. PIN_ACK while the ball is high requests the release of a latched pin stop. -/
  | pinAck (q : Requester)
  /-- R191. The pin stop clears at the tempo boundary that its mode's release condition gives. -/
  | pinStopRelease
  /-- R200. A word written to a mailbox is stored, or is discarded while the mailbox is busy. -/
  | mailboxWrite (q : Requester) (f : Fin 9) (w : Fin 20) (half : Half) (value : Nat)
  /-- R195. GO submits a mailbox message for verification. -/
  | mailboxGo (q : Requester) (f : Fin 9)
  /-- R200. The free key store takes the next pending mailbox. -/
  | verifyStart
  /-- R195. A verified RESIGN message sets the function's stop latch and is forwarded when its scope is the system. -/
  | resign
  /-- R195. A verified RESUME message clears the function's stop latch. -/
  | resume
  /-- R195. MS_STOP clears at the next tempo boundary after a latch is released. -/
  | stopRelease
  /-- R210. A MODE 0 commit makes the context's plan PENDING for the next boundary. -/
  | planCommit (q : Requester) (planId : Nat) (discard : Bool)
  /-- R211. A MODE 1 commit makes the plan WAIT_SCHED for its PLAN occurrence. -/
  | planCommitSched (q : Requester) (planId : Nat) (discard : Bool)
  /-- R217. DISCARD drops the context's staging and aborts a waiting plan. -/
  | planDiscard (q : Requester)
  /-- R217. GPL_RELEASE by the PF drops a context's staging. -/
  | planRelease (q : Requester) (ctx : Nat)
  /-- R213. At its boundary a plan is checked and applied whole, or fails. -/
  | planApply (ctx : Fin 10)
  /-- R224. A VDD_ZM power-on or ZM_RST_N low restarts the ZMD with the permit absent. -/
  | zmdReset
  /-- R226. The ZMD completes its start, arms the guard, decides the seal state and gives the permit. -/
  | zmdStartDone (otpOk : Bool) (found : StartFound) (monOk calen : Bool)
  /-- R227. The clock checker detects a deviation of more than 1 % and withdraws the permit. -/
  | clockFault
  /-- R227. After a clock fault, once the reference has been good for 10 ms, the ZMD restarts. -/
  | zmdRestart
  /-- R234. A receiver's periodic reference check corrects its gain, or sets REF_FAIL. -/
  | referenceCheck (input : Fin 16) (corr : Int)
  /-- R233. A measurement dwell on a window ends and is accumulated into its period. -/
  | dwellEnd (input : Fin 16) (blocks : List Nat) (above ok : Bool)
  /-- R236. A report period ends, its report starts signing, and the pending settings take effect. -/
  | reportPeriodEnd
  /-- R243. Signing of a report completes, the report is kept, and it is mirrored with an event pulse. -/
  | reportSigned
  /-- R238. The guard decides a mute on CEILING or RUNAWAY and withdraws both permits. -/
  | guardDecision (blocks : List (List Int))
  /-- R239. The guard hold ends, and the permit is given again or the hold restarts. -/
  | guardHoldEnd (ceiling : Bool)
  /-- R239. After 60 s without a decision, the hold time returns to 10 ms. -/
  | guardHoldReset
  /-- R242. The meter-port command GET_ID returns the identity and the attestation. -/
  | getId (tag len : Nat)
  /-- R242. The meter-port command GET_STATUS returns the ZMD status. -/
  | getStatus (tag len : Nat)
  /-- R243. The meter-port command GET_REPORT returns a held report, or BUSY or NOT_FOUND. -/
  | getReport (tag : Nat) (payload : List Nat)
  /-- R243. The meter-port command SET_WINDOWS stages runtime windows for the next period. -/
  | setWindows (tag : Nat) (input recs : List Nat)
  /-- R243. The meter-port command SET_TIMING stages PERIOD and DWELL for the next period. -/
  | setTiming (tag : Nat) (period dwell : List Nat)
  /-- R243. The meter-port command SET_NONCE stages a nonce for the next completed report. -/
  | setNonce (tag : Nat) (payload : List Nat)
  /-- R242. The meter-port command GET_GUARD returns the last 32 guard decisions. -/
  | getGuard (tag len : Nat)
  /-- R231. The meter-port command CAL_WRITE stages board-calibration data in a session. -/
  | calWrite (tag : Nat) (offset data : List Nat)
  /-- R231. The meter-port command CAL_LOCK burns the staged generation into the next free OTP slot. -/
  | calLock (tag len : Nat) (outcome : Fin 3)
  /-- R242. A frame with an unknown command code is answered with UNKNOWN_CMD. -/
  | unknownCmd (cmd tag : Nat)
  /-- R244. A mirror status frame arrives and updates the MTR status fields. -/
  | mirrorStatusFrame (ok : Bool) (temp : Nat)
  /-- R244. A mirror report frame arrives, and a report whose frames are all intact is published. -/
  | mirrorReportFrame (ok last : Bool)
  /-- R244. A mirror identity block arrives and updates MTR_ID, MTR_PUBKEY and MTR_ATTEST. -/
  | mirrorIdentityFrame (ok : Bool)
  /-- R244. 1 ms without a valid mirror frame clears LINK. -/
  | mirrorLinkTimeout
  /-- R247. A PWM carrier period ends, and the dither, bank, dead time and hiccup count advance. -/
  | periodEnd (ch : Fin 16)
  /-- R258. A confirmed cycle-by-cycle trip ends the H pulse for the rest of the period. -/
  | cbcTrip (ch : Fin 16) (t mv : Nat)
  /-- R259. A confirmed hard-limit trip drives the outputs low and puts the channel and its group into TRIPPED. -/
  | hardTrip (levels : List Nat)
  /-- R260. After SS_PERIODS periods, SOFTSTART passes to RUN. -/
  | softstartDone (ch : Fin 16)
  /-- R260. After HICCUP_OFF periods, the channel or its group re-enters SOFTSTART. -/
  | hiccupEnd (ch : Fin 16)
  /-- R260. Setting an EN bit of PSU_EN starts the channel in SOFTSTART. -/
  | pwmEnable (q : Requester) (mask : Nat)
  /-- R260. Clearing an EN bit of PSU_EN drives both outputs low and enters OFF. -/
  | pwmDisable (q : Requester) (mask : Nat)
  /-- R272. A housekeeping round starts, and any list still running is abandoned. -/
  | hkRoundStart
  /-- R270. A housekeeping entry completes, and its result is flagged, stored and queued. -/
  | hkResult (conv : Fin 2) (sum sum2 clips : Nat)
  /-- R273. A write of REF_EN starts or stops the reference and the converters. -/
  | hkRefEnWrite (q : Requester) (on : Bool)
  /-- R273. REF_READY becomes 1 after 500 µs with REF_EN set. -/
  | hkRefReady
  /-- R274. CAL_A or CAL_B starts a self-calibration of a converter, or is refused. -/
  | hkCal (q : Requester) (conv : Fin 2)
  /-- R274. A self-calibration ends and writes the new GAIN and OFFSET. -/
  | hkCalDone (conv : Fin 2) (offset : Int) (gain : Nat)
  /-- R276. FLUSH empties the result queue. -/
  | hkFlush (q : Requester)
  /-- R276. A read of HK_QUEUE bits [63:32], or a 64-bit read, removes the oldest record. -/
  | hkQueueRead (q : Requester) (half : Half)
  /-- R295. A die's comparator reaches 125 °C and shuts the die down. -/
  | thermalShutdown (die : Fin 4)
  /-- R295. After 1 s below 105 °C the die is released from shutdown. -/
  | thermalRelease (die : Fin 4)
  /-- R300. A fault source's decoded level rises, and it is counted, classified, captured and recorded. -/
  | faultEvent (src : Fin 512) (cause master access : Nat) (addr : Option Nat)
  /-- R299. Four consecutive invalid samples of a pair raise a pair fault. -/
  | pairFault (src : Fin 512)
  /-- R299. The first valid sample ends a pair fault. -/
  | pairFaultEnd (src : Fin 512)
  /-- R303. A source's classification window closes, and COUNT returns to 0. -/
  | faultWindowClose (src : Fin 512)
  /-- R305. A W1C write to FLT_PENDING clears PENDING, or re-asserts it while the source is active. -/
  | faultPendingClear (q : Requester) (j : Fin 8) (value : Nat)
  /-- R305. A W1C write to FLT_SEVERE clears SEVERE while PENDING is 0. -/
  | severeClear (q : Requester) (j : Fin 8) (value : Nat)
  /-- R304. A held mute is released at the first tempo boundary after SEVERE clears. -/
  | severeHoldRelease
  /-- R302. A square or wing datapath fault clears one recovery interval after the last parity error. -/
  | datapathFaultClear (src : Fin 512)
  /-- R26. A parity error in a wing's channeliser or combiner mutes the wing's 32 squares. -/
  | wingParityError (wing : Fin 4) (combiner : Bool)
  /-- R307. A write of 1 to FLT_FIRST.VALID re-arms the first-error capture. -/
  | firstRearm (q : Requester)
  /-- R309. FLT_INJECT mode 0 releases every injection. -/
  | injectRelease (q : Requester)
  /-- R309. FLT_INJECT mode 1 drives one asserted event on a source with cause 0xFE. -/
  | injectEvent (q : Requester) (src : Fin 512)
  /-- R309. FLT_INJECT mode 2 holds a source's rails at 0, 0. -/
  | injectHoldLow (q : Requester) (src : Fin 512)
  /-- R309. FLT_INJECT mode 3 holds a source's rails at 1, 1. -/
  | injectHoldHigh (q : Requester) (src : Fin 512)
  /-- R313. AON takes a record from the staging FIFO and writes it to the black-box ring. -/
  | bbRecordWrite
  /-- R314. A FREEZE write by the PF is a fatal event that freezes the black box. -/
  | fltFreeze (q : Requester)
  /-- R314. Every 1 ms, CORE sends AON an AT beacon. -/
  | atBeacon
  /-- R316. A write of FLT_BB_RD.INDEX requests a black-box entry. -/
  | bbReadRequest (q : Requester) (index : Fin 512)
  /-- R316. The requested entry appears in the data registers, and RD_READY is set. -/
  | bbReadDone
  /-- R316. ACK clears the black box and its status. -/
  | bbAck (q : Requester)
  /-- R311. A write of FLT_BB_MARK queues a MARK record. -/
  | bbMark (q : Requester) (value : Nat)
  /-- R306. 2,000 cc after reset release, FAULT_N follows the pending sources. -/
  | faultNInitDone
  /-- R320. A source input asserts or pulses and makes the source pending. -/
  | intRequest (n : Nat)
  /-- R320. A level input deasserts before claim or issue and clears the pending state. -/
  | intWithdraw (n : Nat)
  /-- R321. A write of INT_SETPEND sets a source pending. -/
  | intSetpend (q : Requester) (n : Nat)
  /-- R321. A write of INT_CLRPEND clears a source's pending state. -/
  | intClrpend (q : Requester) (n : Nat)
  /-- R324. A read of INT_CLAIM by its core claims the winning source, or returns 0 or 2,047. -/
  | intClaim (q : Requester) (t : Fin 4)
  /-- R327. A write of INT_EOI completes an active source at a core target, or sets EOI_ERR. -/
  | intEoi (q : Requester) (t : Fin 4) (n : Nat)
  /-- R328. A write of INT_HEOI completes active sources of a host function. -/
  | intHeoi (q : Requester) (f : Fin 9) (n : Nat)
  /-- R328. A pending source routed to a host function is sent as an MSI-X message. -/
  | msixIssue
  /-- R330. A held eligible source that has waited COAL_TIME asserts the core line. -/
  | coalesceTimeout (t : Fin 4)
  /-- R329. A write of INT_SRC routes a source, or is refused with ROUTE_REFUSED. -/
  | intRouteWrite (q : Requester) (n : Nat) (half : Half) (value : Nat)
  /-- R343. Setting a RUN bit releases a core at SUP_BOOT. -/
  | coreRelease (q : Requester) (core : Fin 4)
  /-- R343. Clearing a RUN bit holds the core and completes its active interrupt sources. -/
  | coreHold (q : Requester) (core : Fin 4)
  /-- R342. The zeroing of TCM and SRAM completes, and INIT_DONE is set. -/
  | supInitDone
  /-- R345. mtime reaches SUP_MTIMECMP, and the machine timer interrupt becomes pending. -/
  | mtimerExpire (core : Fin 4)
  /-- R348. A core executes WFI, stops its clock and reports IDLE. -/
  | coreWfi (core : Fin 4)
  /-- R341. A memory error in TCM, SRAM or a cache is corrected or raises its fault. -/
  | supEccError (core : Fin 4) (kind : Fin 5)
  /-- R340. A write of SUP_TEN_DENY denies the cores a tenant's resources and may release context 9. -/
  | tenDenyWrite (q : Requester) (value : Nat)
  /-- R358. A write of TEN_ASSIGN requests an ownership change, which is judged. -/
  | assignRequest (q : Requester) (sq : Fin 128) (func : Fin 16)
  /-- R358. An accepted ownership change is judged again and applied at its boundary. -/
  | assignApply
  /-- R361. Written quota, allow-list and configuration values take effect at a boundary, and the tenants concerned are judged. -/
  | quotaUpdate
  /-- R364. An FLR, VF Enable cleared, or NumVFs lowered starts a VF reset. -/
  | vfFlr (f : Fin 8)
  /-- R364. A VF reset completes, and FLR is set for the PF. -/
  | vfFlrDone (f : Fin 8)
  /-- R364. With FLR_DISABLE set, the VF's enabled squares are withdrawn at the next qualifying boundary. -/
  | flrWithdrawal (f : Fin 8)
  /-- R365. An FLR of the PF resets every VF and the PF configuration space. -/
  | pfFlr
  /-- R366. A write of TEN_DBELL pulses the doorbell interrupt source. -/
  | doorbell (q : Requester) (f : Fin 8) (index : Fin 16)
  /-- R356. A TLP on VC1 outside the permitted writes is discarded or completed with Unsupported Request. -/
  | vc1Misuse (f : Fin 9) (posted : Bool) (addr : Nat)
  /-- R372. A write of CAP_DQ_TAIL submits descriptors to a capture queue. -/
  | dqTailWrite (q : Requester) (eng : Fin 16) (queue : Fin 10) (tail : Nat)
  /-- R373. A descriptor read completes and is checked, or the queue halts. -/
  | descriptorFetched (eng : Fin 16) (ok : Bool) (bytes : List Nat) (total : Nat)
  /-- R373. A gather entry fetch completes. -/
  | gatherFetched (eng : Fin 16) (ok : Bool) (offset pages rest : Nat)
  /-- R374. An element is checked at its start and takes credit, or the descriptor fails. -/
  | elementStart (eng : Fin 16)
  /-- R376. A descriptor with START 1 starts at START_AT. -/
  | captureStartAt (eng : Fin 16)
  /-- R376. A raw-lane snapshot fills the engine buffer, and record writing begins. -/
  | snapshotDone (eng : Fin 16)
  /-- R370. A block of samples completes and is written as a record of 4 KiB. -/
  | recordWrite (eng : Fin 16) (at0 frac place : Nat) (bad : Bool) (samples : List Int)
  /-- R377. The acknowledgement of a capture write retires it from the in-flight counts. -/
  | writeAck
  /-- R381. ABORT ends the queue's current and queued descriptors with ABORTED. -/
  | capAbort (q : Requester) (eng : Fin 16) (queue : Fin 10)
  /-- R374. RESTART clears HALTED and refetches the descriptor at HEAD. -/
  | capRestart (q : Requester) (eng : Fin 16) (queue : Fin 10)
  /-- R374. A write of CAP_CREDIT_ADD adds to a function's capture credit, saturating. -/
  | creditAdd (q : Requester) (f : Fin 10) (value : Nat)
  /-- R372. A write of CAP_CQ_HEAD frees completion slots so that descriptors may start. -/
  | cqHeadWrite (q : Requester) (eng : Fin 16) (queue : Fin 10) (head : Nat)
  /-- R378. When the quota fits again, a paused descriptor resumes at its next element. -/
  | captureResume (eng : Fin 16) (queue : Fin 10)
  /-- R387. A write of a port's EN moves it between DISABLED and TRAIN. -/
  | chlEnWrite (q : Requester) (port : Fin 2) (on : Bool)
  /-- R387. A port completes training and enters UP. -/
  | linkUp (port : Fin 2)
  /-- R387. A port not UP within 10 ms raises cause 4 and restarts TRAIN. -/
  | trainTimeout (port : Fin 2)
  /-- R387. The loss condition takes a port from UP to TRAIN, and SENT slots become UNCERTAIN. -/
  | linkLoss (port : Fin 2) (align : Bool)
  /-- R399. A received STOP frame sets a latch or the link stop and is forwarded, or is discarded as a loop. -/
  | stopFrameRx (port : Fin 2) (seq kind : Nat) (func : Fin 16) (counter devId : Nat) (hash : List Nat)
  /-- R390. A received CONTROL message is accepted in order, stored and acknowledged. -/
  | messageRx (port : Fin 2) (seq : Nat) (blocks : List Nat)
  /-- R198. A received RESUME frame is verified locally and forwarded. -/
  | resumeRx (port : Fin 2) (seq : Nat) (words : List Nat)
  /-- R402. A received TIMING frame yields a timing detection for a slave. -/
  | timingRx (port : Fin 2) (t1 : Nat) (state : Fin 4) (hops : Fin 16) (devId t2 : Nat)
  /-- R401. A received DELAY_REQ is answered with DELAY_RESP carrying T4. -/
  | delayReqRx (port : Fin 2) (t4 : Nat)
  /-- R401. A received DELAY_RESP completes a path-delay exchange. -/
  | delayRespRx (port : Fin 2) (t4 : Nat)
  /-- R394. A received SAMPLES frame is injected, forwarded or dropped under the stream entry. -/
  | samplesRx (port : Fin 2) (seq : Nat) (stream : Fin 256) (ul : Bool) (lane : Fin 8) (slotBw stamp : Nat) (words : List Nat)
  /-- R390. A received ACK block retires acknowledged reliable frames. -/
  | ackRx (port : Fin 2) (control busy : Bool) (next : Nat)
  /-- R387. A received INIT block counts toward training, or restarts training when it arrives in UP. -/
  | initRx (port : Fin 2) (master : Bool) (hops : Fin 16)
  /-- R390. RETX_US after its last transmission, an unacknowledged reliable frame is sent again. -/
  | retransmit (port : Fin 2) (control : Bool)
  /-- R401. At each radio frame a TIMING frame is sent with T1. -/
  | timingTx (port : Fin 2)
  /-- R401. A slave sends DELAY_REQ in mid-frame and records T3. -/
  | delayReqTx (port : Fin 2)
  /-- R393. Every 64 slot samples a SAMPLES frame is queued on the port. -/
  | samplesTx (sq : Fin 128) (lane : Fin 8) (stamp back : Nat)
  /-- R384. Every 16,384 blocks an ALIGN block is sent on all lanes. -/
  | alignTx (port : Fin 2)
  /-- R387. In TRAIN an INIT block is sent every 1,024 blocks. -/
  | initTx (port : Fin 2)
  /-- R389. SEND queues a transmit slot as a CONTROL message. -/
  | send (q : Requester) (port : Fin 2) (slot : Fin 16) (len : Nat)
  /-- R389. CANCEL withdraws a queued transmit slot, or reports LATE or NOT_QUEUED. -/
  | cancel (q : Requester) (port : Fin 2) (slot : Fin 16)
  /-- R407. POP frees the oldest received message slot. -/
  | pop (q : Requester) (port : Fin 2)
  /-- R399. LSTOP_ACK requests the release of the link stop. -/
  | lstopAck (q : Requester)
  /-- R399. LINK_STOP clears at the first tempo boundary after LSTOP_ACK. -/
  | linkStopRelease
  /-- R415. OP LOAD stores the staged digest in a key slot, or is refused. -/
  | keyLoad (q : Requester) (slot : Fin 16)
  /-- R415. OP CLEAR empties a key slot, or is refused. -/
  | keyClear (q : Requester) (slot : Fin 16)
  /-- R415. OP LOCK locks a key slot until reset. -/
  | keyLock (q : Requester) (slot : Fin 16)
  /-- R416. The key-store known-answer tests end, and pending mailboxes may be verified. -/
  | selftestDone (katFail : Bool)
  /-- R418. The EXTEST instruction drives the boundary cells and stops every square. -/
  | extest
  /-- R417. The SAMPLE/PRELOAD instruction samples and preloads the boundary cells. -/
  | samplePreload (pwmH pwmL others : Nat)
  /-- R417. The IDCODE instruction selects the 32-bit identification register. -/
  | idcode
  /-- R418. The CLAMP instruction holds the outputs from the boundary cells and stops every square. -/
  | clamp
  /-- R418. The HIGHZ instruction floats the outputs and stops every square. -/
  | highz
  /-- R417. The BYPASS instruction, or any other opcode, selects the bypass register. -/
  | bypass (opcode : Fin 256)
  /-- R418. The JTAG stop is released at the first tempo boundary after another instruction is loaded. -/
  | jtagStopRelease
  /-- R420. A supply rail falls below its fail threshold, with the effect of its monitor. -/
  | railFail (rail : Rail)
  /-- R420. A supply rail rises above its good threshold. -/
  | railGood (rail : Rail)
  /-- R422. A first power-up, or the failure of VDD_BD or VDD_IO, holds the board die in cold reset. -/
  | coldReset
  /-- R422. PERST# low puts the board die into warm reset. -/
  | perstAssert
  /-- R422. PWR_RST with WARM and the key asserts a warm reset for 10 µs. -/
  | pwrRstWarm (q : Requester) (key : Nat)
  /-- R424. A cold or warm reset is released, and the retention decision and the RESET record are made. -/
  | resetRelease (imgAuto vioHigh : Bool)
  /-- R425. VBAT falls below 2.40 V, which clears VBAT_OK. -/
  | vbatLow
  /-- R426. The AON supply falls below 1.60 V and clears the retention flag. -/
  | retentionFlagClear
  /-- R427. PWR_SLEEP.ENTER is judged and enters deep sleep, or is refused. -/
  | sleepEnter (q : Requester)
  /-- R430. A waking event restarts the clocks, restores the interrupt state and records the cause. -/
  | wake (tlp : Bool) (n : Nat)
  /-- R242. A meter-port frame whose CRC-16 fails is answered with CMD 0xFF, the received TAG and status 0x02. -/
  | meterPortCrcFail (tag : Nat)
  /-- R386. A Chain Link frame that fails its CRC-32, or that holds an invalid block, is discarded and counted in CHL_ERR.CRC_ERR. -/
  | chlFrameCrcErr (port : Fin 2)
  /-- R195. Verification of a mailbox message ends with a failure code from 2 to 8, which is written to RESULT with nothing else changed and raises the tenant's CMD_REJECT. -/
  | cmdReject
  deriving DecidableEq, Repr

end Sys2Proof
end

