-- ==== Sys2Proof/Config.lean ====
section
/-!
DEFINITION. What a package fixes for good (fuses, board straps) and the free values: constants without a body, of
which nothing can be proved but what holds for every value.
-/

namespace Sys2Proof.Config

/-- A free value: what the spec leaves open, fresh at each count of the state's `freeCtr`. -/
opaque freeValue : Nat → Nat

/-- What the oscillation detector takes for an aggregate below −120.00 dBFS, which has no value in dBFS (R123, R185), Q7.8 (DESIGN CHOICE, log 73). -/
opaque oscFloor : Int

/-- The 24-bit serial number fused at final test (R465): unique to each package, so no value of it is stated (DESIGN CHOICE, log 5). -/
opaque serialFuse : Nat

/-- How an inexact value is rounded where the spec states no rounding: up or not, by what is rounded and its operand. -/
opaque roundUp : Nat → Int → Bool

/-- The coefficients of the fixed filters of the front channeliser, the merger, the half-band stages, the Farrow interpolator, the sub-band
split and the synthesis bank (R112–R118), which the spec does not give: lengths, and coefficients of 30 fraction bits by number of
sub-bands, sub-band, phase or order, and position. `Sys2Proof.Machine.Filter` holds them to what the rules require (DESIGN CHOICE, log 94). -/
opaque analysisTaps : Nat
@[inherit_doc analysisTaps] opaque analysis : Nat → Int
@[inherit_doc analysisTaps] opaque mergeTaps : Nat
@[inherit_doc analysisTaps] opaque merge : Nat → Nat → Nat → Nat → Cx
@[inherit_doc analysisTaps] opaque halfPairs : Nat
@[inherit_doc analysisTaps] opaque halfBand : Nat → Int
@[inherit_doc analysisTaps] opaque farrowTaps : Nat
@[inherit_doc analysisTaps] opaque farrow : Nat → Nat → Int
@[inherit_doc analysisTaps] opaque splitTaps : Nat
@[inherit_doc analysisTaps] opaque split : Nat → Nat → Nat → Cx
@[inherit_doc analysisTaps] opaque synthTaps : Nat
@[inherit_doc analysisTaps] opaque synth : Nat → Int

/-- What an accumulator of so many bits holds after a sum outside its range. -/
opaque overflow : Nat → Int → Int

/-- The isolation reported for a coupling of 0, which has no finite value in dB (R151, R152) (DESIGN CHOICE, log 16). -/
opaque isoOfZero : Int

/-- TX_REF of a square with no transmit lane (R177), in 0.01 dB. -/
opaque txRefNone : Int

/-- ETA (UQ1.15) and OFS (0.01 °C) of the internal diodes, from fuse, by diode 0–11 (R283) (DESIGN CHOICE, log 17). -/
opaque diodeEta : Nat → Nat
@[inherit_doc diodeEta] opaque diodeOfs : Nat → Int

/-- The place of a board-die ball's boundary cell among those beside the PWM pairs: the spec gives no order (R418) (DESIGN CHOICE, log 48). -/
opaque cellPlace : Nat → Nat

/-- Which lanes of a Chain Link port hold block lock in TRAIN, by port and Tc since reset (R387, R407): they depend on the peer (DESIGN CHOICE, log 46). -/
opaque laneLock : Nat → Nat → BitVec 4

/-- The temperature of a reading whose conversion has no value: ETA, BETA or RB_R0 of 0, or no positive temperature (R283). -/
opaque tempNone : Nat → Int

/-- K(f, T) of R235 in 0.001 dB, from the ZMD's die calibration: by frequency in kHz and by report (DESIGN CHOICE, log 18). -/
opaque dieCorr : Nat → Nat → Int

/-- What a board-calibration image holds (R230), whose byte layout the spec does not give: for an input, its points of
frequency in kHz and coupling in 0.001 dB, and its guard ceiling in 0.001 dBm. -/
opaque calPoints : SMap Nat → Nat → List (Nat × Int)
@[inherit_doc calPoints] opaque calCeiling : SMap Nat → Nat → Int

/-- The default windows of an image, as input, window, FC and BW; its default PERIOD and DWELL (R230). -/
opaque calWindows : SMap Nat → List (Nat × Nat × Nat × Nat)
@[inherit_doc calWindows] opaque calTiming : SMap Nat → Nat × Nat

/-- The branch predictor of a supervisor core, of which the spec gives the parts and not their size or working (R335, R347): the entry
of the history table for an address, what that entry becomes after a branch was taken or not, whether it predicts taken, and the entry
of the target buffer for an address (DESIGN CHOICE, log 118). -/
opaque bhtSlot : Nat → Nat
@[inherit_doc bhtSlot] opaque bhtNext : Nat → Bool → Nat
@[inherit_doc bhtSlot] opaque bhtTakes : Nat → Bool
@[inherit_doc bhtSlot] opaque btbSlot : Nat → Nat

/-- The secret half of the ZMD's identity key, which the ZMD makes inside itself at sealing (R229, R412). -/
opaque zmdSecretKey : Nat

/-- The secret half of the Codratar attestation key, which no device holds, and the number that ECDSA drew for the attestation of this
one (R229, R412). -/
opaque codratarKey : Nat
@[inherit_doc codratarKey] opaque attestDraw : Nat

end Sys2Proof.Config
end

