-- ==== Sys2Proof/Machine/RegMap.lean ====
section
/-!
DEFINITION. The register map: one `Fld` for every field of every register table of spec/ (offset, place, width and
reset value as the tables give them), and the table of all registers with each field's access code (R5) and the
range of values that are not reserved encodings (R7). Instance strides follow R10 and the page rules of each chapter.
-/

namespace Sys2Proof.Machine

/-- A register field: BAR0 offset of its register, lowest bit, width, and value after reset (R9, R450). -/
structure Fld where
  addr : Nat
  lo : Nat
  wd : Nat
  rst : Nat
  deriving DecidableEq, Repr

/-- The key under which the register store holds a field: 64 keys per register byte offset. -/
def Fld.key (f : Fld) : Nat := f.addr * 64 + f.lo

/-- The access codes of R5; RSV bits belong to no field. -/
inductive Acc where
  | rw | ro | w1c | w1s | rc | wo | rwp
  deriving DecidableEq, Repr

/-- One row of a register table: the field, its access code, and the least and greatest value that is not a
reserved encoding (R7). -/
structure FldRow where
  fld : Fld
  acc : Acc
  vmin : Nat
  vmax : Nat
  deriving DecidableEq, Repr

/-- One register of the map: its lowest address, its index ranges (first index, count, stride), and its fields at
an instance. The base is the address at which every index is 0. -/
structure RegRow where
  base : Nat
  dims : List (Nat × Nat × Nat)
  flds : Nat → Nat → Nat → List FldRow

/-- The hardware kind of an interrupt source: 1 = edge (the MARK sources and those from 1,024 up), 0 = level (R320). -/
def intKind (n : Nat) : Nat := if (648 ≤ n ∧ n ≤ 663) ∨ 1024 ≤ n then 1 else 0

/-- The package identity of PRT_DEVID as fused (R465): its two fixed parts around the serial number. -/
def fuseDeviceId : Nat := 0x4F565A * 2 ^ 40 + Config.serialFuse % 2 ^ 24 * 2 ^ 16 + 0x8848

namespace F

/-! Fields of the WG registers (01_architecture.md R36). -/
def WG_ID_WING (n : Nat) : Fld := ⟨0x1200000 + 0x1000 * n, 0, 2, n⟩
def WG_ID_DIR (n : Nat) : Fld := ⟨0x1200000 + 0x1000 * n, 2, 1, n / 2⟩
def WG_SHARE_SHARE_MHZ (n : Nat) : Fld := ⟨0x1200008 + 0x1000 * n, 0, 11, 0⟩
def WG_BUDGET_TX_BUDGET (n : Nat) : Fld := ⟨0x1200010 + 0x1000 * n, 0, 16, 0x8000⟩
def WG_THSTEP_STEP (n : Nat) : Fld := ⟨0x1200018 + 0x1000 * n, 0, 3, 0⟩
def WG_THSTEP_STEP_CUT (n : Nat) : Fld := ⟨0x1200018 + 0x1000 * n, 16, 16, 0⟩
def WG_LIMIT_EFF_LIMIT (n : Nat) : Fld := ⟨0x1200020 + 0x1000 * n, 0, 16, 0x8000⟩
def WG_MEAS_TX_SUM (n : Nat) : Fld := ⟨0x1200028 + 0x1000 * n, 0, 16, 0x8000⟩
def WG_MEAS_OVER (n : Nat) : Fld := ⟨0x1200028 + 0x1000 * n, 32, 1, 0⟩
def WG_PKG_LIMIT_DONOR_LIMIT : Fld := ⟨0x1204000, 0, 16, 0x8000⟩
def WG_PKG_LIMIT_SERVICE_LIMIT : Fld := ⟨0x1204000, 32, 16, 0x8000⟩
def WG_PKG_MEAS_DONOR_SUM : Fld := ⟨0x1204008, 0, 16, 0x8000⟩
def WG_PKG_MEAS_SERVICE_SUM : Fld := ⟨0x1204008, 32, 16, 0x8000⟩

/-! Fields of the TOP registers (02_urold_image.md R60). -/
def TOP_IDENT_DEVICE : Fld := ⟨0x0, 0, 16, 0x8848⟩
def TOP_IDENT_REV_MAJOR : Fld := ⟨0x0, 16, 4, 1⟩
def TOP_IDENT_REV_MINOR : Fld := ⟨0x0, 20, 4, 0⟩
def TOP_IDENT_IMG_FMT : Fld := ⟨0x0, 32, 16, 1⟩
def TOP_IMG_CTRL_SOURCE : Fld := ⟨0x8, 0, 1, 0⟩
def TOP_IMG_CTRL_START : Fld := ⟨0x8, 1, 1, 0⟩
def TOP_IMG_CTRL_ABORT : Fld := ⟨0x8, 2, 1, 0⟩
def TOP_IMG_CTRL_CLEAR : Fld := ⟨0x8, 3, 1, 0⟩
def TOP_IMG_CTRL_HASH_REQ : Fld := ⟨0x8, 4, 1, 0⟩
def TOP_IMG_STATUS_STATE : Fld := ⟨0x10, 0, 3, 0⟩
def TOP_IMG_STATUS_CAUSE : Fld := ⟨0x10, 4, 4, 0⟩
def TOP_IMG_STATUS_RESOLVED : Fld := ⟨0x10, 8, 1, 0⟩
def TOP_IMG_STATUS_HASH_BUSY : Fld := ⟨0x10, 9, 1, 0⟩
def TOP_IMG_STATUS_HASH_VALID : Fld := ⟨0x10, 10, 1, 0⟩
def TOP_IMG_STATUS_PLANNED : Fld := ⟨0x10, 11, 1, 0⟩
def TOP_IMG_STATUS_PORT_DROP : Fld := ⟨0x10, 12, 1, 0⟩
def TOP_IMG_COUNT_WORDS : Fld := ⟨0x18, 0, 24, 0⟩
def TOP_IMG_COUNT_WRITES : Fld := ⟨0x18, 32, 16, 0⟩
def TOP_IMG_COUNT_DISCARDED : Fld := ⟨0x18, 48, 16, 0⟩
def TOP_IMG_FLASH_BASE : Fld := ⟨0x20, 0, 32, 0⟩
def TOP_IMG_FLASH_MAX_KIB : Fld := ⟨0x20, 32, 12, 0x40⟩
def TOP_IMG_FLASH_DUMMY : Fld := ⟨0x20, 48, 5, 8⟩
def TOP_IMG_FLASH_MODE : Fld := ⟨0x20, 56, 1, 0⟩
def TOP_IMG_PORT_WORD_LO : Fld := ⟨0x28, 0, 32, 0⟩
def TOP_IMG_PORT_WORD_HI : Fld := ⟨0x28, 32, 32, 0⟩
def TOP_STRUCT_ADDR_INDEX : Fld := ⟨0x30, 0, 12, 0⟩
def TOP_STRUCT_ADDR_AUTOINC : Fld := ⟨0x30, 16, 1, 0⟩
def TOP_STRUCT_DATA_DATA_LO : Fld := ⟨0x38, 0, 32, 0⟩
def TOP_STRUCT_DATA_DATA_HI : Fld := ⟨0x38, 32, 32, 0⟩
def TOP_ROUTED_LO_SQ_A : Fld := ⟨0x40, 0, 32, 0⟩
def TOP_ROUTED_LO_SQ_B : Fld := ⟨0x40, 32, 32, 0⟩
def TOP_ROUTED_HI_SQ_C : Fld := ⟨0x48, 0, 32, 0⟩
def TOP_ROUTED_HI_SQ_D : Fld := ⟨0x48, 32, 32, 0⟩
def TOP_HASH_DIGEST_LO (j : Nat) : Fld := ⟨0x50 + 8 * j, 0, 32, 0⟩
def TOP_HASH_DIGEST_HI (j : Nat) : Fld := ⟨0x50 + 8 * j, 32, 32, 0⟩

/-! Fields of the AIR registers (03_air_timeline.md R86). -/
def AIR_CTRL_SOURCE : Fld := ⟨0x100000, 0, 2, 0⟩
def AIR_CTRL_CHL_PORT : Fld := ⟨0x100000, 2, 1, 0⟩
def AIR_CTRL_RAT : Fld := ⟨0x100000, 3, 1, 0⟩
def AIR_CTRL_MU : Fld := ⟨0x100000, 4, 3, 0⟩
def AIR_CTRL_ECP : Fld := ⟨0x100000, 7, 1, 0⟩
def AIR_CTRL_PPS_OUT_EN : Fld := ⟨0x100000, 8, 1, 0⟩
def AIR_CTRL_SYNC_OUT_EN : Fld := ⟨0x100000, 9, 1, 0⟩
def AIR_CTRL_RESTART : Fld := ⟨0x100000, 10, 1, 0⟩
def AIR_CELL_PCI : Fld := ⟨0x100008, 0, 10, 0⟩
def AIR_CELL_BAND_IDX : Fld := ⟨0x100008, 12, 3, 0⟩
def AIR_CELL_LANE : Fld := ⟨0x100008, 16, 3, 0⟩
def AIR_CELL_SSB_CASE : Fld := ⟨0x100008, 20, 2, 0⟩
def AIR_CELL_SSB_PERIOD : Fld := ⟨0x100008, 24, 3, 2⟩
def AIR_CELL_DET_THR : Fld := ⟨0x100008, 28, 4, 8⟩
def AIR_CELL_SSB_FREQ : Fld := ⟨0x100008, 32, 32, 0⟩
def AIR_TIMING_HOLD_MS : Fld := ⟨0x100010, 0, 16, 0x64⟩
def AIR_TIMING_LOCK_COUNT : Fld := ⟨0x100010, 16, 4, 4⟩
def AIR_TIMING_HOLDOVER_MS : Fld := ⟨0x100010, 32, 16, 0x7d0⟩
def AIR_WIN_LOCK_WIN : Fld := ⟨0x100018, 0, 16, 0x40⟩
def AIR_WIN_SLEW_WIN : Fld := ⟨0x100018, 16, 16, 0x400⟩
def AIR_EXT_EXT_DELAY : Fld := ⟨0x100020, 0, 24, 0⟩
def AIR_EXT_PPS_POL : Fld := ⟨0x100020, 24, 1, 0⟩
def AIR_EXT_SYNC_POL : Fld := ⟨0x100020, 25, 1, 0⟩
def AIR_STATUS_STATE : Fld := ⟨0x100028, 0, 2, 0⟩
def AIR_STATUS_COAST : Fld := ⟨0x100028, 2, 1, 0⟩
def AIR_STATUS_SLEWING : Fld := ⟨0x100028, 3, 1, 0⟩
def AIR_STATUS_HELD : Fld := ⟨0x100028, 4, 1, 1⟩
def AIR_STATUS_CFG_ERR : Fld := ⟨0x100028, 5, 1, 0⟩
def AIR_STATUS_MASTER_STATE : Fld := ⟨0x100028, 6, 2, 0⟩
def AIR_STATUS_STEPS : Fld := ⟨0x100028, 8, 8, 0⟩
def AIR_STATUS_LAST_ERR : Fld := ⟨0x100028, 16, 16, 0⟩
def AIR_TRIM_TRIM : Fld := ⟨0x100030, 0, 32, 0⟩
def AIR_AT_AT : Fld := ⟨0x100038, 0, 64, 0⟩
def AIR_POS_SFN : Fld := ⟨0x100040, 0, 10, 0⟩
def AIR_POS_SLOT : Fld := ⟨0x100040, 16, 6, 0⟩
def AIR_POS_SYMBOL : Fld := ⟨0x100040, 24, 4, 0⟩
def AIR_EPOCH_EPOCH : Fld := ⟨0x100048, 0, 32, 0⟩
def AIR_SCHED_CNT_LATE : Fld := ⟨0x100050, 0, 16, 0⟩
def AIR_SCHED_CNT_SKIPPED : Fld := ⟨0x100050, 16, 16, 0⟩
def AIR_SCHED_CNT_DROPPED : Fld := ⟨0x100050, 32, 16, 0⟩
def AIR_SCHED_CNT_REJECTED : Fld := ⟨0x100050, 48, 16, 0⟩
def AIR_INT_STATUS_STATE_CHG : Fld := ⟨0x100058, 0, 1, 0⟩
def AIR_INT_STATUS_SCHED_EXC : Fld := ⟨0x100058, 1, 1, 0⟩
def AIR_INT_STATUS_STEP : Fld := ⟨0x100058, 2, 1, 0⟩
def AIR_INT_STATUS_CFG_ERR : Fld := ⟨0x100058, 3, 1, 0⟩
def AIR_INT_STATUS_MARK : Fld := ⟨0x100058, 4, 16, 0⟩
def AIR_INT_EN_EN : Fld := ⟨0x100060, 0, 20, 0⟩
def AIR_BAND_BAND (b : Nat) : Fld := ⟨0x100080 + 8 * b, 0, 10, 0⟩
def AIR_BAND_RAT (b : Nat) : Fld := ⟨0x100080 + 8 * b, 12, 1, 0⟩
def AIR_BAND_DUPLEX (b : Nat) : Fld := ⟨0x100080 + 8 * b, 13, 1, 0⟩
def AIR_BAND_DL_LO (b : Nat) : Fld := ⟨0x100080 + 8 * b, 15, 17, 0⟩
def AIR_BAND_DL_HI (b : Nat) : Fld := ⟨0x100080 + 8 * b, 32, 17, 0⟩
def AIR_SCHED_W0_WORD (i : Nat) : Fld := ⟨0x101000 + 0x10 * i, 0, 64, 0⟩
def AIR_SCHED_W1_WORD (i : Nat) : Fld := ⟨0x101008 + 0x10 * i, 0, 64, 0⟩

/-! Fields of the CNV registers (04_converters_rf_control.md R110). -/
def CNV_ID_DIE (d : Nat) : Fld := ⟨0x200000 + 0x100000 * d, 0, 1, d⟩
def CNV_CTRL_POWER_EN (d : Nat) : Fld := ⟨0x200008 + 0x100000 * d, 0, 1, 0⟩
def CNV_CTRL_RECAL (d : Nat) : Fld := ⟨0x200008 + 0x100000 * d, 1, 1, 0⟩
def CNV_CTRL_BG_OG (d : Nat) : Fld := ⟨0x200008 + 0x100000 * d, 2, 1, 1⟩
def CNV_CTRL_AUTO_SKEW (d : Nat) : Fld := ⟨0x200008 + 0x100000 * d, 3, 1, 1⟩
def CNV_CLK_RATE_K (d : Nat) : Fld := ⟨0x200010 + 0x100000 * d, 0, 19, 0x48000⟩
def CNV_CLK_REF_SEL (d : Nat) : Fld := ⟨0x200010 + 0x100000 * d, 24, 1, 0⟩
def CNV_STATUS_STATE (d : Nat) : Fld := ⟨0x200018 + 0x100000 * d, 0, 3, 0⟩
def CNV_STATUS_CKM_LOCK (d : Nat) : Fld := ⟨0x200018 + 0x100000 * d, 3, 1, 0⟩
def CNV_STATUS_SYN1_LOCK (d : Nat) : Fld := ⟨0x200018 + 0x100000 * d, 4, 1, 0⟩
def CNV_STATUS_SYN2_LOCK (d : Nat) : Fld := ⟨0x200018 + 0x100000 * d, 5, 1, 0⟩
def CNV_STATUS_PERMIT (d : Nat) : Fld := ⟨0x200018 + 0x100000 * d, 6, 1, 0⟩
def CNV_STATUS_STALE (d : Nat) : Fld := ⟨0x200018 + 0x100000 * d, 7, 1, 1⟩
def CNV_STATUS_CKM_FAIL (d : Nat) : Fld := ⟨0x200018 + 0x100000 * d, 8, 1, 0⟩
def CNV_STATUS_BAND (d : Nat) : Fld := ⟨0x200018 + 0x100000 * d, 9, 3, 0⟩
def CNV_SYN_N (d : Nat) (k : Nat) : Fld := ⟨0x200020 + 0x100000 * d + 8 * k, 0, 6, 0x10⟩
def CNV_SYN_F (d : Nat) (k : Nat) : Fld := ⟨0x200020 + 0x100000 * d + 8 * k, 8, 24, 0⟩
def CNV_SYN_EN (d : Nat) (k : Nat) : Fld := ⟨0x200020 + 0x100000 * d + 8 * k, 32, 1, 0⟩
def CNV_LANE_RX_PATH (d : Nat) (l : Nat) : Fld := ⟨0x200040 + 0x100000 * d + 8 * l, 0, 2, 0⟩
def CNV_LANE_TX_PATH (d : Nat) (l : Nat) : Fld := ⟨0x200040 + 0x100000 * d + 8 * l, 2, 2, 0⟩
def CNV_LANE_LO_SEL (d : Nat) (l : Nat) : Fld := ⟨0x200040 + 0x100000 * d + 8 * l, 4, 1, 0⟩
def CNV_LANE_ONLINE (d : Nat) (l : Nat) : Fld := ⟨0x200040 + 0x100000 * d + 8 * l, 8, 1, 0⟩
def CNV_LANE_OVL_COUNT (d : Nat) (l : Nat) : Fld := ⟨0x200040 + 0x100000 * d + 8 * l, 16, 16, 0⟩
def CNV_CAL_STATUS_ACTIVE_TYPE (d : Nat) : Fld := ⟨0x200080 + 0x100000 * d, 0, 4, 0⟩
def CNV_CAL_STATUS_ACTIVE_LANES (d : Nat) : Fld := ⟨0x200080 + 0x100000 * d, 8, 8, 0⟩
def CNV_CAL_STATUS_LAST_TYPE (d : Nat) : Fld := ⟨0x200080 + 0x100000 * d, 16, 4, 0⟩
def CNV_CAL_STATUS_LAST_LANES (d : Nat) : Fld := ⟨0x200080 + 0x100000 * d, 24, 8, 0⟩
def CNV_CAL_STATUS_REFUSED (d : Nat) : Fld := ⟨0x200080 + 0x100000 * d, 32, 16, 0⟩
def CNV_CAL_PROG_STEPS (d : Nat) : Fld := ⟨0x200088 + 0x100000 * d, 0, 40, 0⟩
def CNV_CAL_MASK_LANES (d : Nat) : Fld := ⟨0x200090 + 0x100000 * d, 0, 40, 0⟩
def CNV_CAL_CFG_IRR_MIN (d : Nat) : Fld := ⟨0x200098 + 0x100000 * d, 0, 16, 0x157c⟩
def CNV_IRR_RX_REJ (d : Nat) (l : Nat) : Fld := ⟨0x2000a0 + 0x100000 * d + 8 * l, 0, 16, 0⟩
def CNV_IRR_TX_REJ (d : Nat) (l : Nat) : Fld := ⟨0x2000a0 + 0x100000 * d + 8 * l, 16, 16, 0⟩
def CNV_IRR_TX_LOL (d : Nat) (l : Nat) : Fld := ⟨0x2000a0 + 0x100000 * d + 8 * l, 32, 16, 0⟩
def CNV_IRR_RX_VALID (d : Nat) (l : Nat) : Fld := ⟨0x2000a0 + 0x100000 * d + 8 * l, 48, 1, 0⟩
def CNV_IRR_TX_VALID (d : Nat) (l : Nat) : Fld := ⟨0x2000a0 + 0x100000 * d + 8 * l, 49, 1, 0⟩
def CNV_IQCORR_RX_GAIN (d : Nat) (l : Nat) : Fld := ⟨0x2000e0 + 0x100000 * d + 8 * l, 0, 16, 0⟩
def CNV_IQCORR_RX_PHASE (d : Nat) (l : Nat) : Fld := ⟨0x2000e0 + 0x100000 * d + 8 * l, 16, 16, 0⟩
def CNV_IQCORR_TX_GAIN (d : Nat) (l : Nat) : Fld := ⟨0x2000e0 + 0x100000 * d + 8 * l, 32, 16, 0⟩
def CNV_IQCORR_TX_PHASE (d : Nat) (l : Nat) : Fld := ⟨0x2000e0 + 0x100000 * d + 8 * l, 48, 16, 0⟩
def CNV_SKEW_VALID_VALID (d : Nat) : Fld := ⟨0x200120 + 0x100000 * d, 0, 48, 0⟩
def CNV_INT_STATUS_STATE_CHG (d : Nat) : Fld := ⟨0x200128 + 0x100000 * d, 0, 1, 0⟩
def CNV_INT_STATUS_SYN_UNLOCK (d : Nat) : Fld := ⟨0x200128 + 0x100000 * d, 1, 1, 0⟩
def CNV_INT_STATUS_CAL_DONE (d : Nat) : Fld := ⟨0x200128 + 0x100000 * d, 2, 1, 0⟩
def CNV_INT_STATUS_CAL_REFUSED (d : Nat) : Fld := ⟨0x200128 + 0x100000 * d, 3, 1, 0⟩
def CNV_INT_STATUS_IRR_LOW (d : Nat) : Fld := ⟨0x200128 + 0x100000 * d, 4, 1, 0⟩
def CNV_INT_STATUS_OVERLOAD (d : Nat) : Fld := ⟨0x200128 + 0x100000 * d, 5, 1, 0⟩
def CNV_INT_STATUS_LANE_REFUSED (d : Nat) : Fld := ⟨0x200128 + 0x100000 * d, 6, 1, 0⟩
def CNV_INT_STATUS_RETUNE_REFUSED (d : Nat) : Fld := ⟨0x200128 + 0x100000 * d, 7, 1, 0⟩
def CNV_INT_STATUS_SKEW_STALE (d : Nat) : Fld := ⟨0x200128 + 0x100000 * d, 8, 1, 0⟩
def CNV_INT_STATUS_RATE_MISMATCH (d : Nat) : Fld := ⟨0x200128 + 0x100000 * d, 9, 1, 0⟩
def CNV_INT_EN_EN (d : Nat) : Fld := ⟨0x200130 + 0x100000 * d, 0, 10, 0⟩
def CNV_SKEW_W0_SK0 (d : Nat) (l : Nat) (b : Nat) : Fld := ⟨0x202000 + 0x100000 * d + 0x80 * l + 0x10 * b, 0, 16, 0⟩
def CNV_SKEW_W0_SK1 (d : Nat) (l : Nat) (b : Nat) : Fld := ⟨0x202000 + 0x100000 * d + 0x80 * l + 0x10 * b, 16, 16, 0⟩
def CNV_SKEW_W0_SK2 (d : Nat) (l : Nat) (b : Nat) : Fld := ⟨0x202000 + 0x100000 * d + 0x80 * l + 0x10 * b, 32, 16, 0⟩
def CNV_SKEW_W0_SK3 (d : Nat) (l : Nat) (b : Nat) : Fld := ⟨0x202000 + 0x100000 * d + 0x80 * l + 0x10 * b, 48, 16, 0⟩
def CNV_SKEW_W1_SK4 (d : Nat) (l : Nat) (b : Nat) : Fld := ⟨0x202008 + 0x100000 * d + 0x80 * l + 0x10 * b, 0, 16, 0⟩
def CNV_SKEW_W1_SK5 (d : Nat) (l : Nat) (b : Nat) : Fld := ⟨0x202008 + 0x100000 * d + 0x80 * l + 0x10 * b, 16, 16, 0⟩
def CNV_SKEW_W1_SK6 (d : Nat) (l : Nat) (b : Nat) : Fld := ⟨0x202008 + 0x100000 * d + 0x80 * l + 0x10 * b, 32, 16, 0⟩
def CNV_SKEW_W1_SK7 (d : Nat) (l : Nat) (b : Nat) : Fld := ⟨0x202008 + 0x100000 * d + 0x80 * l + 0x10 * b, 48, 16, 0⟩

/-! Fields of the RFC registers (04_converters_rf_control.md R111). -/
def RFC_TR_SAFE0_SAFE : Fld := ⟨0x400000, 0, 64, 0xaaaaaaaaaaaaaaaa⟩
def RFC_TR_SAFE1_SAFE : Fld := ⟨0x400008, 0, 32, 0xaaaaaaaa⟩
def RFC_TR_LEVEL_LEVEL : Fld := ⟨0x400010, 0, 48, 0⟩
def RFC_TR_DRIVEN_DRIVEN : Fld := ⟨0x400018, 0, 48, 0⟩
def RFC_TR_SET_SET : Fld := ⟨0x400020, 0, 48, 0⟩
def RFC_TR_CLR_CLR : Fld := ⟨0x400028, 0, 48, 0⟩
def RFC_CHAIN_TX_GAIN (l : Nat) : Fld := ⟨0x400040 + 8 * l, 0, 16, 0⟩
def RFC_CHAIN_RX_GAIN (l : Nat) : Fld := ⟨0x400040 + 8 * l, 32, 16, 0⟩
def RFC_RFFE_CFG_DIV (m : Nat) : Fld := ⟨0x400200 + 0x20 * m, 0, 6, 3⟩
def RFC_RFFE_CFG_HS_READ (m : Nat) : Fld := ⟨0x400200 + 0x20 * m, 8, 1, 1⟩
def RFC_RFFE_CFG_EN (m : Nat) : Fld := ⟨0x400200 + 0x20 * m, 9, 1, 0⟩
def RFC_RFFE_CMD_OP (m : Nat) : Fld := ⟨0x400208 + 0x20 * m, 0, 4, 0⟩
def RFC_RFFE_CMD_USID (m : Nat) : Fld := ⟨0x400208 + 0x20 * m, 4, 4, 0⟩
def RFC_RFFE_CMD_ADDR (m : Nat) : Fld := ⟨0x400208 + 0x20 * m, 8, 16, 0⟩
def RFC_RFFE_CMD_BYTES (m : Nat) : Fld := ⟨0x400208 + 0x20 * m, 24, 2, 0⟩
def RFC_RFFE_CMD_DATA (m : Nat) : Fld := ⟨0x400208 + 0x20 * m, 32, 32, 0⟩
def RFC_RFFE_RESULT_DATA (m : Nat) : Fld := ⟨0x400210 + 0x20 * m, 0, 32, 0⟩
def RFC_RFFE_RESULT_VALID (m : Nat) : Fld := ⟨0x400210 + 0x20 * m, 32, 1, 0⟩
def RFC_RFFE_RESULT_PARITY_ERR (m : Nat) : Fld := ⟨0x400210 + 0x20 * m, 33, 1, 0⟩
def RFC_RFFE_RESULT_FLUSHED (m : Nat) : Fld := ⟨0x400210 + 0x20 * m, 34, 1, 0⟩
def RFC_RFFE_RESULT_OP (m : Nat) : Fld := ⟨0x400210 + 0x20 * m, 35, 4, 0⟩
def RFC_RFFE_STATUS_CMD_DEPTH (m : Nat) : Fld := ⟨0x400218 + 0x20 * m, 0, 6, 0⟩
def RFC_RFFE_STATUS_RES_DEPTH (m : Nat) : Fld := ⟨0x400218 + 0x20 * m, 8, 6, 0⟩
def RFC_RFFE_STATUS_BUSY (m : Nat) : Fld := ⟨0x400218 + 0x20 * m, 16, 1, 0⟩
def RFC_RFFE_STATUS_OVERFLOW (m : Nat) : Fld := ⟨0x400218 + 0x20 * m, 17, 1, 0⟩
def RFC_INT_STATUS_DONE : Fld := ⟨0x400300, 0, 6, 0⟩
def RFC_INT_STATUS_ERR : Fld := ⟨0x400300, 8, 6, 0⟩
def RFC_INT_STATUS_FLUSH : Fld := ⟨0x400300, 16, 6, 0⟩
def RFC_INT_EN_EN : Fld := ⟨0x400308, 0, 22, 0⟩

/-! Fields of the SQ registers (05_squares_filters.md R137, 06_echo_cancellation.md R162). -/
def SQ_ID_SQ (n : Nat) : Fld := ⟨0x1000000 + 0x1000 * n, 0, 7, n⟩
def SQ_ID_DIR (n : Nat) : Fld := ⟨0x1000000 + 0x1000 * n, 7, 1, n / 64⟩
def SQ_ID_RANK (n : Nat) : Fld := ⟨0x1000000 + 0x1000 * n, 8, 4, n / 8⟩
def SQ_ID_WING (n : Nat) : Fld := ⟨0x1000000 + 0x1000 * n, 12, 2, n / 32⟩
def SQ_ID_ROUTED (n : Nat) : Fld := ⟨0x1000000 + 0x1000 * n, 16, 1, 0⟩
def SQ_ID_BOND_SIZE (n : Nat) : Fld := ⟨0x1000000 + 0x1000 * n, 17, 3, 0⟩
def SQ_ID_BOND_POS (n : Nat) : Fld := ⟨0x1000000 + 0x1000 * n, 20, 2, 0⟩
def SQ_ID_PAIRED (n : Nat) : Fld := ⟨0x1000000 + 0x1000 * n, 22, 1, 0⟩
def SQ_ID_PAIR_SQ (n : Nat) : Fld := ⟨0x1000000 + 0x1000 * n, 24, 7, 0⟩
def SQ_CTRL_ENABLE (n : Nat) : Fld := ⟨0x1000008 + 0x1000 * n, 0, 1, 0⟩
def SQ_CTRL_GAIN_MODE (n : Nat) : Fld := ⟨0x1000008 + 0x1000 * n, 1, 1, 0⟩
def SQ_CTRL_FIR_BANK (n : Nat) : Fld := ⟨0x1000008 + 0x1000 * n, 2, 1, 0⟩
def SQ_FREQ_RX_FC_FOLD (n : Nat) : Fld := ⟨0x1000010 + 0x1000 * n, 0, 30, 0⟩
def SQ_FREQ_RX_SPEC_INV (n : Nat) : Fld := ⟨0x1000010 + 0x1000 * n, 32, 1, 0⟩
def SQ_FREQ_TX_FC_FOLD (n : Nat) : Fld := ⟨0x1000018 + 0x1000 * n, 0, 30, 0⟩
def SQ_FREQ_TX_SPEC_INV (n : Nat) : Fld := ⟨0x1000018 + 0x1000 * n, 32, 1, 0⟩
def SQ_FREQ_TX_TX_SUB_OFS (n : Nat) : Fld := ⟨0x1000018 + 0x1000 * n, 40, 10, 0⟩
def SQ_GAIN_G_FIXED (n : Nat) : Fld := ⟨0x1000020 + 0x1000 * n, 0, 16, 0⟩
def SQ_GAIN_G_MIN (n : Nat) : Fld := ⟨0x1000020 + 0x1000 * n, 16, 16, 0⟩
def SQ_GAIN_G_MAX (n : Nat) : Fld := ⟨0x1000020 + 0x1000 * n, 32, 16, 0⟩
def SQ_DET_CFG_FINE_K (n : Nat) : Fld := ⟨0x1000030 + 0x1000 * n, 0, 3, 4⟩
def SQ_STATUS_STATE (n : Nat) : Fld := ⟨0x1000038 + 0x1000 * n, 0, 3, 0⟩
def SQ_STATUS_MS_FAULT (n : Nat) : Fld := ⟨0x1000038 + 0x1000 * n, 4, 1, 0⟩
def SQ_STATUS_MS_GROUP (n : Nat) : Fld := ⟨0x1000038 + 0x1000 * n, 5, 1, 0⟩
def SQ_STATUS_MS_RANK (n : Nat) : Fld := ⟨0x1000038 + 0x1000 * n, 6, 1, 0⟩
def SQ_STATUS_MS_WING (n : Nat) : Fld := ⟨0x1000038 + 0x1000 * n, 7, 1, 0⟩
def SQ_STATUS_MS_BRIDGE (n : Nat) : Fld := ⟨0x1000038 + 0x1000 * n, 8, 1, 0⟩
def SQ_STATUS_MS_HOLD (n : Nat) : Fld := ⟨0x1000038 + 0x1000 * n, 9, 1, 0⟩
def SQ_STATUS_MS_PROTECT (n : Nat) : Fld := ⟨0x1000038 + 0x1000 * n, 10, 1, 0⟩
def SQ_STATUS_MS_DIRECTION (n : Nat) : Fld := ⟨0x1000038 + 0x1000 * n, 11, 1, 0⟩
def SQ_STATUS_MS_STOP (n : Nat) : Fld := ⟨0x1000038 + 0x1000 * n, 12, 1, 0⟩
def SQ_STATUS_MS_PLACEMENT (n : Nat) : Fld := ⟨0x1000038 + 0x1000 * n, 13, 1, 0⟩
def SQ_STATUS_ABSENT (n : Nat) : Fld := ⟨0x1000038 + 0x1000 * n, 16, 8, 0⟩
def SQ_RATE_SUB_N (n : Nat) : Fld := ⟨0x1000040 + 0x1000 * n, 0, 10, 0⟩
def SQ_RATE_D (n : Nat) : Fld := ⟨0x1000040 + 0x1000 * n, 12, 3, 0⟩
def SQ_RATE_RHO (n : Nat) : Fld := ⟨0x1000040 + 0x1000 * n, 16, 16, 0⟩
def SQ_RATE_SLOT_RATE (n : Nat) : Fld := ⟨0x1000040 + 0x1000 * n, 32, 20, 0⟩
def SQ_GAIN_NOW_G_NOW (n : Nat) : Fld := ⟨0x1000048 + 0x1000 * n, 0, 16, 0⟩
def SQ_GAIN_NOW_CLAMP (n : Nat) : Fld := ⟨0x1000048 + 0x1000 * n, 32, 1, 0⟩
def SQ_COST_TAPBW (n : Nat) : Fld := ⟨0x1000050 + 0x1000 * n, 0, 25, 0⟩
def SQ_COST_TAPS (n : Nat) : Fld := ⟨0x1000050 + 0x1000 * n, 32, 13, 0⟩
def SQ_SAT_GAIN_SAT (n : Nat) : Fld := ⟨0x1000058 + 0x1000 * n, 0, 32, 0⟩
def SQ_SAT_FIR_SAT (n : Nat) : Fld := ⟨0x1000058 + 0x1000 * n, 32, 32, 0⟩
def SQ_CDET_CIN (n : Nat) (l : Nat) : Fld := ⟨0x1000080 + 0x1000 * n + 8 * l, 0, 16, 0x8000⟩
def SQ_CDET_COUT (n : Nat) (l : Nat) : Fld := ⟨0x1000080 + 0x1000 * n + 8 * l, 32, 16, 0x8000⟩
def SQ_CDET_ABSENT (n : Nat) (l : Nat) : Fld := ⟨0x1000080 + 0x1000 * n + 8 * l, 48, 1, 0⟩
def SQ_FDET_FIN (n : Nat) (l : Nat) : Fld := ⟨0x10000c0 + 0x1000 * n + 8 * l, 0, 16, 0x8000⟩
def SQ_FDET_FOUT (n : Nat) (l : Nat) : Fld := ⟨0x10000c0 + 0x1000 * n + 8 * l, 32, 16, 0x8000⟩
def SQ_DET_SUM_CIN (n : Nat) : Fld := ⟨0x1000100 + 0x1000 * n, 0, 16, 0x8000⟩
def SQ_DET_SUM_COUT (n : Nat) : Fld := ⟨0x1000100 + 0x1000 * n, 16, 16, 0x8000⟩
def SQ_DET_SUM_FIN (n : Nat) : Fld := ⟨0x1000100 + 0x1000 * n, 32, 16, 0x8000⟩
def SQ_DET_SUM_FOUT (n : Nat) : Fld := ⟨0x1000100 + 0x1000 * n, 48, 16, 0x8000⟩
def SQ_INT_STATUS_MUTED (n : Nat) : Fld := ⟨0x1000108 + 0x1000 * n, 0, 1, 0⟩
def SQ_INT_STATUS_ON (n : Nat) : Fld := ⟨0x1000108 + 0x1000 * n, 1, 1, 0⟩
def SQ_INT_STATUS_CLAMP (n : Nat) : Fld := ⟨0x1000108 + 0x1000 * n, 2, 1, 0⟩
def SQ_INT_STATUS_COEF_DROP (n : Nat) : Fld := ⟨0x1000108 + 0x1000 * n, 3, 1, 0⟩
def SQ_INT_STATUS_SAT (n : Nat) : Fld := ⟨0x1000108 + 0x1000 * n, 4, 1, 0⟩
def SQ_INT_STATUS_PLACEMENT (n : Nat) : Fld := ⟨0x1000108 + 0x1000 * n, 5, 1, 0⟩
def SQ_INT_EN_EN (n : Nat) : Fld := ⟨0x1000110 + 0x1000 * n, 0, 6, 0⟩
def SQ_COEF_STATUS_ACTIVE_BANK (n : Nat) : Fld := ⟨0x1000118 + 0x1000 * n, 0, 1, 0⟩
def SQ_COEF_STATUS_LOCKED (n : Nat) : Fld := ⟨0x1000118 + 0x1000 * n, 1, 1, 0⟩
def SQ_COEF_ADDR_INDEX (n : Nat) : Fld := ⟨0x1000120 + 0x1000 * n, 0, 9, 0⟩
def SQ_COEF_ADDR_AUTOINC (n : Nat) : Fld := ⟨0x1000120 + 0x1000 * n, 16, 1, 0⟩
def SQ_COEF_DATA_RE (n : Nat) : Fld := ⟨0x1000128 + 0x1000 * n, 0, 18, 0⟩
def SQ_COEF_DATA_IM (n : Nat) : Fld := ⟨0x1000128 + 0x1000 * n, 32, 18, 0⟩
def SQ_EC_CTRL_EC_EN (n : Nat) : Fld := ⟨0x1000200 + 0x1000 * n, 0, 1, 0⟩
def SQ_EC_CTRL_ADAPT_EN (n : Nat) : Fld := ⟨0x1000200 + 0x1000 * n, 1, 1, 0⟩
def SQ_EC_CTRL_STEP_MODE (n : Nat) : Fld := ⟨0x1000200 + 0x1000 * n, 2, 1, 0⟩
def SQ_EC_CTRL_CLEAR (n : Nat) : Fld := ⟨0x1000200 + 0x1000 * n, 3, 1, 0⟩
def SQ_EC_MU_LO_MU0 (n : Nat) : Fld := ⟨0x1000208 + 0x1000 * n, 0, 16, 0x4000⟩
def SQ_EC_MU_LO_MU1 (n : Nat) : Fld := ⟨0x1000208 + 0x1000 * n, 16, 16, 0x4000⟩
def SQ_EC_MU_LO_MU2 (n : Nat) : Fld := ⟨0x1000208 + 0x1000 * n, 32, 16, 0x4000⟩
def SQ_EC_MU_LO_MU3 (n : Nat) : Fld := ⟨0x1000208 + 0x1000 * n, 48, 16, 0x4000⟩
def SQ_EC_MU_HI_MU4 (n : Nat) : Fld := ⟨0x1000210 + 0x1000 * n, 0, 16, 0x4000⟩
def SQ_EC_MU_HI_MU5 (n : Nat) : Fld := ⟨0x1000210 + 0x1000 * n, 16, 16, 0x4000⟩
def SQ_EC_MCFG_TARGET (n : Nat) : Fld := ⟨0x1000218 + 0x1000 * n, 0, 16, 0x5dc⟩
def SQ_EC_MCFG_ASSUME_ISO (n : Nat) : Fld := ⟨0x1000218 + 0x1000 * n, 16, 16, 0⟩
def SQ_EC_MCFG_EST_K (n : Nat) : Fld := ⟨0x1000218 + 0x1000 * n, 32, 3, 2⟩
def SQ_EC_STATUS_ADAPTING (n : Nat) : Fld := ⟨0x1000220 + 0x1000 * n, 0, 8, 0⟩
def SQ_EC_STATUS_EST_VALID (n : Nat) : Fld := ⟨0x1000220 + 0x1000 * n, 8, 1, 0⟩
def SQ_EC_STATUS_CHECK (n : Nat) : Fld := ⟨0x1000220 + 0x1000 * n, 9, 1, 0⟩
def SQ_EC_STATUS_FLOOR (n : Nat) : Fld := ⟨0x1000220 + 0x1000 * n, 10, 1, 0⟩
def SQ_EC_STATUS_CAPPED (n : Nat) : Fld := ⟨0x1000220 + 0x1000 * n, 11, 1, 0⟩
def SQ_EC_STATUS_DIVERGED (n : Nat) : Fld := ⟨0x1000220 + 0x1000 * n, 16, 8, 0⟩
def SQ_EC_STATUS_BAND (n : Nat) : Fld := ⟨0x1000220 + 0x1000 * n, 24, 3, 0⟩
def SQ_EC_STATUS_STEP_S (n : Nat) : Fld := ⟨0x1000220 + 0x1000 * n, 32, 16, 0⟩
def SQ_EC_STATUS_AGE (n : Nat) : Fld := ⟨0x1000220 + 0x1000 * n, 48, 8, 0⟩
def SQ_EC_MARGIN_I_EFF (n : Nat) : Fld := ⟨0x1000228 + 0x1000 * n, 0, 16, 0x8000⟩
def SQ_EC_MARGIN_MARGIN (n : Nat) : Fld := ⟨0x1000228 + 0x1000 * n, 16, 16, 0x8000⟩
def SQ_EC_MARGIN_I_PHYS (n : Nat) : Fld := ⟨0x1000228 + 0x1000 * n, 32, 16, 0x8000⟩
def SQ_EC_INT_STATUS_CHECK_SET (n : Nat) : Fld := ⟨0x1000230 + 0x1000 * n, 0, 1, 0⟩
def SQ_EC_INT_STATUS_CHECK_CLR (n : Nat) : Fld := ⟨0x1000230 + 0x1000 * n, 1, 1, 0⟩
def SQ_EC_INT_STATUS_FLOOR (n : Nat) : Fld := ⟨0x1000230 + 0x1000 * n, 2, 1, 0⟩
def SQ_EC_INT_STATUS_DIVERGE (n : Nat) : Fld := ⟨0x1000230 + 0x1000 * n, 3, 1, 0⟩
def SQ_EC_INT_STATUS_COEF_DROP (n : Nat) : Fld := ⟨0x1000230 + 0x1000 * n, 4, 1, 0⟩
def SQ_EC_INT_STATUS_VALID (n : Nat) : Fld := ⟨0x1000230 + 0x1000 * n, 5, 1, 0⟩
def SQ_EC_INT_STATUS_STALE (n : Nat) : Fld := ⟨0x1000230 + 0x1000 * n, 6, 1, 0⟩
def SQ_EC_INT_EN_EN (n : Nat) : Fld := ⟨0x1000238 + 0x1000 * n, 0, 7, 0⟩
def SQ_EC_CADDR_PATH (n : Nat) : Fld := ⟨0x1000240 + 0x1000 * n, 0, 6, 0⟩
def SQ_EC_CADDR_TAP (n : Nat) : Fld := ⟨0x1000240 + 0x1000 * n, 8, 6, 0⟩
def SQ_EC_CADDR_AUTOINC (n : Nat) : Fld := ⟨0x1000240 + 0x1000 * n, 16, 1, 0⟩
def SQ_EC_CDATA_RE (n : Nat) : Fld := ⟨0x1000248 + 0x1000 * n, 0, 24, 0⟩
def SQ_EC_CDATA_IM (n : Nat) : Fld := ⟨0x1000248 + 0x1000 * n, 32, 24, 0⟩
def SQ_EC_DELAY_DLY0 (n : Nat) (j : Nat) : Fld := ⟨0x1000280 + 0x1000 * n + 8 * j, 0, 12, 0⟩
def SQ_EC_DELAY_DLY1 (n : Nat) (j : Nat) : Fld := ⟨0x1000280 + 0x1000 * n + 8 * j, 16, 12, 0⟩
def SQ_EC_DELAY_DLY2 (n : Nat) (j : Nat) : Fld := ⟨0x1000280 + 0x1000 * n + 8 * j, 32, 12, 0⟩
def SQ_EC_DELAY_DLY3 (n : Nat) (j : Nat) : Fld := ⟨0x1000280 + 0x1000 * n + 8 * j, 48, 12, 0⟩
def SQ_EC_PATH_DEPTH (n : Nat) (p : Nat) : Fld := ⟨0x1000300 + 0x1000 * n + 8 * p, 0, 16, 0⟩
def SQ_EC_PATH_ISO_RES (n : Nat) (p : Nat) : Fld := ⟨0x1000300 + 0x1000 * n + 8 * p, 16, 16, 0x8000⟩
def SQ_EC_PATH_ISO_PHYS (n : Nat) (p : Nat) : Fld := ⟨0x1000300 + 0x1000 * n + 8 * p, 32, 16, 0x8000⟩
def SQ_EC_PATH_PRESENT (n : Nat) (p : Nat) : Fld := ⟨0x1000300 + 0x1000 * n + 8 * p, 48, 1, 0⟩
def SQ_EC_LANE_IN_PWR (n : Nat) (r : Nat) : Fld := ⟨0x1000500 + 0x1000 * n + 8 * r, 0, 16, 0x8000⟩
def SQ_EC_LANE_ERR_PWR (n : Nat) (r : Nat) : Fld := ⟨0x1000500 + 0x1000 * n + 8 * r, 16, 16, 0x8000⟩
def SQ_EC_LANE_SUPP (n : Nat) (r : Nat) : Fld := ⟨0x1000500 + 0x1000 * n + 8 * r, 32, 16, 0⟩
def SQ_EC_LANE_DIV (n : Nat) (r : Nat) : Fld := ⟨0x1000500 + 0x1000 * n + 8 * r, 48, 1, 0⟩

/-! Fields of the RK registers (07_control_engine.md R181, 07_control_engine.md R182). -/
def RK_ID_RANK (n : Nat) : Fld := ⟨0x1100000 + 0x4000 * n, 0, 4, n⟩
def RK_ID_WING (n : Nat) : Fld := ⟨0x1100000 + 0x4000 * n, 4, 2, n / 4⟩
def RK_ID_DIR (n : Nat) : Fld := ⟨0x1100000 + 0x4000 * n, 6, 1, n / 8⟩
def RK_CFG_OUTER_K (n : Nat) : Fld := ⟨0x1100008 + 0x4000 * n, 0, 4, 4⟩
def RK_CFG_RELAX (n : Nat) : Fld := ⟨0x1100008 + 0x4000 * n, 8, 10, 0xa⟩
def RK_CFG_NR_WIN (n : Nat) : Fld := ⟨0x1100008 + 0x4000 * n, 20, 4, 8⟩
def RK_CFG_NR_EXH (n : Nat) : Fld := ⟨0x1100008 + 0x4000 * n, 24, 4, 4⟩
def RK_CFG_VIEW_ACTIVE (n : Nat) : Fld := ⟨0x1100008 + 0x4000 * n, 32, 1, 0⟩
def RK_STATUS_FAULT (n : Nat) : Fld := ⟨0x1100010 + 0x4000 * n, 0, 1, 0⟩
def RK_STATUS_CAUSE (n : Nat) : Fld := ⟨0x1100010 + 0x4000 * n, 1, 3, 0⟩
def RK_STATUS_FF_RUN (n : Nat) : Fld := ⟨0x1100010 + 0x4000 * n, 4, 4, 0⟩
def RK_STATUS_OUTER_PHASE (n : Nat) : Fld := ⟨0x1100010 + 0x4000 * n, 8, 8, 0⟩
def RK_STATUS_OUTER_STEPS (n : Nat) : Fld := ⟨0x1100010 + 0x4000 * n, 32, 32, 0⟩
def RK_CYCLES_LAST_USED (n : Nat) : Fld := ⟨0x1100018 + 0x4000 * n, 0, 12, 0⟩
def RK_CYCLES_MAX_USED (n : Nat) : Fld := ⟨0x1100018 + 0x4000 * n, 16, 12, 0⟩
def RK_CYCLES_PRED_OUTER (n : Nat) : Fld := ⟨0x1100018 + 0x4000 * n, 32, 12, 0x20⟩
def RK_CYCLES_PRED_INNER (n : Nat) : Fld := ⟨0x1100018 + 0x4000 * n, 48, 12, 0x20⟩
def RK_FLAG_INNER (n : Nat) : Fld := ⟨0x1100020 + 0x4000 * n, 0, 8, 0⟩
def RK_FLAG_OUTER (n : Nat) : Fld := ⟨0x1100020 + 0x4000 * n, 8, 8, 0⟩
def RK_FLAG_FF_COUNT (n : Nat) : Fld := ⟨0x1100020 + 0x4000 * n, 32, 32, 0⟩
def RK_ECC_CORRECTED (n : Nat) : Fld := ⟨0x1100028 + 0x4000 * n, 0, 16, 0⟩
def RK_ECC_STALLS (n : Nat) : Fld := ⟨0x1100028 + 0x4000 * n, 16, 16, 0⟩
def RK_INT_STATUS_FLAGFALL (n : Nat) : Fld := ⟨0x1100030 + 0x4000 * n, 0, 1, 0⟩
def RK_INT_STATUS_RANK_FAULT (n : Nat) : Fld := ⟨0x1100030 + 0x4000 * n, 1, 1, 0⟩
def RK_INT_STATUS_FAULT_CLR (n : Nat) : Fld := ⟨0x1100030 + 0x4000 * n, 2, 1, 0⟩
def RK_INT_STATUS_MAT_DROP (n : Nat) : Fld := ⟨0x1100030 + 0x4000 * n, 3, 1, 0⟩
def RK_INT_STATUS_NR_EXH (n : Nat) : Fld := ⟨0x1100030 + 0x4000 * n, 4, 1, 0⟩
def RK_INT_STATUS_SAT (n : Nat) : Fld := ⟨0x1100030 + 0x4000 * n, 5, 1, 0⟩
def RK_INT_STATUS_ECC_CORR (n : Nat) : Fld := ⟨0x1100030 + 0x4000 * n, 6, 1, 0⟩
def RK_INT_EN_EN (n : Nat) : Fld := ⟨0x1100038 + 0x4000 * n, 0, 7, 0⟩
def RK_SQCTL_N_STATES (n : Nat) (s : Nat) : Fld := ⟨0x1100100 + 0x4000 * n + 0x80 * s, 0, 4, 1⟩
def RK_SQCTL_N_MEAS (n : Nat) (s : Nat) : Fld := ⟨0x1100100 + 0x4000 * n + 0x80 * s, 4, 3, 0⟩
def RK_SQCTL_N_OUT (n : Nat) (s : Nat) : Fld := ⟨0x1100100 + 0x4000 * n + 0x80 * s, 8, 2, 1⟩
def RK_SQCTL_MAT_BANK (n : Nat) (s : Nat) : Fld := ⟨0x1100100 + 0x4000 * n + 0x80 * s, 10, 1, 0⟩
def RK_SQCTL_X_INIT (n : Nat) (s : Nat) : Fld := ⟨0x1100100 + 0x4000 * n + 0x80 * s, 11, 1, 0⟩
def RK_SQCTL_MEAS0 (n : Nat) (s : Nat) : Fld := ⟨0x1100100 + 0x4000 * n + 0x80 * s, 12, 3, 0⟩
def RK_SQCTL_MEAS1 (n : Nat) (s : Nat) : Fld := ⟨0x1100100 + 0x4000 * n + 0x80 * s, 16, 3, 0⟩
def RK_SQCTL_MEAS2 (n : Nat) (s : Nat) : Fld := ⟨0x1100100 + 0x4000 * n + 0x80 * s, 20, 3, 0⟩
def RK_SQCTL_MEAS3 (n : Nat) (s : Nat) : Fld := ⟨0x1100100 + 0x4000 * n + 0x80 * s, 24, 3, 0⟩
def RK_SQCHK_CHECK_STEP (n : Nat) (s : Nat) : Fld := ⟨0x1100108 + 0x4000 * n + 0x80 * s, 0, 10, 0x19⟩
def RK_PSET_POWER_SET (n : Nat) (s : Nat) : Fld := ⟨0x1100110 + 0x4000 * n + 0x80 * s, 0, 16, 0x8000⟩
def RK_NR_NR_LIMIT (n : Nat) (s : Nat) : Fld := ⟨0x1100118 + 0x4000 * n + 0x80 * s, 0, 16, 0x8000⟩
def RK_NR_PATH_LOSS (n : Nat) (s : Nat) : Fld := ⟨0x1100118 + 0x4000 * n + 0x80 * s, 32, 16, 0⟩
def RK_OUTST_RED (n : Nat) (s : Nat) : Fld := ⟨0x1100120 + 0x4000 * n + 0x80 * s, 0, 16, 0⟩
def RK_OUTST_P_OUT (n : Nat) (s : Nat) : Fld := ⟨0x1100120 + 0x4000 * n + 0x80 * s, 16, 16, 0x8000⟩
def RK_OUTST_NRC (n : Nat) (s : Nat) : Fld := ⟨0x1100120 + 0x4000 * n + 0x80 * s, 32, 16, 0x8000⟩
def RK_OUTST_EXH_RUN (n : Nat) (s : Nat) : Fld := ⟨0x1100120 + 0x4000 * n + 0x80 * s, 48, 4, 0⟩
def RK_OUTST_NR_EXHAUSTED (n : Nat) (s : Nat) : Fld := ⟨0x1100120 + 0x4000 * n + 0x80 * s, 52, 1, 0⟩
def RK_R_R1 (n : Nat) (s : Nat) : Fld := ⟨0x1100128 + 0x4000 * n + 0x80 * s, 0, 32, 0⟩
def RK_R_R2 (n : Nat) (s : Nat) : Fld := ⟨0x1100128 + 0x4000 * n + 0x80 * s, 32, 32, 0⟩
def RK_U_U1 (n : Nat) (s : Nat) : Fld := ⟨0x1100130 + 0x4000 * n + 0x80 * s, 0, 32, 0⟩
def RK_U_U2 (n : Nat) (s : Nat) : Fld := ⟨0x1100130 + 0x4000 * n + 0x80 * s, 32, 32, 0⟩
def RK_Y01_Y1 (n : Nat) (s : Nat) : Fld := ⟨0x1100138 + 0x4000 * n + 0x80 * s, 0, 32, 0x80000000⟩
def RK_Y01_Y2 (n : Nat) (s : Nat) : Fld := ⟨0x1100138 + 0x4000 * n + 0x80 * s, 32, 32, 0x80000000⟩
def RK_Y23_Y3 (n : Nat) (s : Nat) : Fld := ⟨0x1100140 + 0x4000 * n + 0x80 * s, 0, 32, 0x80000000⟩
def RK_Y23_Y4 (n : Nat) (s : Nat) : Fld := ⟨0x1100140 + 0x4000 * n + 0x80 * s, 32, 32, 0x80000000⟩
def RK_XHAT_X_LO (n : Nat) (s : Nat) (i : Nat) : Fld := ⟨0x1100148 + 0x4000 * n + 0x80 * s + 8 * i, 0, 32, 0⟩
def RK_XHAT_X_HI (n : Nat) (s : Nat) (i : Nat) : Fld := ⟨0x1100148 + 0x4000 * n + 0x80 * s + 8 * i, 32, 32, 0⟩
def RK_SQSTAT_Y_ABSENT (n : Nat) (s : Nat) : Fld := ⟨0x1100168 + 0x4000 * n + 0x80 * s, 0, 4, 0⟩
def RK_SQSTAT_CHECK_DESC (n : Nat) (s : Nat) : Fld := ⟨0x1100168 + 0x4000 * n + 0x80 * s, 4, 1, 0⟩
def RK_SQSTAT_SAT (n : Nat) (s : Nat) : Fld := ⟨0x1100168 + 0x4000 * n + 0x80 * s, 5, 1, 0⟩
def RK_MAT_W0 (n : Nat) (s : Nat) (w : Nat) : Fld := ⟨0x1101000 + 0x4000 * n + 0x400 * s + 8 * w, 0, 32, 0⟩
def RK_MAT_W1 (n : Nat) (s : Nat) (w : Nat) : Fld := ⟨0x1101000 + 0x4000 * n + 0x400 * s + 8 * w, 32, 32, 0⟩

/-! Fields of the PRT registers (08_network_protection.md R205). -/
def PRT_DEVID_DEVICE_ID : Fld := ⟨0x1300000, 0, 64, fuseDeviceId⟩
def PRT_CTRL_PIN_MODE : Fld := ⟨0x1300008, 0, 1, 1⟩
def PRT_CTRL_PIN_SYSTEM : Fld := ⟨0x1300008, 1, 1, 0⟩
def PRT_CTRL_PIN_ACK : Fld := ⟨0x1300008, 2, 1, 0⟩
def PRT_CTRL_ALERT_EN : Fld := ⟨0x1300008, 8, 4, 0xf⟩
def PRT_CTRL_PIN_RELEASE : Fld := ⟨0x1300008, 16, 16, 0x1e0⟩
def PRT_OSC_CFG_ARM_LEVEL : Fld := ⟨0x1300010, 0, 16, 0xc400⟩
def PRT_OSC_CFG_MATCH : Fld := ⟨0x1300010, 16, 16, 0x12c⟩
def PRT_DIR_CFG_DIR_HOLD : Fld := ⟨0x1300018, 0, 16, 0x12c0⟩
def PRT_STATUS_PKG_STOP : Fld := ⟨0x1300020, 0, 1, 0⟩
def PRT_STATUS_PIN_STOP : Fld := ⟨0x1300020, 1, 1, 0⟩
def PRT_STATUS_PIN_LEVEL : Fld := ⟨0x1300020, 2, 1, 1⟩
def PRT_STATUS_DIR_NR : Fld := ⟨0x1300020, 3, 1, 0⟩
def PRT_STATUS_DIR_PERMIT_D : Fld := ⟨0x1300020, 4, 1, 0⟩
def PRT_STATUS_DIR_PERMIT_S : Fld := ⟨0x1300020, 5, 1, 0⟩
def PRT_STATUS_TEN_STOP : Fld := ⟨0x1300020, 8, 8, 0⟩
def PRT_STATUS_LATCH_LOST : Fld := ⟨0x1300020, 16, 1, 0⟩
def PRT_STATUS_VERIFY_BUSY : Fld := ⟨0x1300020, 17, 1, 0⟩
def PRT_STATUS_ALERT : Fld := ⟨0x1300020, 18, 1, 0⟩
def PRT_OSC_LOG_SQ : Fld := ⟨0x1300028, 0, 7, 0⟩
def PRT_OSC_LOG_D_OUT : Fld := ⟨0x1300028, 16, 16, 0⟩
def PRT_OSC_LOG_D_IN : Fld := ⟨0x1300028, 32, 16, 0⟩
def PRT_OSC_LOG_G_DET : Fld := ⟨0x1300028, 48, 16, 0⟩
def PRT_INT_STATUS_EVENT : Fld := ⟨0x1300040, 0, 10, 0⟩
def PRT_INT_EN_EN : Fld := ⟨0x1300048, 0, 10, 0⟩
def PRT_CTR_COUNTER (f : Nat) : Fld := ⟨0x1300100 + 8 * f, 0, 64, 0⟩
def PRT_LATCH_HASH_HASH (f : Nat) (j : Nat) : Fld := ⟨0x1300200 + 0x20 * f + 8 * j, 0, 64, 0⟩
def PRT_CMD_STATUS_RESULT (f : Nat) : Fld := ⟨0x1300400 + 8 * f, 0, 4, 0⟩
def PRT_CMD_STATUS_LAST_KIND (f : Nat) : Fld := ⟨0x1300400 + 8 * f, 4, 2, 0⟩
def PRT_CMD_STATUS_BUSY (f : Nat) : Fld := ⟨0x1300400 + 8 * f, 6, 1, 0⟩
def PRT_CMD_STATUS_DROPPED (f : Nat) : Fld := ⟨0x1300400 + 8 * f, 8, 16, 0⟩
def PRT_MBOX_DATA (f : Nat) (w : Nat) : Fld := ⟨0x1301000 + 0x100 * f + 8 * w, 0, 64, 0⟩
def PRT_MBOX_GO_GO (f : Nat) : Fld := ⟨0x13010f8 + 0x100 * f, 0, 1, 0⟩

/-! Fields of the GPL registers (09_gain_plans_recovery.md R223). -/
def GPL_CFG_RECOV_TEMPI : Fld := ⟨0x1400000, 0, 13, 0x40⟩
def GPL_LAST_PLAN_ID : Fld := ⟨0x1400008, 0, 16, 0⟩
def GPL_LAST_CTX : Fld := ⟨0x1400008, 16, 4, 0⟩
def GPL_LAST_TEMPO : Fld := ⟨0x1400008, 32, 32, 0⟩
def GPL_COUNT_APPLIED : Fld := ⟨0x1400010, 0, 32, 0⟩
def GPL_COUNT_FAILED : Fld := ⟨0x1400010, 32, 32, 0⟩
def GPL_RELEASE_CTX : Fld := ⟨0x1400018, 0, 4, 0⟩
def GPL_RECOV_SQUARES : Fld := ⟨0x1400020, 0, 8, 0⟩
def GPL_INT_STATUS_ORPHAN : Fld := ⟨0x1400040, 0, 1, 0⟩
def GPL_INT_STATUS_WITHDRAW : Fld := ⟨0x1400040, 1, 1, 0⟩
def GPL_INT_EN_EN : Fld := ⟨0x1400048, 0, 2, 0⟩
def GPL_COMMIT_PLAN_ID (c : Nat) : Fld := ⟨0x1401000 + 0x100 * c, 0, 16, 0⟩
def GPL_COMMIT_MODE (c : Nat) : Fld := ⟨0x1401000 + 0x100 * c, 16, 1, 0⟩
def GPL_COMMIT_DISCARD (c : Nat) : Fld := ⟨0x1401000 + 0x100 * c, 32, 1, 0⟩
def GPL_STATUS_STATE (c : Nat) : Fld := ⟨0x1401008 + 0x100 * c, 0, 3, 0⟩
def GPL_STATUS_REASON (c : Nat) : Fld := ⟨0x1401008 + 0x100 * c, 8, 4, 0⟩
def GPL_STATUS_PLAN_ID (c : Nat) : Fld := ⟨0x1401008 + 0x100 * c, 16, 16, 0⟩
def GPL_STATUS_TARGET (c : Nat) : Fld := ⟨0x1401008 + 0x100 * c, 32, 8, 0xff⟩
def GPL_STATUS_TARGETS (c : Nat) : Fld := ⟨0x1401008 + 0x100 * c, 48, 8, 0⟩
def GPL_DONE_AT_AT (c : Nat) : Fld := ⟨0x1401010 + 0x100 * c, 0, 64, 0⟩
def GPL_DROPS_STAGE_DROP (c : Nat) : Fld := ⟨0x1401018 + 0x100 * c, 0, 16, 0⟩
def GPL_DROPS_COMMIT_DROP (c : Nat) : Fld := ⟨0x1401018 + 0x100 * c, 16, 16, 0⟩
def GPL_DROPS_CLAIMED (c : Nat) : Fld := ⟨0x1401018 + 0x100 * c, 32, 8, 0⟩
def GPL_CLAIM_CLAIM (c : Nat) (j : Nat) : Fld := ⟨0x1401020 + 0x100 * c + 8 * j, 0, 64, 0⟩
def GPL_CLAIM2_CLAIM (c : Nat) : Fld := ⟨0x1401030 + 0x100 * c, 0, 37, 0⟩
def GPL_CTX_INT_STATUS_APPLIED (c : Nat) : Fld := ⟨0x1401040 + 0x100 * c, 0, 1, 0⟩
def GPL_CTX_INT_STATUS_FAILED (c : Nat) : Fld := ⟨0x1401040 + 0x100 * c, 1, 1, 0⟩
def GPL_CTX_INT_STATUS_ABORTED (c : Nat) : Fld := ⟨0x1401040 + 0x100 * c, 2, 1, 0⟩
def GPL_CTX_INT_STATUS_STAGE_DROP (c : Nat) : Fld := ⟨0x1401040 + 0x100 * c, 3, 1, 0⟩
def GPL_CTX_INT_STATUS_COMMIT_DROP (c : Nat) : Fld := ⟨0x1401040 + 0x100 * c, 4, 1, 0⟩
def GPL_CTX_INT_EN_EN (c : Nat) : Fld := ⟨0x1401048 + 0x100 * c, 0, 5, 0⟩

/-! Fields of the MTR registers (10_zarid_metrology.md R246). -/
def MTR_STATUS_LINK : Fld := ⟨0x1500000, 0, 1, 0⟩
def MTR_STATUS_ZM_RUN : Fld := ⟨0x1500000, 1, 1, 0⟩
def MTR_STATUS_SEAL : Fld := ⟨0x1500000, 2, 2, 0⟩
def MTR_STATUS_PERMIT_D : Fld := ⟨0x1500000, 4, 1, 0⟩
def MTR_STATUS_PERMIT_S : Fld := ⟨0x1500000, 5, 1, 0⟩
def MTR_STATUS_GUARD : Fld := ⟨0x1500000, 6, 1, 0⟩
def MTR_STATUS_CLK_FAULT : Fld := ⟨0x1500000, 7, 1, 0⟩
def MTR_STATUS_CAL_SESSION : Fld := ⟨0x1500000, 8, 1, 0⟩
def MTR_STATUS_MON_LOST : Fld := ⟨0x1500000, 9, 1, 0⟩
def MTR_STATUS_REPORT_LOST : Fld := ⟨0x1500000, 10, 1, 0⟩
def MTR_STATUS_CAL_GEN : Fld := ⟨0x1500000, 12, 3, 0⟩
def MTR_ID_DEVICE_ID : Fld := ⟨0x1500008, 0, 64, 0⟩
def MTR_SEQ_SEQ : Fld := ⟨0x1500010, 0, 32, 0⟩
def MTR_SEQ_GEN : Fld := ⟨0x1500010, 32, 32, 0⟩
def MTR_LEN_BYTES : Fld := ⟨0x1500018, 0, 14, 0⟩
def MTR_LEN_N_WIN : Fld := ⟨0x1500018, 16, 9, 0⟩
def MTR_ZT_ZT : Fld := ⟨0x1500020, 0, 64, 0⟩
def MTR_GUARD_EVENTS : Fld := ⟨0x1500028, 0, 16, 0⟩
def MTR_GUARD_LAST_CAUSE : Fld := ⟨0x1500028, 16, 2, 0⟩
def MTR_GUARD_LAST_INPUT : Fld := ⟨0x1500028, 20, 4, 0⟩
def MTR_GUARD_HOLD_MS : Fld := ⟨0x1500028, 32, 16, 0⟩
def MTR_LINK_ERR_CRC_ERR : Fld := ⟨0x1500030, 0, 16, 0⟩
def MTR_LINK_ERR_DOWN : Fld := ⟨0x1500030, 16, 16, 0⟩
def MTR_EPOCH_BOOT_EPOCH : Fld := ⟨0x1500038, 0, 32, 0⟩
def MTR_PUBKEY_KEY (j : Nat) : Fld := ⟨0x1500100 + 8 * j, 0, 64, 0⟩
def MTR_ATTEST_SIG (j : Nat) : Fld := ⟨0x1500140 + 8 * j, 0, 64, 0⟩
def MTR_RAW_DATA (j : Nat) : Fld := ⟨0x1504000 + 8 * j, 0, 64, 0⟩

/-! Fields of the PSU registers (11_pa_supply_pwm.md R267). -/
def PSU_EN_EN : Fld := ⟨0x1600000, 0, 16, 0⟩
def PSU_BANKSEL_SEL : Fld := ⟨0x1600008, 0, 16, 0⟩
def PSU_STATUS_TRIPPED : Fld := ⟨0x1600010, 0, 16, 0⟩
def PSU_STATUS_HICCUP : Fld := ⟨0x1600010, 16, 16, 0⟩
def PSU_LAST_TRIP_CHANNELS : Fld := ⟨0x1600018, 0, 16, 0⟩
def PSU_LAST_TRIP_AFFECTED : Fld := ⟨0x1600018, 16, 16, 0⟩
def PSU_LAST_TRIP_EVENTS : Fld := ⟨0x1600018, 32, 32, 0⟩
def PSU_CFG_GROUP (ch : Nat) : Fld := ⟨0x1601000 + 0x100 * ch, 0, 4, 0⟩
def PSU_CFG_TH_SRC (ch : Nat) : Fld := ⟨0x1601000 + 0x100 * ch, 4, 5, 0x10⟩
def PSU_CFG_SS_PERIODS (ch : Nat) : Fld := ⟨0x1601000 + 0x100 * ch, 12, 16, 0xc8⟩
def PSU_CFG_HICCUP_N (ch : Nat) : Fld := ⟨0x1601000 + 0x100 * ch, 32, 8, 8⟩
def PSU_CFG_HICCUP_OFF (ch : Nat) : Fld := ⟨0x1601000 + 0x100 * ch, 48, 16, 0x3e8⟩
def PSU_BANK_PER (ch : Nat) (b : Nat) : Fld := ⟨0x1601008 + 0x100 * ch + 8 * b, 0, 12, 0x177⟩
def PSU_BANK_CMP_A (ch : Nat) (b : Nat) : Fld := ⟨0x1601008 + 0x100 * ch + 8 * b, 16, 16, 0x1770⟩
def PSU_BANK_CMP_B (ch : Nat) (b : Nat) : Fld := ⟨0x1601008 + 0x100 * ch + 8 * b, 32, 16, 0x1770⟩
def PSU_DT_DT0 (ch : Nat) : Fld := ⟨0x1601018 + 0x100 * ch, 0, 7, 0xf⟩
def PSU_DT_DT1 (ch : Nat) : Fld := ⟨0x1601018 + 0x100 * ch, 8, 7, 0xf⟩
def PSU_DT_DT2 (ch : Nat) : Fld := ⟨0x1601018 + 0x100 * ch, 16, 7, 0xf⟩
def PSU_DT_DT3 (ch : Nat) : Fld := ⟨0x1601018 + 0x100 * ch, 24, 7, 0xf⟩
def PSU_DT_DT4 (ch : Nat) : Fld := ⟨0x1601018 + 0x100 * ch, 32, 7, 0xf⟩
def PSU_DT_DT5 (ch : Nat) : Fld := ⟨0x1601018 + 0x100 * ch, 40, 7, 0xf⟩
def PSU_TRIP_CFG_CBC_LIM (ch : Nat) : Fld := ⟨0x1601020 + 0x100 * ch, 0, 8, 0xc8⟩
def PSU_TRIP_CFG_HARD_LIM (ch : Nat) : Fld := ⟨0x1601020 + 0x100 * ch, 8, 8, 0xf0⟩
def PSU_TRIP_CFG_BLANK (ch : Nat) : Fld := ⟨0x1601020 + 0x100 * ch, 16, 10, 0x1e⟩
def PSU_TRIP_CFG_CBC_EN (ch : Nat) : Fld := ⟨0x1601020 + 0x100 * ch, 32, 1, 1⟩
def PSU_PHASE_PHASE (ch : Nat) : Fld := ⟨0x1601028 + 0x100 * ch, 0, 13, 0⟩
def PSU_CH_STATUS_STATE (ch : Nat) : Fld := ⟨0x1601030 + 0x100 * ch, 0, 3, 0⟩
def PSU_CH_STATUS_BANK (ch : Nat) : Fld := ⟨0x1601030 + 0x100 * ch, 3, 1, 0⟩
def PSU_CH_STATUS_DT_NOW (ch : Nat) : Fld := ⟨0x1601030 + 0x100 * ch, 4, 7, 0xf⟩
def PSU_CH_STATUS_BAND (ch : Nat) : Fld := ⟨0x1601030 + 0x100 * ch, 12, 3, 0⟩
def PSU_CH_STATUS_SS_J (ch : Nat) : Fld := ⟨0x1601030 + 0x100 * ch, 16, 16, 0⟩
def PSU_CH_STATUS_CBC_RUN (ch : Nat) : Fld := ⟨0x1601030 + 0x100 * ch, 32, 8, 0⟩
def PSU_CH_STATUS_DITHER_K (ch : Nat) : Fld := ⟨0x1601030 + 0x100 * ch, 40, 4, 0⟩
def PSU_COUNT_CBC (ch : Nat) : Fld := ⟨0x1601038 + 0x100 * ch, 0, 16, 0⟩
def PSU_COUNT_HICCUPS (ch : Nat) : Fld := ⟨0x1601038 + 0x100 * ch, 16, 16, 0⟩
def PSU_COUNT_HARD (ch : Nat) : Fld := ⟨0x1601038 + 0x100 * ch, 32, 16, 0⟩
def PSU_INT_STATUS_HARD (ch : Nat) : Fld := ⟨0x1601040 + 0x100 * ch, 0, 1, 0⟩
def PSU_INT_STATUS_GROUP (ch : Nat) : Fld := ⟨0x1601040 + 0x100 * ch, 1, 1, 0⟩
def PSU_INT_STATUS_HICCUP (ch : Nat) : Fld := ⟨0x1601040 + 0x100 * ch, 2, 1, 0⟩
def PSU_INT_STATUS_CBC (ch : Nat) : Fld := ⟨0x1601040 + 0x100 * ch, 3, 1, 0⟩
def PSU_INT_STATUS_SS_DONE (ch : Nat) : Fld := ⟨0x1601040 + 0x100 * ch, 4, 1, 0⟩
def PSU_INT_STATUS_DT_CHG (ch : Nat) : Fld := ⟨0x1601040 + 0x100 * ch, 5, 1, 0⟩
def PSU_INT_STATUS_BANK_CHG (ch : Nat) : Fld := ⟨0x1601040 + 0x100 * ch, 6, 1, 0⟩
def PSU_INT_EN_EN (ch : Nat) : Fld := ⟨0x1601048 + 0x100 * ch, 0, 7, 0⟩

/-! Fields of the HK registers (12_housekeeping_adc.md R281). -/
def HK_CTRL_REF_EN : Fld := ⟨0x1700000, 0, 1, 0⟩
def HK_CTRL_RUN : Fld := ⟨0x1700000, 1, 1, 0⟩
def HK_CTRL_CAL_A : Fld := ⟨0x1700000, 2, 1, 0⟩
def HK_CTRL_CAL_B : Fld := ⟨0x1700000, 3, 1, 0⟩
def HK_CTRL_FLUSH : Fld := ⟨0x1700000, 4, 1, 0⟩
def HK_CTRL_XCHK_SRC : Fld := ⟨0x1700000, 5, 1, 0⟩
def HK_CTRL_TH_QUEUE : Fld := ⟨0x1700000, 6, 1, 0⟩
def HK_STATUS_REF_READY : Fld := ⟨0x1700008, 0, 1, 0⟩
def HK_STATUS_CAL_BUSY_A : Fld := ⟨0x1700008, 1, 1, 0⟩
def HK_STATUS_CAL_BUSY_B : Fld := ⟨0x1700008, 2, 1, 0⟩
def HK_STATUS_CAL_VALID_A : Fld := ⟨0x1700008, 3, 1, 0⟩
def HK_STATUS_CAL_VALID_B : Fld := ⟨0x1700008, 4, 1, 0⟩
def HK_STATUS_MISMATCH : Fld := ⟨0x1700008, 5, 1, 0⟩
def HK_ROUND_ROUND_TEMPI : Fld := ⟨0x1700010, 0, 16, 0x1e0⟩
def HK_ROUND_LEN_A : Fld := ⟨0x1700010, 32, 7, 0⟩
def HK_ROUND_LEN_B : Fld := ⟨0x1700010, 40, 7, 0⟩
def HK_XCHK_THR : Fld := ⟨0x1700018, 0, 14, 0x51f⟩
def HK_XCHK_N : Fld := ⟨0x1700018, 16, 4, 3⟩
def HK_OPEN_BAND : Fld := ⟨0x1700020, 0, 14, 0xa4⟩
def HK_QSTAT_DEPTH : Fld := ⟨0x1700028, 0, 10, 0⟩
def HK_QSTAT_LEVEL : Fld := ⟨0x1700028, 16, 10, 0x100⟩
def HK_QSTAT_OVERFLOW : Fld := ⟨0x1700028, 32, 16, 0⟩
def HK_QSTAT_CLIP : Fld := ⟨0x1700028, 48, 16, 0⟩
def HK_QUEUE_RECORD : Fld := ⟨0x1700030, 0, 64, 0x7f00000⟩
def HK_COUNT_OVERRUN : Fld := ⟨0x1700038, 0, 16, 0⟩
def HK_COUNT_SKIPPED : Fld := ⟨0x1700038, 16, 16, 0⟩
def HK_COUNT_ROUNDS : Fld := ⟨0x1700038, 32, 32, 0⟩
def HK_CALF_OFFSET (x : Nat) : Fld := ⟨0x1700040 + 8 * x, 0, 16, 0⟩
def HK_CALF_GAIN (x : Nat) : Fld := ⟨0x1700040 + 8 * x, 16, 16, 0x8000⟩
def HK_XVAL_VAL_A : Fld := ⟨0x1700050, 0, 20, 0⟩
def HK_XVAL_VAL_B : Fld := ⟨0x1700050, 32, 20, 0⟩
def HK_OPEN0_CH : Fld := ⟨0x1700058, 0, 64, 0⟩
def HK_OPEN1_CH : Fld := ⟨0x1700060, 0, 16, 0⟩
def HK_LIM0_CH : Fld := ⟨0x1700068, 0, 64, 0⟩
def HK_LIM1_CH : Fld := ⟨0x1700070, 0, 16, 0⟩
def HK_INT_STATUS_ROUND_DONE : Fld := ⟨0x1700080, 0, 1, 0⟩
def HK_INT_STATUS_WATERMARK : Fld := ⟨0x1700080, 1, 1, 0⟩
def HK_INT_STATUS_OVERFLOW : Fld := ⟨0x1700080, 2, 1, 0⟩
def HK_INT_STATUS_OVERRUN : Fld := ⟨0x1700080, 3, 1, 0⟩
def HK_INT_STATUS_CAL_DONE : Fld := ⟨0x1700080, 4, 1, 0⟩
def HK_INT_STATUS_CAL_REFUSED : Fld := ⟨0x1700080, 5, 1, 0⟩
def HK_INT_STATUS_MISMATCH : Fld := ⟨0x1700080, 6, 1, 0⟩
def HK_INT_STATUS_OPEN : Fld := ⟨0x1700080, 7, 1, 0⟩
def HK_INT_STATUS_LIMIT : Fld := ⟨0x1700080, 8, 1, 0⟩
def HK_INT_STATUS_REF_READY : Fld := ⟨0x1700080, 9, 1, 0⟩
def HK_INT_EN_EN : Fld := ⟨0x1700088, 0, 10, 0⟩
def HK_LIST_CH (x : Nat) (i : Nat) : Fld := ⟨0x1700100 + 0x200 * x + 8 * i, 0, 7, 0⟩
def HK_LIST_SETTLE (x : Nat) (i : Nat) : Fld := ⟨0x1700100 + 0x200 * x + 8 * i, 8, 8, 0⟩
def HK_LIST_AVG_LOG2 (x : Nat) (i : Nat) : Fld := ⟨0x1700100 + 0x200 * x + 8 * i, 16, 4, 0⟩
def HK_LIST_PULL (x : Nat) (i : Nat) : Fld := ⟨0x1700100 + 0x200 * x + 8 * i, 20, 2, 0⟩
def HK_LIST_QUEUE (x : Nat) (i : Nat) : Fld := ⟨0x1700100 + 0x200 * x + 8 * i, 22, 1, 0⟩
def HK_LIST_DIODE (x : Nat) (i : Nat) : Fld := ⟨0x1700100 + 0x200 * x + 8 * i, 23, 1, 0⟩
def HK_LAST_RECORD (ch : Nat) : Fld := ⟨0x1700800 + 8 * ch, 0, 64, 0x7f00000⟩
def HK_LIMIT_LO (ch : Nat) : Fld := ⟨0x1700c00 + 8 * ch, 0, 20, 0x80000⟩
def HK_LIMIT_HI (ch : Nat) : Fld := ⟨0x1700c00 + 8 * ch, 32, 20, 0x7ffff⟩

/-! Fields of the TH registers (13_thermal.md R297). -/
def TH_CFG_SLOPE : Fld := ⟨0x1800000, 0, 11, 0x32⟩
def TH_CFG_CUT_MAX : Fld := ⟨0x1800000, 16, 11, 0x7d0⟩
def TH_CFG_STEP_DB : Fld := ⟨0x1800000, 32, 10, 0xc8⟩
def TH_CFG_STEP_DWELL : Fld := ⟨0x1800000, 48, 8, 0x40⟩
def TH_BANDS_DIE0_UP1 : Fld := ⟨0x1800008, 0, 16, 0xfc18⟩
def TH_BANDS_DIE0_UP2 : Fld := ⟨0x1800008, 16, 16, 0x7d0⟩
def TH_BANDS_DIE0_UP3 : Fld := ⟨0x1800008, 32, 16, 0x1388⟩
def TH_BANDS_DIE0_UP4 : Fld := ⟨0x1800008, 48, 16, 0x1f40⟩
def TH_BANDS_DIE1_UP5 : Fld := ⟨0x1800010, 0, 16, 0x2710⟩
def TH_BANDS_EXT0_UP1 : Fld := ⟨0x1800018, 0, 16, 0xfc18⟩
def TH_BANDS_EXT0_UP2 : Fld := ⟨0x1800018, 16, 16, 0x7d0⟩
def TH_BANDS_EXT0_UP3 : Fld := ⟨0x1800018, 32, 16, 0x1194⟩
def TH_BANDS_EXT0_UP4 : Fld := ⟨0x1800018, 48, 16, 0x1b58⟩
def TH_BANDS_EXT1_UP5 : Fld := ⟨0x1800020, 0, 16, 0x2328⟩
def TH_THR_DIE_THR : Fld := ⟨0x1800028, 0, 16, 0x251c⟩
def TH_THR_MISMATCH_ADD : Fld := ⟨0x1800028, 16, 16, 0x1f4⟩
def TH_STATUS_ACTIVE : Fld := ⟨0x1800030, 0, 1, 0⟩
def TH_STATUS_HK_SUSPECT : Fld := ⟨0x1800030, 1, 1, 0⟩
def TH_STATUS_MODE_D : Fld := ⟨0x1800030, 2, 1, 0⟩
def TH_STATUS_MODE_S : Fld := ⟨0x1800030, 3, 1, 0⟩
def TH_STATUS_STEP_D : Fld := ⟨0x1800030, 4, 3, 0⟩
def TH_STATUS_STEP_S : Fld := ⟨0x1800030, 8, 3, 0⟩
def TH_STATUS_ONLINE_D : Fld := ⟨0x1800030, 12, 4, 0⟩
def TH_STATUS_ONLINE_S : Fld := ⟨0x1800030, 16, 4, 0⟩
def TH_STATUS_BAND_BD : Fld := ⟨0x1800030, 20, 3, 0⟩
def TH_STATUS_BAND_DCD : Fld := ⟨0x1800030, 24, 3, 0⟩
def TH_STATUS_BAND_SCD : Fld := ⟨0x1800030, 28, 3, 0⟩
def TH_EXCESS_E_D : Fld := ⟨0x1800038, 0, 16, 0⟩
def TH_EXCESS_CUT_D : Fld := ⟨0x1800038, 16, 16, 0⟩
def TH_EXCESS_E_S : Fld := ⟨0x1800038, 32, 16, 0⟩
def TH_EXCESS_CUT_S : Fld := ⟨0x1800038, 48, 16, 0⟩
def TH_INT_STATUS_BAND_CHG : Fld := ⟨0x1800040, 0, 1, 0⟩
def TH_INT_STATUS_THROTTLE : Fld := ⟨0x1800040, 1, 1, 0⟩
def TH_INT_STATUS_SENSOR : Fld := ⟨0x1800040, 2, 1, 0⟩
def TH_INT_STATUS_SHUTDOWN : Fld := ⟨0x1800040, 3, 1, 0⟩
def TH_INT_STATUS_RESTART : Fld := ⟨0x1800040, 4, 1, 0⟩
def TH_INT_STATUS_CFG_REJECT : Fld := ⟨0x1800040, 5, 1, 0⟩
def TH_INT_EN_EN : Fld := ⟨0x1800048, 0, 6, 0⟩
def TH_DIE_BD : Fld := ⟨0x1800050, 0, 16, 0x3a98⟩
def TH_DIE_DCD : Fld := ⟨0x1800050, 16, 16, 0x3a98⟩
def TH_DIE_SCD : Fld := ⟨0x1800050, 32, 16, 0x3a98⟩
def TH_DIE_ZMD : Fld := ⟨0x1800050, 48, 16, 0x8000⟩
def TH_SD_SD_DCD : Fld := ⟨0x1800058, 0, 1, 0⟩
def TH_SD_SD_SCD : Fld := ⟨0x1800058, 1, 1, 0⟩
def TH_SD_SD_ZMD : Fld := ⟨0x1800058, 2, 1, 0⟩
def TH_SD_BD_RESTARTED : Fld := ⟨0x1800058, 3, 1, 0⟩
def TH_SD_CNT_BD : Fld := ⟨0x1800058, 8, 8, 0⟩
def TH_SD_CNT_DCD : Fld := ⟨0x1800058, 16, 8, 0⟩
def TH_SD_CNT_SCD : Fld := ⟨0x1800058, 24, 8, 0⟩
def TH_SD_CNT_ZMD : Fld := ⟨0x1800058, 32, 8, 0⟩
def TH_EXT_CFG_EN (i : Nat) : Fld := ⟨0x1800100 + 8 * i, 0, 1, 0⟩
def TH_EXT_CFG_SIDE (i : Nat) : Fld := ⟨0x1800100 + 8 * i, 1, 2, 0⟩
def TH_EXT_CFG_THR (i : Nat) : Fld := ⟨0x1800100 + 8 * i, 16, 16, 0x2134⟩
def TH_EXT_CFG_PARAM_A (i : Nat) : Fld := ⟨0x1800100 + 8 * i, 32, 16, if i < 8 then 0x8106 else 3435⟩
def TH_EXT_CFG_PARAM_B (i : Nat) : Fld := ⟨0x1800100 + 8 * i, 48, 16, if i < 8 then 0 else 0x1000⟩
def TH_EXT_TEMP_TEMP (i : Nat) : Fld := ⟨0x1800180 + 8 * i, 0, 16, 0x8000⟩
def TH_EXT_TEMP_VALID (i : Nat) : Fld := ⟨0x1800180 + 8 * i, 16, 1, 0⟩
def TH_EXT_TEMP_BAND (i : Nat) : Fld := ⟨0x1800180 + 8 * i, 17, 3, 0⟩
def TH_EXT_TEMP_DWELL (i : Nat) : Fld := ⟨0x1800180 + 8 * i, 20, 4, 0⟩
def TH_DIODE_TEMP (j : Nat) : Fld := ⟨0x1800200 + 8 * j, 0, 16, 0x3a98⟩
def TH_DIODE_VALID (j : Nat) : Fld := ⟨0x1800200 + 8 * j, 16, 1, 0⟩

/-! Fields of the FLT registers (14_faults_blackbox.md R318). -/
def FLT_CTRL_FREEZE : Fld := ⟨0x1900000, 0, 1, 0⟩
def FLT_SUMMARY_PENDING_CNT : Fld := ⟨0x1900008, 0, 10, 0⟩
def FLT_SUMMARY_SEVERE_CNT : Fld := ⟨0x1900008, 16, 10, 0⟩
def FLT_SUMMARY_PAIR_CNT : Fld := ⟨0x1900008, 32, 10, 0⟩
def FLT_SUMMARY_FAULT_N_LOW : Fld := ⟨0x1900008, 48, 1, 1⟩
def FLT_FIRST_SOURCE : Fld := ⟨0x1900010, 0, 9, 0⟩
def FLT_FIRST_CAUSE : Fld := ⟨0x1900010, 16, 8, 0⟩
def FLT_FIRST_MASTER : Fld := ⟨0x1900010, 24, 5, 0⟩
def FLT_FIRST_ACCESS : Fld := ⟨0x1900010, 29, 3, 0⟩
def FLT_FIRST_VALID : Fld := ⟨0x1900010, 32, 1, 0⟩
def FLT_FIRST_ADDR_VALID : Fld := ⟨0x1900010, 33, 1, 0⟩
def FLT_FIRST_FOLLOWING : Fld := ⟨0x1900010, 48, 16, 0⟩
def FLT_FIRST_ADDR_ADDR : Fld := ⟨0x1900018, 0, 64, 0⟩
def FLT_FIRST_AT_AT : Fld := ⟨0x1900020, 0, 64, 0⟩
def FLT_INT_STATUS_EVENT : Fld := ⟨0x1900030, 0, 1, 0⟩
def FLT_INT_STATUS_FIRST : Fld := ⟨0x1900030, 1, 1, 0⟩
def FLT_INT_STATUS_SEVERE : Fld := ⟨0x1900030, 2, 1, 0⟩
def FLT_INT_STATUS_PAIR : Fld := ⟨0x1900030, 3, 1, 0⟩
def FLT_INT_STATUS_REASSERT : Fld := ⟨0x1900030, 4, 1, 0⟩
def FLT_INT_STATUS_BB_FROZEN : Fld := ⟨0x1900030, 5, 1, 0⟩
def FLT_INT_STATUS_BB_LOST : Fld := ⟨0x1900030, 6, 1, 0⟩
def FLT_INT_STATUS_BB_RD_DONE : Fld := ⟨0x1900030, 7, 1, 0⟩
def FLT_INT_STATUS_BB_INVALID : Fld := ⟨0x1900030, 8, 1, 0⟩
def FLT_INT_EN_EN : Fld := ⟨0x1900038, 0, 9, 0⟩
def FLT_INJECT_SOURCE : Fld := ⟨0x1900040, 0, 9, 0⟩
def FLT_INJECT_MODE : Fld := ⟨0x1900040, 12, 2, 0⟩
def FLT_REASSERT_COUNT : Fld := ⟨0x1900048, 0, 32, 0⟩
def FLT_PENDING_PENDING (j : Nat) : Fld := ⟨0x1900080 + 8 * j, 0, 64, 0⟩
def FLT_ACTIVE_ACTIVE (j : Nat) : Fld := ⟨0x19000c0 + 8 * j, 0, 64, 0⟩
def FLT_SEVERE_SEVERE (j : Nat) : Fld := ⟨0x1900120 + 8 * j, 0, 64, 0⟩
def FLT_PAIR_PAIR (j : Nat) : Fld := ⟨0x1900160 + 8 * j, 0, 64, 0⟩
def FLT_BB_STATUS_HEAD : Fld := ⟨0x1900200, 0, 9, 0⟩
def FLT_BB_STATUS_WRAPPED : Fld := ⟨0x1900200, 9, 1, 0⟩
def FLT_BB_STATUS_FROZEN : Fld := ⟨0x1900200, 10, 1, 0⟩
def FLT_BB_STATUS_INVALID : Fld := ⟨0x1900200, 11, 1, 0⟩
def FLT_BB_STATUS_RD_READY : Fld := ⟨0x1900200, 12, 1, 0⟩
def FLT_BB_STATUS_LOST : Fld := ⟨0x1900200, 16, 16, 0⟩
def FLT_BB_CTRL_ACK : Fld := ⟨0x1900208, 0, 1, 0⟩
def FLT_BB_RD_INDEX : Fld := ⟨0x1900210, 0, 9, 0⟩
def FLT_BB_DATA0_DATA : Fld := ⟨0x1900218, 0, 64, 0⟩
def FLT_BB_DATA1_DATA : Fld := ⟨0x1900220, 0, 64, 0⟩
def FLT_BB_MARK_DETAIL : Fld := ⟨0x1900228, 0, 32, 0⟩
def FLT_CFG_N (s : Nat) : Fld := ⟨0x1901000 + 8 * s, 0, 8, 4⟩
def FLT_CFG_WINDOW (s : Nat) : Fld := ⟨0x1901000 + 8 * s, 16, 24, 0x75300⟩
def FLT_CFG_FN_EN (s : Nat) : Fld := ⟨0x1901000 + 8 * s, 40, 1, 1⟩
def FLT_CFG_INT_EN (s : Nat) : Fld := ⟨0x1901000 + 8 * s, 41, 1, 0⟩
def FLT_CFG_BB_EN (s : Nat) : Fld := ⟨0x1901000 + 8 * s, 42, 1, 1⟩
def FLT_CFG_FATAL_EN (s : Nat) : Fld := ⟨0x1901000 + 8 * s, 43, 1, 0⟩
def FLT_SRC_COUNT (s : Nat) : Fld := ⟨0x1902000 + 8 * s, 0, 8, 0⟩
def FLT_SRC_PENDING (s : Nat) : Fld := ⟨0x1902000 + 8 * s, 8, 1, 0⟩
def FLT_SRC_ACTIVE (s : Nat) : Fld := ⟨0x1902000 + 8 * s, 9, 1, 0⟩
def FLT_SRC_SEVERE (s : Nat) : Fld := ⟨0x1902000 + 8 * s, 10, 1, 0⟩
def FLT_SRC_PAIR (s : Nat) : Fld := ⟨0x1902000 + 8 * s, 11, 1, 0⟩
def FLT_SRC_LAST_CAUSE (s : Nat) : Fld := ⟨0x1902000 + 8 * s, 16, 8, 0⟩
def FLT_SRC_EVENTS (s : Nat) : Fld := ⟨0x1902000 + 8 * s, 32, 32, 0⟩

/-! Fields of the INT registers (15_interrupts.md R333). -/
def INT_STATUS_EOI_ERR : Fld := ⟨0x1a00000, 0, 1, 0⟩
def INT_STATUS_ROUTE_REFUSED : Fld := ⟨0x1a00000, 1, 1, 0⟩
def INT_STATUS_SLEEP_LOST : Fld := ⟨0x1a00000, 2, 1, 0⟩
def INT_STATUS_RESTORED : Fld := ⟨0x1a00000, 3, 1, 0⟩
def INT_SETPEND_NUM : Fld := ⟨0x1a00008, 0, 11, 0⟩
def INT_CLRPEND_NUM : Fld := ⟨0x1a00010, 0, 11, 0⟩
def INT_ERRLOG_NUM : Fld := ⟨0x1a00018, 0, 11, 0⟩
def INT_ERRLOG_TARGET : Fld := ⟨0x1a00018, 12, 4, 0⟩
def INT_ERRLOG_COUNT : Fld := ⟨0x1a00018, 32, 32, 0⟩
def INT_CLAIM_NUM (t : Nat) : Fld := ⟨0x1a00100 + 0x40 * t, 0, 11, 0⟩
def INT_EOI_NUM (t : Nat) : Fld := ⟨0x1a00108 + 0x40 * t, 0, 11, 0⟩
def INT_TCFG_SPLIT (t : Nat) : Fld := ⟨0x1a00110 + 0x40 * t, 0, 3, 0⟩
def INT_TCFG_THRESHOLD (t : Nat) : Fld := ⟨0x1a00110 + 0x40 * t, 8, 8, 0xff⟩
def INT_TCFG_COAL_TIME (t : Nat) : Fld := ⟨0x1a00110 + 0x40 * t, 16, 16, 0⟩
def INT_TCFG_COAL_CNT (t : Nat) : Fld := ⟨0x1a00110 + 0x40 * t, 32, 8, 1⟩
def INT_TSTAT_TOP (t : Nat) : Fld := ⟨0x1a00118 + 0x40 * t, 0, 11, 0⟩
def INT_TSTAT_DEPTH (t : Nat) : Fld := ⟨0x1a00118 + 0x40 * t, 11, 5, 0⟩
def INT_TSTAT_RUN_PR (t : Nat) : Fld := ⟨0x1a00118 + 0x40 * t, 16, 9, 0x1ff⟩
def INT_TSTAT_LINE (t : Nat) : Fld := ⟨0x1a00118 + 0x40 * t, 25, 1, 0⟩
def INT_TSTAT_IDLE (t : Nat) : Fld := ⟨0x1a00118 + 0x40 * t, 26, 1, 0⟩
def INT_TSTAT_HELD (t : Nat) : Fld := ⟨0x1a00118 + 0x40 * t, 27, 1, 0⟩
def INT_HEOI_NUM (f : Nat) : Fld := ⟨0x1a00300 + 8 * f, 0, 11, 0⟩
def INT_PEND_PENDING (j : Nat) : Fld := ⟨0x1a00400 + 8 * j, 0, 64, 0⟩
def INT_ACT_ACTIVE (j : Nat) : Fld := ⟨0x1a00500 + 8 * j, 0, 64, 0⟩
def INT_SRC_PRIO (n : Nat) : Fld := ⟨0x1a10000 + 8 * n, 0, 8, if n < 16 then n - 1 else 0x80⟩
def INT_SRC_TARGET (n : Nat) : Fld := ⟨0x1a10000 + 8 * n, 8, 4, 0⟩
def INT_SRC_VECTOR (n : Nat) : Fld := ⟨0x1a10000 + 8 * n, 12, 6, 0⟩
def INT_SRC_EN (n : Nat) : Fld := ⟨0x1a10000 + 8 * n, 18, 1, 0⟩
def INT_SRC_WAKE (n : Nat) : Fld := ⟨0x1a10000 + 8 * n, 19, 1, 0⟩
def INT_SRC_KIND (n : Nat) : Fld := ⟨0x1a10000 + 8 * n, 24, 1, intKind n⟩
def INT_SRC_PENDING (n : Nat) : Fld := ⟨0x1a10000 + 8 * n, 25, 1, 0⟩
def INT_SRC_ACTIVE (n : Nat) : Fld := ⟨0x1a10000 + 8 * n, 26, 1, 0⟩
def INT_SRC_INPUT (n : Nat) : Fld := ⟨0x1a10000 + 8 * n, 27, 1, 0⟩

/-! Fields of the SUP registers (16_supervisor_cores.md R350). -/
def SUP_CTRL_RUN : Fld := ⟨0x2180000, 0, 4, 0⟩
def SUP_STATUS_INIT_DONE : Fld := ⟨0x2180008, 0, 1, 0⟩
def SUP_STATUS_RUNNING : Fld := ⟨0x2180008, 4, 4, 0⟩
def SUP_STATUS_IDLE : Fld := ⟨0x2180008, 8, 4, 0⟩
def SUP_TEN_DENY_DENY : Fld := ⟨0x2180010, 0, 8, 0⟩
def SUP_MTIME_MTIME : Fld := ⟨0x2180018, 0, 64, 0⟩
def SUP_BOOT_ADDR (c : Nat) : Fld := ⟨0x2180100 + 0x40 * c, 2, 62, 0⟩
def SUP_CFG_SEIP_ROUTE (c : Nat) : Fld := ⟨0x2180108 + 0x40 * c, 0, 1, 0⟩
def SUP_MTIMECMP_CMP (c : Nat) : Fld := ⟨0x2180110 + 0x40 * c, 0, 64, 0xffffffffffffffff⟩
def SUP_MSIP_MSIP (c : Nat) : Fld := ⟨0x2180118 + 0x40 * c, 0, 1, 0⟩
def SUP_ERR_CORRECTED (c : Nat) : Fld := ⟨0x2180120 + 0x40 * c, 0, 16, 0⟩
def SUP_ERR_UNCORR (c : Nat) : Fld := ⟨0x2180120 + 0x40 * c, 16, 16, 0⟩
def SUP_ERR_PARITY (c : Nat) : Fld := ⟨0x2180120 + 0x40 * c, 32, 16, 0⟩
def SUP_PC_PC (c : Nat) : Fld := ⟨0x2180128 + 0x40 * c, 0, 64, 0⟩

/-! Fields of the TEN registers (17_host_tenants.md R367). -/
def TEN_ASSIGN_SQ : Fld := ⟨0x1f00000, 0, 7, 0⟩
def TEN_ASSIGN_FUNC : Fld := ⟨0x1f00000, 8, 4, 0⟩
def TEN_ASSIGN_STATUS_RESULT : Fld := ⟨0x1f00008, 0, 4, 0⟩
def TEN_ASSIGN_STATUS_SQ : Fld := ⟨0x1f00008, 8, 7, 0⟩
def TEN_ASSIGN_STATUS_FUNC : Fld := ⟨0x1f00008, 16, 4, 0⟩
def TEN_ASSIGN_STATUS_PENDING : Fld := ⟨0x1f00008, 20, 1, 0⟩
def TEN_OWNER_OWNER (j : Nat) : Fld := ⟨0x1f00010 + 8 * j, 0, 64, 0⟩
def TEN_PF_INT_STATUS_FLR : Fld := ⟨0x1f00050, 0, 8, 0⟩
def TEN_PF_INT_STATUS_ASSIGN_DONE : Fld := ⟨0x1f00050, 8, 1, 0⟩
def TEN_PF_INT_STATUS_ASSIGN_REFUSED : Fld := ⟨0x1f00050, 9, 1, 0⟩
def TEN_PF_INT_STATUS_WITHDRAW : Fld := ⟨0x1f00050, 10, 1, 0⟩
def TEN_PF_INT_STATUS_VC1_MISUSE : Fld := ⟨0x1f00050, 11, 1, 0⟩
def TEN_PF_INT_EN_EN : Fld := ⟨0x1f00058, 0, 12, 0⟩
def TEN_CFG_FLR_DISABLE (f : Nat) : Fld := ⟨0x1f01000 + 0x100 * f, 0, 1, 0⟩
def TEN_CFG_CAP_ENG (f : Nat) : Fld := ⟨0x1f01000 + 0x100 * f, 16, 16, 0⟩
def TEN_QUOTA_SQUARES (f : Nat) : Fld := ⟨0x1f01008 + 0x100 * f, 0, 8, 0⟩
def TEN_QUOTA_PWR_DONOR (f : Nat) : Fld := ⟨0x1f01008 + 0x100 * f, 16, 16, 0x8000⟩
def TEN_QUOTA_PWR_SERVICE (f : Nat) : Fld := ⟨0x1f01008 + 0x100 * f, 32, 16, 0x8000⟩
def TEN_CAPQ_CAP_BW (f : Nat) : Fld := ⟨0x1f01010 + 0x100 * f, 0, 16, 0⟩
def TEN_CAPQ_CAP_INFLIGHT (f : Nat) : Fld := ⟨0x1f01010 + 0x100 * f, 32, 14, 0⟩
def TEN_USE_SQ_ENABLED (f : Nat) : Fld := ⟨0x1f01018 + 0x100 * f, 0, 8, 0⟩
def TEN_USE_SQ_OWNED (f : Nat) : Fld := ⟨0x1f01018 + 0x100 * f, 8, 8, 0⟩
def TEN_USE_INFLIGHT (f : Nat) : Fld := ⟨0x1f01018 + 0x100 * f, 32, 14, 0⟩
def TEN_MEAS_DONOR_SUM (f : Nat) : Fld := ⟨0x1f01020 + 0x100 * f, 0, 16, 0x8000⟩
def TEN_MEAS_SERVICE_SUM (f : Nat) : Fld := ⟨0x1f01020 + 0x100 * f, 32, 16, 0x8000⟩
def TEN_CUT_CAUSE (f : Nat) : Fld := ⟨0x1f01028 + 0x100 * f, 0, 5, 0⟩
def TEN_CUT_WITHDRAWN (f : Nat) : Fld := ⟨0x1f01028 + 0x100 * f, 8, 8, 0⟩
def TEN_CUT_TEMPO (f : Nat) : Fld := ⟨0x1f01028 + 0x100 * f, 32, 32, 0⟩
def TEN_FLR_DROPPED (f : Nat) : Fld := ⟨0x1f01030 + 0x100 * f, 0, 16, 0⟩
def TEN_FLR_COMPLETED (f : Nat) : Fld := ⟨0x1f01030 + 0x100 * f, 16, 16, 0⟩
def TEN_FLR_COUNT (f : Nat) : Fld := ⟨0x1f01030 + 0x100 * f, 32, 16, 0⟩
def TEN_VF_STATUS_ENABLED (f : Nat) : Fld := ⟨0x1f01038 + 0x100 * f, 0, 1, 0⟩
def TEN_VF_STATUS_FLR_BUSY (f : Nat) : Fld := ⟨0x1f01038 + 0x100 * f, 1, 1, 0⟩
def TEN_VF_STATUS_STOPPED (f : Nat) : Fld := ⟨0x1f01038 + 0x100 * f, 2, 1, 0⟩
def TEN_VF_STATUS_CORE_DENIED (f : Nat) : Fld := ⟨0x1f01038 + 0x100 * f, 3, 1, 0⟩
def TEN_VF_STATUS_CAP_PAUSED (f : Nat) : Fld := ⟨0x1f01038 + 0x100 * f, 4, 1, 0⟩
def TEN_ALLOW_LO (f : Nat) (e : Nat) : Fld := ⟨0x1f01040 + 0x100 * f + 8 * e, 0, 20, 0⟩
def TEN_ALLOW_HI (f : Nat) (e : Nat) : Fld := ⟨0x1f01040 + 0x100 * f + 8 * e, 32, 20, 0⟩
def TEN_ALLOW_SIDE (f : Nat) (e : Nat) : Fld := ⟨0x1f01040 + 0x100 * f + 8 * e, 52, 2, 0⟩
def TEN_VF_INT_STATUS_QUOTA_CUT (f : Nat) : Fld := ⟨0x1f01080 + 0x100 * f, 0, 1, 0⟩
def TEN_VF_INT_STATUS_CAP_PAUSED (f : Nat) : Fld := ⟨0x1f01080 + 0x100 * f, 1, 1, 0⟩
def TEN_VF_INT_STATUS_CAP_RESUMED (f : Nat) : Fld := ⟨0x1f01080 + 0x100 * f, 2, 1, 0⟩
def TEN_VF_INT_STATUS_CMD_DONE (f : Nat) : Fld := ⟨0x1f01080 + 0x100 * f, 3, 1, 0⟩
def TEN_VF_INT_STATUS_CMD_REJECT (f : Nat) : Fld := ⟨0x1f01080 + 0x100 * f, 4, 1, 0⟩
def TEN_VF_INT_STATUS_OWNER_CHG (f : Nat) : Fld := ⟨0x1f01080 + 0x100 * f, 5, 1, 0⟩
def TEN_VF_INT_EN_EN (f : Nat) : Fld := ⟨0x1f01088 + 0x100 * f, 0, 6, 0⟩
def TEN_DBELL_INDEX (f : Nat) : Fld := ⟨0x1f010f8 + 0x100 * f, 0, 4, 0⟩

/-! Fields of the CAP registers (18_capture_dma.md R383). -/
def CAP_STATUS_INFLIGHT : Fld := ⟨0x1b00000, 0, 14, 0⟩
def CAP_STATUS_BUSY : Fld := ⟨0x1b00000, 16, 16, 0⟩
def CAP_WIN_BASE_BASE (f : Nat) : Fld := ⟨0x1b00100 + 0x20 * f, 12, 52, 0⟩
def CAP_WIN_SIZE_PAGES (f : Nat) : Fld := ⟨0x1b00108 + 0x20 * f, 0, 36, 0⟩
def CAP_CREDIT_BYTES (f : Nat) : Fld := ⟨0x1b00110 + 0x20 * f, 0, 48, 0⟩
def CAP_CREDIT_UNLIM (f : Nat) : Fld := ⟨0x1b00110 + 0x20 * f, 63, 1, if f = 0 ∨ f = 9 then 1 else 0⟩
def CAP_CREDIT_ADD_ADD (f : Nat) : Fld := ⟨0x1b00118 + 0x20 * f, 0, 48, 0⟩
def CAP_ENG_QUEUE (e : Nat) : Fld := ⟨0x1b01000 + 0x1000 * e, 0, 4, 0xf⟩
def CAP_ENG_STATE (e : Nat) : Fld := ⟨0x1b01000 + 0x1000 * e, 4, 3, 0⟩
def CAP_ENG_ORPHAN (e : Nat) : Fld := ⟨0x1b01000 + 0x1000 * e, 16, 16, 0⟩
def CAP_ENG_BUF (e : Nat) : Fld := ⟨0x1b01000 + 0x1000 * e, 32, 18, 0⟩
def CAP_DQ_BASE_BASE (e : Nat) (q : Nat) : Fld := ⟨0x1b01100 + 0x1000 * e + 0x80 * q, 6, 58, 0⟩
def CAP_DQ_CFG_SIZE_LOG2 (e : Nat) (q : Nat) : Fld := ⟨0x1b01108 + 0x1000 * e + 0x80 * q, 0, 4, 0⟩
def CAP_DQ_CFG_EN (e : Nat) (q : Nat) : Fld := ⟨0x1b01108 + 0x1000 * e + 0x80 * q, 8, 1, 0⟩
def CAP_DQ_CFG_ABORT (e : Nat) (q : Nat) : Fld := ⟨0x1b01108 + 0x1000 * e + 0x80 * q, 9, 1, 0⟩
def CAP_DQ_CFG_RESTART (e : Nat) (q : Nat) : Fld := ⟨0x1b01108 + 0x1000 * e + 0x80 * q, 10, 1, 0⟩
def CAP_DQ_TAIL_TAIL (e : Nat) (q : Nat) : Fld := ⟨0x1b01110 + 0x1000 * e + 0x80 * q, 0, 12, 0⟩
def CAP_DQ_STATUS_HEAD (e : Nat) (q : Nat) : Fld := ⟨0x1b01118 + 0x1000 * e + 0x80 * q, 0, 12, 0⟩
def CAP_DQ_STATUS_HALTED (e : Nat) (q : Nat) : Fld := ⟨0x1b01118 + 0x1000 * e + 0x80 * q, 16, 1, 0⟩
def CAP_DQ_STATUS_PAUSED (e : Nat) (q : Nat) : Fld := ⟨0x1b01118 + 0x1000 * e + 0x80 * q, 17, 1, 0⟩
def CAP_DQ_STATUS_WAIT_START (e : Nat) (q : Nat) : Fld := ⟨0x1b01118 + 0x1000 * e + 0x80 * q, 18, 1, 0⟩
def CAP_DQ_STATUS_WAIT_BW (e : Nat) (q : Nat) : Fld := ⟨0x1b01118 + 0x1000 * e + 0x80 * q, 19, 1, 0⟩
def CAP_DQ_STATUS_WAIT_CQ (e : Nat) (q : Nat) : Fld := ⟨0x1b01118 + 0x1000 * e + 0x80 * q, 20, 1, 0⟩
def CAP_CQ_BASE_BASE (e : Nat) (q : Nat) : Fld := ⟨0x1b01120 + 0x1000 * e + 0x80 * q, 5, 59, 0⟩
def CAP_CQ_CFG_SIZE_LOG2 (e : Nat) (q : Nat) : Fld := ⟨0x1b01128 + 0x1000 * e + 0x80 * q, 0, 4, 0⟩
def CAP_CQ_CFG_TAIL (e : Nat) (q : Nat) : Fld := ⟨0x1b01128 + 0x1000 * e + 0x80 * q, 16, 12, 0⟩
def CAP_CQ_CFG_PHASE (e : Nat) (q : Nat) : Fld := ⟨0x1b01128 + 0x1000 * e + 0x80 * q, 28, 1, 1⟩
def CAP_CQ_HEAD_HEAD (e : Nat) (q : Nat) : Fld := ⟨0x1b01130 + 0x1000 * e + 0x80 * q, 0, 12, 0⟩
def CAP_Q_STATS_RECORDS (e : Nat) (q : Nat) : Fld := ⟨0x1b01138 + 0x1000 * e + 0x80 * q, 0, 32, 0⟩
def CAP_Q_STATS_GAP (e : Nat) (q : Nat) : Fld := ⟨0x1b01138 + 0x1000 * e + 0x80 * q, 32, 32, 0⟩
def CAP_Q_INT_STATUS_DONE (e : Nat) (q : Nat) : Fld := ⟨0x1b01140 + 0x1000 * e + 0x80 * q, 0, 1, 0⟩
def CAP_Q_INT_STATUS_FAULT (e : Nat) (q : Nat) : Fld := ⟨0x1b01140 + 0x1000 * e + 0x80 * q, 1, 1, 0⟩
def CAP_Q_INT_STATUS_HALT (e : Nat) (q : Nat) : Fld := ⟨0x1b01140 + 0x1000 * e + 0x80 * q, 2, 1, 0⟩
def CAP_Q_INT_STATUS_GAP (e : Nat) (q : Nat) : Fld := ⟨0x1b01140 + 0x1000 * e + 0x80 * q, 3, 1, 0⟩
def CAP_Q_INT_STATUS_BADDATA (e : Nat) (q : Nat) : Fld := ⟨0x1b01140 + 0x1000 * e + 0x80 * q, 4, 1, 0⟩
def CAP_Q_INT_EN_EN (e : Nat) (q : Nat) : Fld := ⟨0x1b01148 + 0x1000 * e + 0x80 * q, 0, 5, 0⟩

/-! Fields of the CHL registers (19_chain_link.md R407). -/
def CHL_SYS_HOPS : Fld := ⟨0x1c00000, 0, 4, 0xf⟩
def CHL_SYS_MASTER : Fld := ⟨0x1c00000, 4, 1, 0⟩
def CHL_SYS_LINK_STOP : Fld := ⟨0x1c00000, 5, 1, 0⟩
def CHL_SYS_INJ_USED : Fld := ⟨0x1c00000, 16, 6, 0⟩
def CHL_SYS_BUF_USED : Fld := ⟨0x1c00000, 32, 21, 0⟩
def CHL_CTRL_LSTOP_ACK : Fld := ⟨0x1c00008, 0, 1, 0⟩
def CHL_CFG_EN (p : Nat) : Fld := ⟨0x1c00100 + 0x100 * p, 0, 1, 0⟩
def CHL_CFG_RETX_US (p : Nat) : Fld := ⟨0x1c00100 + 0x100 * p, 8, 10, 0x20⟩
def CHL_CFG_RETX_MAX (p : Nat) : Fld := ⟨0x1c00100 + 0x100 * p, 20, 4, 8⟩
def CHL_CFG_PLAY_DELAY (p : Nat) : Fld := ⟨0x1c00100 + 0x100 * p, 32, 20, 0⟩
def CHL_STATUS_STATE (p : Nat) : Fld := ⟨0x1c00108 + 0x100 * p, 0, 2, 0⟩
def CHL_STATUS_PEER_MASTER (p : Nat) : Fld := ⟨0x1c00108 + 0x100 * p, 2, 1, 0⟩
def CHL_STATUS_PEER_HOPS (p : Nat) : Fld := ⟨0x1c00108 + 0x100 * p, 4, 4, 0xf⟩
def CHL_STATUS_LANE_LOCK (p : Nat) : Fld := ⟨0x1c00108 + 0x100 * p, 8, 4, 0⟩
def CHL_STATUS_MASTER_CONFLICT (p : Nat) : Fld := ⟨0x1c00108 + 0x100 * p, 12, 1, 0⟩
def CHL_ASYM_ASYM (p : Nat) : Fld := ⟨0x1c00110 + 0x100 * p, 0, 24, 0⟩
def CHL_TIME_PATH (p : Nat) : Fld := ⟨0x1c00118 + 0x100 * p, 0, 32, 0⟩
def CHL_TIME_ERR (p : Nat) : Fld := ⟨0x1c00118 + 0x100 * p, 32, 32, 0⟩
def CHL_ERR_CRC_ERR (p : Nat) : Fld := ⟨0x1c00120 + 0x100 * p, 0, 16, 0⟩
def CHL_ERR_RETX (p : Nat) : Fld := ⟨0x1c00120 + 0x100 * p, 16, 16, 0⟩
def CHL_ERR_LOCK_LOSS (p : Nat) : Fld := ⟨0x1c00120 + 0x100 * p, 32, 16, 0⟩
def CHL_ERR_UNCERTAIN (p : Nat) : Fld := ⟨0x1c00120 + 0x100 * p, 48, 16, 0⟩
def CHL_SMP_SMP_DROP (p : Nat) : Fld := ⟨0x1c00128 + 0x100 * p, 0, 16, 0⟩
def CHL_SMP_LATE (p : Nat) : Fld := ⟨0x1c00128 + 0x100 * p, 16, 16, 0⟩
def CHL_SMP_MISSING (p : Nat) : Fld := ⟨0x1c00128 + 0x100 * p, 32, 16, 0⟩
def CHL_SMP_CONFLICT (p : Nat) : Fld := ⟨0x1c00128 + 0x100 * p, 48, 16, 0⟩
def CHL_HEAD_HEADROOM (p : Nat) : Fld := ⟨0x1c00130 + 0x100 * p, 0, 32, 0x7fffffff⟩
def CHL_TXCMD_SLOT (p : Nat) : Fld := ⟨0x1c00138 + 0x100 * p, 0, 4, 0⟩
def CHL_TXCMD_LEN (p : Nat) : Fld := ⟨0x1c00138 + 0x100 * p, 8, 6, 0⟩
def CHL_TXCMD_SEND (p : Nat) : Fld := ⟨0x1c00138 + 0x100 * p, 16, 1, 0⟩
def CHL_TXCMD_CANCEL (p : Nat) : Fld := ⟨0x1c00138 + 0x100 * p, 17, 1, 0⟩
def CHL_TXSTAT_SLOT_STATE (p : Nat) : Fld := ⟨0x1c00140 + 0x100 * p, 0, 48, 0⟩
def CHL_TXSTAT_CANCEL_RES (p : Nat) : Fld := ⟨0x1c00140 + 0x100 * p, 48, 2, 0⟩
def CHL_RXQ_HEAD (p : Nat) : Fld := ⟨0x1c00148 + 0x100 * p, 0, 4, 0⟩
def CHL_RXQ_COUNT (p : Nat) : Fld := ⟨0x1c00148 + 0x100 * p, 4, 5, 0⟩
def CHL_RXQ_LEN (p : Nat) : Fld := ⟨0x1c00148 + 0x100 * p, 16, 6, 0⟩
def CHL_RXQ_RESUME (p : Nat) : Fld := ⟨0x1c00148 + 0x100 * p, 22, 1, 0⟩
def CHL_RXQ_POP (p : Nat) : Fld := ⟨0x1c00148 + 0x100 * p, 24, 1, 0⟩
def CHL_INT_STATUS_STATE_CHG (p : Nat) : Fld := ⟨0x1c00150 + 0x100 * p, 0, 1, 0⟩
def CHL_INT_STATUS_TX_DONE (p : Nat) : Fld := ⟨0x1c00150 + 0x100 * p, 1, 1, 0⟩
def CHL_INT_STATUS_TX_UNCERTAIN (p : Nat) : Fld := ⟨0x1c00150 + 0x100 * p, 2, 1, 0⟩
def CHL_INT_STATUS_CANCEL_LATE (p : Nat) : Fld := ⟨0x1c00150 + 0x100 * p, 3, 1, 0⟩
def CHL_INT_STATUS_RX_MSG (p : Nat) : Fld := ⟨0x1c00150 + 0x100 * p, 4, 1, 0⟩
def CHL_INT_STATUS_STOP_RX (p : Nat) : Fld := ⟨0x1c00150 + 0x100 * p, 5, 1, 0⟩
def CHL_INT_STATUS_SMP_LOSS (p : Nat) : Fld := ⟨0x1c00150 + 0x100 * p, 6, 1, 0⟩
def CHL_INT_STATUS_PLACE_ERR (p : Nat) : Fld := ⟨0x1c00150 + 0x100 * p, 7, 1, 0⟩
def CHL_INT_STATUS_NO_INJ (p : Nat) : Fld := ⟨0x1c00150 + 0x100 * p, 8, 1, 0⟩
def CHL_INT_STATUS_LOOP (p : Nat) : Fld := ⟨0x1c00150 + 0x100 * p, 9, 1, 0⟩
def CHL_INT_STATUS_MASTER_CONFLICT (p : Nat) : Fld := ⟨0x1c00150 + 0x100 * p, 10, 1, 0⟩
def CHL_INT_STATUS_CONFLICT (p : Nat) : Fld := ⟨0x1c00150 + 0x100 * p, 11, 1, 0⟩
def CHL_INT_EN_EN (p : Nat) : Fld := ⟨0x1c00158 + 0x100 * p, 0, 12, 0⟩
def CHL_RXSTR_INJECT (p : Nat) (s : Nat) : Fld := ⟨0x1c01000 + 0x800 * p + 8 * s, 0, 1, 0⟩
def CHL_RXSTR_FWD (p : Nat) (s : Nat) : Fld := ⟨0x1c01000 + 0x800 * p + 8 * s, 1, 1, 0⟩
def CHL_RXSTR_SPEC_INV (p : Nat) (s : Nat) : Fld := ⟨0x1c01000 + 0x800 * p + 8 * s, 2, 1, 0⟩
def CHL_RXSTR_LANES (p : Nat) (s : Nat) : Fld := ⟨0x1c01000 + 0x800 * p + 8 * s, 4, 8, 0⟩
def CHL_RXSTR_SUB_FIRST (p : Nat) (s : Nat) : Fld := ⟨0x1c01000 + 0x800 * p + 8 * s, 12, 9, 0⟩
def CHL_RXSTR_SUB_LAST (p : Nat) (s : Nat) : Fld := ⟨0x1c01000 + 0x800 * p + 8 * s, 21, 9, 0⟩
def CHL_RXSTR_FC_FOLD (p : Nat) (s : Nat) : Fld := ⟨0x1c01000 + 0x800 * p + 8 * s, 30, 30, 0⟩
def CHL_TXBUF_DATA (p : Nat) (w : Nat) : Fld := ⟨0x1c02000 + 0x1000 * p + 8 * w, 0, 64, 0⟩
def CHL_RXBUF_DATA (p : Nat) (w : Nat) : Fld := ⟨0x1c04000 + 0x1000 * p + 8 * w, 0, 64, 0⟩
def CHL_RXACT_ACTIVE (p : Nat) (j : Nat) : Fld := ⟨0x1c06000 + 0x20 * p + 8 * j, 0, 64, 0⟩

/-! Fields of the SEC registers (20_security.md R419). -/
def SEC_STATUS_SELFTEST_DONE : Fld := ⟨0x1d00000, 0, 1, 0⟩
def SEC_STATUS_KAT_FAIL : Fld := ⟨0x1d00000, 1, 1, 0⟩
/-- A fuse without a stated value. -/
def SEC_STATUS_TEST_LOCK : Fld := ⟨0x1d00000, 2, 1, 1⟩
def SEC_STATUS_JTAG_STOP : Fld := ⟨0x1d00000, 3, 1, 0⟩
def SEC_KEY_CMD_SLOT : Fld := ⟨0x1d00008, 0, 4, 0⟩
def SEC_KEY_CMD_OP : Fld := ⟨0x1d00008, 8, 2, 0⟩
def SEC_KEY_STATUS_RESULT : Fld := ⟨0x1d00010, 0, 4, 0⟩
def SEC_KEY_STATUS_SLOT : Fld := ⟨0x1d00010, 4, 4, 0⟩
def SEC_KEY_STATUS_OP : Fld := ⟨0x1d00010, 8, 2, 0⟩
def SEC_KEY_VALID_VALID : Fld := ⟨0x1d00018, 0, 9, 0⟩
def SEC_KEY_VALID_LOCKED : Fld := ⟨0x1d00018, 16, 9, 0⟩
def SEC_KEY_STAGE_HASH (j : Nat) : Fld := ⟨0x1d00020 + 8 * j, 0, 64, 0⟩
def SEC_KEY_HASH (f : Nat) (j : Nat) : Fld := ⟨0x1d00100 + 0x20 * f + 8 * j, 0, 64, 0⟩
def SEC_IDCODE_IDCODE : Fld := ⟨0x1d00300, 0, 32, 0x188485B3⟩

/-! Fields of the PWR registers (21_power_reset_startup.md R433). -/
def PWR_STATUS_BOOT_DONE : Fld := ⟨0x1e00000, 0, 1, 0⟩
def PWR_STATUS_RET_VALID : Fld := ⟨0x1e00000, 1, 1, 0⟩
def PWR_STATUS_LAST_RESET : Fld := ⟨0x1e00000, 2, 2, 0⟩
def PWR_STATUS_VBAT_OK : Fld := ⟨0x1e00000, 4, 1, 0⟩
def PWR_STATUS_VIO_3V3 : Fld := ⟨0x1e00000, 5, 1, 0⟩
def PWR_STATUS_PERST_LEVEL : Fld := ⟨0x1e00000, 6, 1, 1⟩
def PWR_STATUS_SER_GOOD : Fld := ⟨0x1e00000, 8, 1, 0⟩
def PWR_STATUS_CNV_D_GOOD : Fld := ⟨0x1e00000, 9, 1, 0⟩
def PWR_STATUS_CNV_S_GOOD : Fld := ⟨0x1e00000, 10, 1, 0⟩
def PWR_RST_WARM : Fld := ⟨0x1e00008, 0, 1, 0⟩
def PWR_RST_KEY : Fld := ⟨0x1e00008, 8, 8, 0⟩
def PWR_COUNT_COLD : Fld := ⟨0x1e00010, 0, 16, 0⟩
def PWR_COUNT_WARM : Fld := ⟨0x1e00010, 16, 16, 0⟩
def PWR_COUNT_RET_LOST : Fld := ⟨0x1e00010, 32, 16, 0⟩
def PWR_SLEEP_ENTER : Fld := ⟨0x1e00018, 0, 1, 0⟩
def PWR_SLEEP_STATE : Fld := ⟨0x1e00018, 1, 1, 0⟩
def PWR_SLEEP_REFUSED : Fld := ⟨0x1e00018, 8, 4, 0⟩
def PWR_WAKE_CAUSE : Fld := ⟨0x1e00020, 0, 2, 0⟩
def PWR_WAKE_NUM : Fld := ⟨0x1e00020, 16, 11, 0⟩
def PWR_INT_STATUS_RAIL_FAIL : Fld := ⟨0x1e00028, 0, 1, 0⟩
def PWR_INT_STATUS_RAIL_GOOD : Fld := ⟨0x1e00028, 1, 1, 0⟩
def PWR_INT_STATUS_VBAT_LOW : Fld := ⟨0x1e00028, 2, 1, 0⟩
def PWR_INT_STATUS_WAKE : Fld := ⟨0x1e00028, 3, 1, 0⟩
def PWR_INT_STATUS_SLEEP_REFUSED : Fld := ⟨0x1e00028, 4, 1, 0⟩
def PWR_INT_STATUS_RET_LOST : Fld := ⟨0x1e00028, 5, 1, 0⟩
def PWR_INT_EN_EN : Fld := ⟨0x1e00030, 0, 6, 0⟩

end F

/-- The registers of the WG block. -/
def regRowsWG : List RegRow := [
  ⟨0x1200000, [(0, 4, 0x1000)], fun n _ _ => [
    ⟨(F.WG_ID_WING n), .ro, 0, 3⟩,
    ⟨(F.WG_ID_DIR n), .ro, 0, 1⟩]⟩,
  ⟨0x1200008, [(0, 4, 0x1000)], fun n _ _ => [
    ⟨(F.WG_SHARE_SHARE_MHZ n), .ro, 0, 2047⟩]⟩,
  ⟨0x1200010, [(0, 4, 0x1000)], fun n _ _ => [
    ⟨(F.WG_BUDGET_TX_BUDGET n), .rwp, 0, 65535⟩]⟩,
  ⟨0x1200018, [(0, 4, 0x1000)], fun n _ _ => [
    ⟨(F.WG_THSTEP_STEP n), .ro, 0, 7⟩,
    ⟨(F.WG_THSTEP_STEP_CUT n), .ro, 0, 65535⟩]⟩,
  ⟨0x1200020, [(0, 4, 0x1000)], fun n _ _ => [
    ⟨(F.WG_LIMIT_EFF_LIMIT n), .ro, 0, 65535⟩]⟩,
  ⟨0x1200028, [(0, 4, 0x1000)], fun n _ _ => [
    ⟨(F.WG_MEAS_TX_SUM n), .ro, 0, 65535⟩,
    ⟨(F.WG_MEAS_OVER n), .w1c, 0, 1⟩]⟩,
  ⟨0x1204000, [], fun _ _ _ => [
    ⟨F.WG_PKG_LIMIT_DONOR_LIMIT, .rwp, 0, 65535⟩,
    ⟨F.WG_PKG_LIMIT_SERVICE_LIMIT, .rwp, 0, 65535⟩]⟩,
  ⟨0x1204008, [], fun _ _ _ => [
    ⟨F.WG_PKG_MEAS_DONOR_SUM, .ro, 0, 65535⟩,
    ⟨F.WG_PKG_MEAS_SERVICE_SUM, .ro, 0, 65535⟩]⟩]

/-- The registers of the TOP block. -/
def regRowsTOP : List RegRow := [
  ⟨0x0, [], fun _ _ _ => [
    ⟨F.TOP_IDENT_DEVICE, .ro, 0, 65535⟩,
    ⟨F.TOP_IDENT_REV_MAJOR, .ro, 0, 15⟩,
    ⟨F.TOP_IDENT_REV_MINOR, .ro, 0, 15⟩,
    ⟨F.TOP_IDENT_IMG_FMT, .ro, 0, 65535⟩]⟩,
  ⟨0x8, [], fun _ _ _ => [
    ⟨F.TOP_IMG_CTRL_SOURCE, .rw, 0, 1⟩,
    ⟨F.TOP_IMG_CTRL_START, .wo, 0, 1⟩,
    ⟨F.TOP_IMG_CTRL_ABORT, .wo, 0, 1⟩,
    ⟨F.TOP_IMG_CTRL_CLEAR, .wo, 0, 1⟩,
    ⟨F.TOP_IMG_CTRL_HASH_REQ, .wo, 0, 1⟩]⟩,
  ⟨0x10, [], fun _ _ _ => [
    ⟨F.TOP_IMG_STATUS_STATE, .ro, 0, 7⟩,
    ⟨F.TOP_IMG_STATUS_CAUSE, .ro, 0, 15⟩,
    ⟨F.TOP_IMG_STATUS_RESOLVED, .ro, 0, 1⟩,
    ⟨F.TOP_IMG_STATUS_HASH_BUSY, .ro, 0, 1⟩,
    ⟨F.TOP_IMG_STATUS_HASH_VALID, .ro, 0, 1⟩,
    ⟨F.TOP_IMG_STATUS_PLANNED, .ro, 0, 1⟩,
    ⟨F.TOP_IMG_STATUS_PORT_DROP, .w1c, 0, 1⟩]⟩,
  ⟨0x18, [], fun _ _ _ => [
    ⟨F.TOP_IMG_COUNT_WORDS, .ro, 0, 0xffffff⟩,
    ⟨F.TOP_IMG_COUNT_WRITES, .ro, 0, 65535⟩,
    ⟨F.TOP_IMG_COUNT_DISCARDED, .ro, 0, 65535⟩]⟩,
  ⟨0x20, [], fun _ _ _ => [
    ⟨F.TOP_IMG_FLASH_BASE, .rw, 0, 0xffffffff⟩,
    ⟨F.TOP_IMG_FLASH_MAX_KIB, .rw, 0, 4095⟩,
    ⟨F.TOP_IMG_FLASH_DUMMY, .rw, 0, 31⟩,
    ⟨F.TOP_IMG_FLASH_MODE, .rw, 0, 1⟩]⟩,
  ⟨0x28, [], fun _ _ _ => [
    ⟨F.TOP_IMG_PORT_WORD_LO, .wo, 0, 0xffffffff⟩,
    ⟨F.TOP_IMG_PORT_WORD_HI, .wo, 0, 0xffffffff⟩]⟩,
  ⟨0x30, [], fun _ _ _ => [
    ⟨F.TOP_STRUCT_ADDR_INDEX, .rw, 0, 4095⟩,
    ⟨F.TOP_STRUCT_ADDR_AUTOINC, .rw, 0, 1⟩]⟩,
  ⟨0x38, [], fun _ _ _ => [
    ⟨F.TOP_STRUCT_DATA_DATA_LO, .ro, 0, 0xffffffff⟩,
    ⟨F.TOP_STRUCT_DATA_DATA_HI, .ro, 0, 0xffffffff⟩]⟩,
  ⟨0x40, [], fun _ _ _ => [
    ⟨F.TOP_ROUTED_LO_SQ_A, .ro, 0, 0xffffffff⟩,
    ⟨F.TOP_ROUTED_LO_SQ_B, .ro, 0, 0xffffffff⟩]⟩,
  ⟨0x48, [], fun _ _ _ => [
    ⟨F.TOP_ROUTED_HI_SQ_C, .ro, 0, 0xffffffff⟩,
    ⟨F.TOP_ROUTED_HI_SQ_D, .ro, 0, 0xffffffff⟩]⟩,
  ⟨0x50, [(0, 4, 0x8)], fun j _ _ => [
    ⟨(F.TOP_HASH_DIGEST_LO j), .ro, 0, 0xffffffff⟩,
    ⟨(F.TOP_HASH_DIGEST_HI j), .ro, 0, 0xffffffff⟩]⟩]

/-- The registers of the AIR block. -/
def regRowsAIR : List RegRow := [
  ⟨0x100000, [], fun _ _ _ => [
    ⟨F.AIR_CTRL_SOURCE, .rw, 0, 3⟩,
    ⟨F.AIR_CTRL_CHL_PORT, .rw, 0, 1⟩,
    ⟨F.AIR_CTRL_RAT, .rw, 0, 1⟩,
    ⟨F.AIR_CTRL_MU, .rw, 0, 2⟩,
    ⟨F.AIR_CTRL_ECP, .rw, 0, 1⟩,
    ⟨F.AIR_CTRL_PPS_OUT_EN, .rw, 0, 1⟩,
    ⟨F.AIR_CTRL_SYNC_OUT_EN, .rw, 0, 1⟩,
    ⟨F.AIR_CTRL_RESTART, .wo, 0, 1⟩]⟩,
  ⟨0x100008, [], fun _ _ _ => [
    ⟨F.AIR_CELL_PCI, .rw, 0, 1023⟩,
    ⟨F.AIR_CELL_BAND_IDX, .rw, 0, 7⟩,
    ⟨F.AIR_CELL_LANE, .rw, 0, 7⟩,
    ⟨F.AIR_CELL_SSB_CASE, .rw, 0, 2⟩,
    ⟨F.AIR_CELL_SSB_PERIOD, .rw, 0, 5⟩,
    ⟨F.AIR_CELL_DET_THR, .rw, 0, 15⟩,
    ⟨F.AIR_CELL_SSB_FREQ, .rw, 0, 0xffffffff⟩]⟩,
  ⟨0x100010, [], fun _ _ _ => [
    ⟨F.AIR_TIMING_HOLD_MS, .rw, 1, 65535⟩,
    ⟨F.AIR_TIMING_LOCK_COUNT, .rw, 1, 15⟩,
    ⟨F.AIR_TIMING_HOLDOVER_MS, .rw, 0, 65535⟩]⟩,
  ⟨0x100018, [], fun _ _ _ => [
    ⟨F.AIR_WIN_LOCK_WIN, .rw, 1, 65535⟩,
    ⟨F.AIR_WIN_SLEW_WIN, .rw, 1, 65535⟩]⟩,
  ⟨0x100020, [], fun _ _ _ => [
    ⟨F.AIR_EXT_EXT_DELAY, .rw, 0, 0xffffff⟩,
    ⟨F.AIR_EXT_PPS_POL, .rw, 0, 1⟩,
    ⟨F.AIR_EXT_SYNC_POL, .rw, 0, 1⟩]⟩,
  ⟨0x100028, [], fun _ _ _ => [
    ⟨F.AIR_STATUS_STATE, .ro, 0, 3⟩,
    ⟨F.AIR_STATUS_COAST, .ro, 0, 1⟩,
    ⟨F.AIR_STATUS_SLEWING, .ro, 0, 1⟩,
    ⟨F.AIR_STATUS_HELD, .ro, 0, 1⟩,
    ⟨F.AIR_STATUS_CFG_ERR, .ro, 0, 1⟩,
    ⟨F.AIR_STATUS_MASTER_STATE, .ro, 0, 3⟩,
    ⟨F.AIR_STATUS_STEPS, .ro, 0, 255⟩,
    ⟨F.AIR_STATUS_LAST_ERR, .ro, 0, 65535⟩]⟩,
  ⟨0x100030, [], fun _ _ _ => [
    ⟨F.AIR_TRIM_TRIM, .ro, 0, 0xffffffff⟩]⟩,
  ⟨0x100038, [], fun _ _ _ => [
    ⟨F.AIR_AT_AT, .ro, 0, 0xffffffffffffffff⟩]⟩,
  ⟨0x100040, [], fun _ _ _ => [
    ⟨F.AIR_POS_SFN, .ro, 0, 1023⟩,
    ⟨F.AIR_POS_SLOT, .ro, 0, 63⟩,
    ⟨F.AIR_POS_SYMBOL, .ro, 0, 15⟩]⟩,
  ⟨0x100048, [], fun _ _ _ => [
    ⟨F.AIR_EPOCH_EPOCH, .rw, 0, 0xffffffff⟩]⟩,
  ⟨0x100050, [], fun _ _ _ => [
    ⟨F.AIR_SCHED_CNT_LATE, .rc, 0, 65535⟩,
    ⟨F.AIR_SCHED_CNT_SKIPPED, .rc, 0, 65535⟩,
    ⟨F.AIR_SCHED_CNT_DROPPED, .rc, 0, 65535⟩,
    ⟨F.AIR_SCHED_CNT_REJECTED, .rc, 0, 65535⟩]⟩,
  ⟨0x100058, [], fun _ _ _ => [
    ⟨F.AIR_INT_STATUS_STATE_CHG, .w1c, 0, 1⟩,
    ⟨F.AIR_INT_STATUS_SCHED_EXC, .w1c, 0, 1⟩,
    ⟨F.AIR_INT_STATUS_STEP, .w1c, 0, 1⟩,
    ⟨F.AIR_INT_STATUS_CFG_ERR, .w1c, 0, 1⟩,
    ⟨F.AIR_INT_STATUS_MARK, .w1c, 0, 65535⟩]⟩,
  ⟨0x100060, [], fun _ _ _ => [
    ⟨F.AIR_INT_EN_EN, .rw, 0, 0xfffff⟩]⟩,
  ⟨0x100080, [(0, 8, 0x8)], fun b _ _ => [
    ⟨(F.AIR_BAND_BAND b), .rw, 0, 1023⟩,
    ⟨(F.AIR_BAND_RAT b), .rw, 0, 1⟩,
    ⟨(F.AIR_BAND_DUPLEX b), .rw, 0, 1⟩,
    ⟨(F.AIR_BAND_DL_LO b), .rw, 0, 0x1ffff⟩,
    ⟨(F.AIR_BAND_DL_HI b), .rw, 0, 0x1ffff⟩]⟩,
  ⟨0x101000, [(0, 1024, 0x10)], fun i _ _ => [
    ⟨(F.AIR_SCHED_W0_WORD i), .rw, 0, 0xffffffffffffffff⟩]⟩,
  ⟨0x101008, [(0, 1024, 0x10)], fun i _ _ => [
    ⟨(F.AIR_SCHED_W1_WORD i), .rw, 0, 0xffffffffffffffff⟩]⟩]

/-- The registers of the CNV block. -/
def regRowsCNV : List RegRow := [
  ⟨0x200000, [(0, 2, 0x100000)], fun d _ _ => [
    ⟨(F.CNV_ID_DIE d), .ro, 0, 1⟩]⟩,
  ⟨0x200008, [(0, 2, 0x100000)], fun d _ _ => [
    ⟨(F.CNV_CTRL_POWER_EN d), .rw, 0, 1⟩,
    ⟨(F.CNV_CTRL_RECAL d), .wo, 0, 1⟩,
    ⟨(F.CNV_CTRL_BG_OG d), .rw, 0, 1⟩,
    ⟨(F.CNV_CTRL_AUTO_SKEW d), .rw, 0, 1⟩]⟩,
  ⟨0x200010, [(0, 2, 0x100000)], fun d _ _ => [
    ⟨(F.CNV_CLK_RATE_K d), .rw, 250000, 0x493e0⟩,
    ⟨(F.CNV_CLK_REF_SEL d), .rw, 0, 1⟩]⟩,
  ⟨0x200018, [(0, 2, 0x100000)], fun d _ _ => [
    ⟨(F.CNV_STATUS_STATE d), .ro, 0, 7⟩,
    ⟨(F.CNV_STATUS_CKM_LOCK d), .ro, 0, 1⟩,
    ⟨(F.CNV_STATUS_SYN1_LOCK d), .ro, 0, 1⟩,
    ⟨(F.CNV_STATUS_SYN2_LOCK d), .ro, 0, 1⟩,
    ⟨(F.CNV_STATUS_PERMIT d), .ro, 0, 1⟩,
    ⟨(F.CNV_STATUS_STALE d), .ro, 0, 1⟩,
    ⟨(F.CNV_STATUS_CKM_FAIL d), .ro, 0, 1⟩,
    ⟨(F.CNV_STATUS_BAND d), .ro, 0, 7⟩]⟩,
  ⟨0x200020, [(0, 2, 0x100000), (0, 2, 0x8)], fun d k _ => [
    ⟨(F.CNV_SYN_N d k), .rw, 0, 63⟩,
    ⟨(F.CNV_SYN_F d k), .rw, 0, 0xffffff⟩,
    ⟨(F.CNV_SYN_EN d k), .rw, 0, 1⟩]⟩,
  ⟨0x200040, [(0, 2, 0x100000), (0, 8, 0x8)], fun d l _ => [
    ⟨(F.CNV_LANE_RX_PATH d l), .rw, 0, 2⟩,
    ⟨(F.CNV_LANE_TX_PATH d l), .rw, 0, 3⟩,
    ⟨(F.CNV_LANE_LO_SEL d l), .rw, 0, 1⟩,
    ⟨(F.CNV_LANE_ONLINE d l), .rw, 0, 1⟩,
    ⟨(F.CNV_LANE_OVL_COUNT d l), .rc, 0, 65535⟩]⟩,
  ⟨0x200080, [(0, 2, 0x100000)], fun d _ _ => [
    ⟨(F.CNV_CAL_STATUS_ACTIVE_TYPE d), .ro, 0, 15⟩,
    ⟨(F.CNV_CAL_STATUS_ACTIVE_LANES d), .ro, 0, 255⟩,
    ⟨(F.CNV_CAL_STATUS_LAST_TYPE d), .ro, 0, 15⟩,
    ⟨(F.CNV_CAL_STATUS_LAST_LANES d), .ro, 0, 255⟩,
    ⟨(F.CNV_CAL_STATUS_REFUSED d), .rc, 0, 65535⟩]⟩,
  ⟨0x200088, [(0, 2, 0x100000)], fun d _ _ => [
    ⟨(F.CNV_CAL_PROG_STEPS d), .ro, 0, 0xffffffffff⟩]⟩,
  ⟨0x200090, [(0, 2, 0x100000)], fun d _ _ => [
    ⟨(F.CNV_CAL_MASK_LANES d), .ro, 0, 0xffffffffff⟩]⟩,
  ⟨0x200098, [(0, 2, 0x100000)], fun d _ _ => [
    ⟨(F.CNV_CAL_CFG_IRR_MIN d), .rw, 0, 65535⟩]⟩,
  ⟨0x2000a0, [(0, 2, 0x100000), (0, 8, 0x8)], fun d l _ => [
    ⟨(F.CNV_IRR_RX_REJ d l), .ro, 0, 65535⟩,
    ⟨(F.CNV_IRR_TX_REJ d l), .ro, 0, 65535⟩,
    ⟨(F.CNV_IRR_TX_LOL d l), .ro, 0, 65535⟩,
    ⟨(F.CNV_IRR_RX_VALID d l), .ro, 0, 1⟩,
    ⟨(F.CNV_IRR_TX_VALID d l), .ro, 0, 1⟩]⟩,
  ⟨0x2000e0, [(0, 2, 0x100000), (0, 8, 0x8)], fun d l _ => [
    ⟨(F.CNV_IQCORR_RX_GAIN d l), .ro, 0, 65535⟩,
    ⟨(F.CNV_IQCORR_RX_PHASE d l), .ro, 0, 65535⟩,
    ⟨(F.CNV_IQCORR_TX_GAIN d l), .ro, 0, 65535⟩,
    ⟨(F.CNV_IQCORR_TX_PHASE d l), .ro, 0, 65535⟩]⟩,
  ⟨0x200120, [(0, 2, 0x100000)], fun d _ _ => [
    ⟨(F.CNV_SKEW_VALID_VALID d), .rw, 0, 0xffffffffffff⟩]⟩,
  ⟨0x200128, [(0, 2, 0x100000)], fun d _ _ => [
    ⟨(F.CNV_INT_STATUS_STATE_CHG d), .w1c, 0, 1⟩,
    ⟨(F.CNV_INT_STATUS_SYN_UNLOCK d), .w1c, 0, 1⟩,
    ⟨(F.CNV_INT_STATUS_CAL_DONE d), .w1c, 0, 1⟩,
    ⟨(F.CNV_INT_STATUS_CAL_REFUSED d), .w1c, 0, 1⟩,
    ⟨(F.CNV_INT_STATUS_IRR_LOW d), .w1c, 0, 1⟩,
    ⟨(F.CNV_INT_STATUS_OVERLOAD d), .w1c, 0, 1⟩,
    ⟨(F.CNV_INT_STATUS_LANE_REFUSED d), .w1c, 0, 1⟩,
    ⟨(F.CNV_INT_STATUS_RETUNE_REFUSED d), .w1c, 0, 1⟩,
    ⟨(F.CNV_INT_STATUS_SKEW_STALE d), .w1c, 0, 1⟩,
    ⟨(F.CNV_INT_STATUS_RATE_MISMATCH d), .w1c, 0, 1⟩]⟩,
  ⟨0x200130, [(0, 2, 0x100000)], fun d _ _ => [
    ⟨(F.CNV_INT_EN_EN d), .rw, 0, 1023⟩]⟩,
  ⟨0x202000, [(0, 2, 0x100000), (0, 8, 0x80), (0, 6, 0x10)], fun d l b => [
    ⟨(F.CNV_SKEW_W0_SK0 d l b), .rw, 0, 65535⟩,
    ⟨(F.CNV_SKEW_W0_SK1 d l b), .rw, 0, 65535⟩,
    ⟨(F.CNV_SKEW_W0_SK2 d l b), .rw, 0, 65535⟩,
    ⟨(F.CNV_SKEW_W0_SK3 d l b), .rw, 0, 65535⟩]⟩,
  ⟨0x202008, [(0, 2, 0x100000), (0, 8, 0x80), (0, 6, 0x10)], fun d l b => [
    ⟨(F.CNV_SKEW_W1_SK4 d l b), .rw, 0, 65535⟩,
    ⟨(F.CNV_SKEW_W1_SK5 d l b), .rw, 0, 65535⟩,
    ⟨(F.CNV_SKEW_W1_SK6 d l b), .rw, 0, 65535⟩,
    ⟨(F.CNV_SKEW_W1_SK7 d l b), .rw, 0, 65535⟩]⟩]

/-- The registers of the RFC block. -/
def regRowsRFC : List RegRow := [
  ⟨0x400000, [], fun _ _ _ => [
    ⟨F.RFC_TR_SAFE0_SAFE, .rw, 0, 0xffffffffffffffff⟩]⟩,
  ⟨0x400008, [], fun _ _ _ => [
    ⟨F.RFC_TR_SAFE1_SAFE, .rw, 0, 0xffffffff⟩]⟩,
  ⟨0x400010, [], fun _ _ _ => [
    ⟨F.RFC_TR_LEVEL_LEVEL, .ro, 0, 0xffffffffffff⟩]⟩,
  ⟨0x400018, [], fun _ _ _ => [
    ⟨F.RFC_TR_DRIVEN_DRIVEN, .ro, 0, 0xffffffffffff⟩]⟩,
  ⟨0x400020, [], fun _ _ _ => [
    ⟨F.RFC_TR_SET_SET, .wo, 0, 0xffffffffffff⟩]⟩,
  ⟨0x400028, [], fun _ _ _ => [
    ⟨F.RFC_TR_CLR_CLR, .wo, 0, 0xffffffffffff⟩]⟩,
  ⟨0x400040, [(0, 16, 0x8)], fun l _ _ => [
    ⟨(F.RFC_CHAIN_TX_GAIN l), .rwp, 0, 65535⟩,
    ⟨(F.RFC_CHAIN_RX_GAIN l), .rw, 0, 65535⟩]⟩,
  ⟨0x400200, [(0, 6, 0x20)], fun m _ _ => [
    ⟨(F.RFC_RFFE_CFG_DIV m), .rw, 3, 63⟩,
    ⟨(F.RFC_RFFE_CFG_HS_READ m), .rw, 0, 1⟩,
    ⟨(F.RFC_RFFE_CFG_EN m), .rw, 0, 1⟩]⟩,
  ⟨0x400208, [(0, 6, 0x20)], fun m _ _ => [
    ⟨(F.RFC_RFFE_CMD_OP m), .wo, 0, 15⟩,
    ⟨(F.RFC_RFFE_CMD_USID m), .wo, 0, 15⟩,
    ⟨(F.RFC_RFFE_CMD_ADDR m), .wo, 0, 65535⟩,
    ⟨(F.RFC_RFFE_CMD_BYTES m), .wo, 0, 3⟩,
    ⟨(F.RFC_RFFE_CMD_DATA m), .wo, 0, 0xffffffff⟩]⟩,
  ⟨0x400210, [(0, 6, 0x20)], fun m _ _ => [
    ⟨(F.RFC_RFFE_RESULT_DATA m), .rc, 0, 0xffffffff⟩,
    ⟨(F.RFC_RFFE_RESULT_VALID m), .rc, 0, 1⟩,
    ⟨(F.RFC_RFFE_RESULT_PARITY_ERR m), .rc, 0, 1⟩,
    ⟨(F.RFC_RFFE_RESULT_FLUSHED m), .rc, 0, 1⟩,
    ⟨(F.RFC_RFFE_RESULT_OP m), .rc, 0, 15⟩]⟩,
  ⟨0x400218, [(0, 6, 0x20)], fun m _ _ => [
    ⟨(F.RFC_RFFE_STATUS_CMD_DEPTH m), .ro, 0, 63⟩,
    ⟨(F.RFC_RFFE_STATUS_RES_DEPTH m), .ro, 0, 63⟩,
    ⟨(F.RFC_RFFE_STATUS_BUSY m), .ro, 0, 1⟩,
    ⟨(F.RFC_RFFE_STATUS_OVERFLOW m), .w1c, 0, 1⟩]⟩,
  ⟨0x400300, [], fun _ _ _ => [
    ⟨F.RFC_INT_STATUS_DONE, .w1c, 0, 63⟩,
    ⟨F.RFC_INT_STATUS_ERR, .w1c, 0, 63⟩,
    ⟨F.RFC_INT_STATUS_FLUSH, .w1c, 0, 63⟩]⟩,
  ⟨0x400308, [], fun _ _ _ => [
    ⟨F.RFC_INT_EN_EN, .rw, 0, 0x3fffff⟩]⟩]

/-- The registers of the SQ block. -/
def regRowsSQ : List RegRow := [
  ⟨0x1000000, [(0, 128, 0x1000)], fun n _ _ => [
    ⟨(F.SQ_ID_SQ n), .ro, 0, 127⟩,
    ⟨(F.SQ_ID_DIR n), .ro, 0, 1⟩,
    ⟨(F.SQ_ID_RANK n), .ro, 0, 15⟩,
    ⟨(F.SQ_ID_WING n), .ro, 0, 3⟩,
    ⟨(F.SQ_ID_ROUTED n), .ro, 0, 1⟩,
    ⟨(F.SQ_ID_BOND_SIZE n), .ro, 0, 7⟩,
    ⟨(F.SQ_ID_BOND_POS n), .ro, 0, 3⟩,
    ⟨(F.SQ_ID_PAIRED n), .ro, 0, 1⟩,
    ⟨(F.SQ_ID_PAIR_SQ n), .ro, 0, 127⟩]⟩,
  ⟨0x1000008, [(0, 128, 0x1000)], fun n _ _ => [
    ⟨(F.SQ_CTRL_ENABLE n), .rwp, 0, 1⟩,
    ⟨(F.SQ_CTRL_GAIN_MODE n), .rwp, 0, 1⟩,
    ⟨(F.SQ_CTRL_FIR_BANK n), .rwp, 0, 1⟩]⟩,
  ⟨0x1000010, [(0, 128, 0x1000)], fun n _ _ => [
    ⟨(F.SQ_FREQ_RX_FC_FOLD n), .rwp, 0, 0x3fffffff⟩,
    ⟨(F.SQ_FREQ_RX_SPEC_INV n), .rwp, 0, 1⟩]⟩,
  ⟨0x1000018, [(0, 128, 0x1000)], fun n _ _ => [
    ⟨(F.SQ_FREQ_TX_FC_FOLD n), .rwp, 0, 0x3fffffff⟩,
    ⟨(F.SQ_FREQ_TX_SPEC_INV n), .rwp, 0, 1⟩,
    ⟨(F.SQ_FREQ_TX_TX_SUB_OFS n), .rwp, 0, 1023⟩]⟩,
  ⟨0x1000020, [(0, 128, 0x1000)], fun n _ _ => [
    ⟨(F.SQ_GAIN_G_FIXED n), .rwp, 0, 65535⟩,
    ⟨(F.SQ_GAIN_G_MIN n), .rwp, 0, 65535⟩,
    ⟨(F.SQ_GAIN_G_MAX n), .rwp, 0, 65535⟩]⟩,
  ⟨0x1000030, [(0, 128, 0x1000)], fun n _ _ => [
    ⟨(F.SQ_DET_CFG_FINE_K n), .rwp, 0, 7⟩]⟩,
  ⟨0x1000038, [(0, 128, 0x1000)], fun n _ _ => [
    ⟨(F.SQ_STATUS_STATE n), .ro, 0, 7⟩,
    ⟨(F.SQ_STATUS_MS_FAULT n), .ro, 0, 1⟩,
    ⟨(F.SQ_STATUS_MS_GROUP n), .ro, 0, 1⟩,
    ⟨(F.SQ_STATUS_MS_RANK n), .ro, 0, 1⟩,
    ⟨(F.SQ_STATUS_MS_WING n), .ro, 0, 1⟩,
    ⟨(F.SQ_STATUS_MS_BRIDGE n), .ro, 0, 1⟩,
    ⟨(F.SQ_STATUS_MS_HOLD n), .ro, 0, 1⟩,
    ⟨(F.SQ_STATUS_MS_PROTECT n), .ro, 0, 1⟩,
    ⟨(F.SQ_STATUS_MS_DIRECTION n), .ro, 0, 1⟩,
    ⟨(F.SQ_STATUS_MS_STOP n), .ro, 0, 1⟩,
    ⟨(F.SQ_STATUS_MS_PLACEMENT n), .ro, 0, 1⟩,
    ⟨(F.SQ_STATUS_ABSENT n), .ro, 0, 255⟩]⟩,
  ⟨0x1000040, [(0, 128, 0x1000)], fun n _ _ => [
    ⟨(F.SQ_RATE_SUB_N n), .ro, 0, 1023⟩,
    ⟨(F.SQ_RATE_D n), .ro, 0, 7⟩,
    ⟨(F.SQ_RATE_RHO n), .ro, 0, 65535⟩,
    ⟨(F.SQ_RATE_SLOT_RATE n), .ro, 0, 0xfffff⟩]⟩,
  ⟨0x1000048, [(0, 128, 0x1000)], fun n _ _ => [
    ⟨(F.SQ_GAIN_NOW_G_NOW n), .ro, 0, 65535⟩,
    ⟨(F.SQ_GAIN_NOW_CLAMP n), .ro, 0, 1⟩]⟩,
  ⟨0x1000050, [(0, 128, 0x1000)], fun n _ _ => [
    ⟨(F.SQ_COST_TAPBW n), .ro, 0, 0x1ffffff⟩,
    ⟨(F.SQ_COST_TAPS n), .ro, 0, 8191⟩]⟩,
  ⟨0x1000058, [(0, 128, 0x1000)], fun n _ _ => [
    ⟨(F.SQ_SAT_GAIN_SAT n), .rc, 0, 0xffffffff⟩,
    ⟨(F.SQ_SAT_FIR_SAT n), .rc, 0, 0xffffffff⟩]⟩,
  ⟨0x1000080, [(0, 128, 0x1000), (0, 8, 0x8)], fun n l _ => [
    ⟨(F.SQ_CDET_CIN n l), .ro, 0, 65535⟩,
    ⟨(F.SQ_CDET_COUT n l), .ro, 0, 65535⟩,
    ⟨(F.SQ_CDET_ABSENT n l), .ro, 0, 1⟩]⟩,
  ⟨0x10000c0, [(0, 128, 0x1000), (0, 8, 0x8)], fun n l _ => [
    ⟨(F.SQ_FDET_FIN n l), .ro, 0, 65535⟩,
    ⟨(F.SQ_FDET_FOUT n l), .ro, 0, 65535⟩]⟩,
  ⟨0x1000100, [(0, 128, 0x1000)], fun n _ _ => [
    ⟨(F.SQ_DET_SUM_CIN n), .ro, 0, 65535⟩,
    ⟨(F.SQ_DET_SUM_COUT n), .ro, 0, 65535⟩,
    ⟨(F.SQ_DET_SUM_FIN n), .ro, 0, 65535⟩,
    ⟨(F.SQ_DET_SUM_FOUT n), .ro, 0, 65535⟩]⟩,
  ⟨0x1000108, [(0, 128, 0x1000)], fun n _ _ => [
    ⟨(F.SQ_INT_STATUS_MUTED n), .w1c, 0, 1⟩,
    ⟨(F.SQ_INT_STATUS_ON n), .w1c, 0, 1⟩,
    ⟨(F.SQ_INT_STATUS_CLAMP n), .w1c, 0, 1⟩,
    ⟨(F.SQ_INT_STATUS_COEF_DROP n), .w1c, 0, 1⟩,
    ⟨(F.SQ_INT_STATUS_SAT n), .w1c, 0, 1⟩,
    ⟨(F.SQ_INT_STATUS_PLACEMENT n), .w1c, 0, 1⟩]⟩,
  ⟨0x1000110, [(0, 128, 0x1000)], fun n _ _ => [
    ⟨(F.SQ_INT_EN_EN n), .rw, 0, 63⟩]⟩,
  ⟨0x1000118, [(0, 128, 0x1000)], fun n _ _ => [
    ⟨(F.SQ_COEF_STATUS_ACTIVE_BANK n), .ro, 0, 1⟩,
    ⟨(F.SQ_COEF_STATUS_LOCKED n), .ro, 0, 1⟩]⟩,
  ⟨0x1000120, [(0, 128, 0x1000)], fun n _ _ => [
    ⟨(F.SQ_COEF_ADDR_INDEX n), .rw, 0, 511⟩,
    ⟨(F.SQ_COEF_ADDR_AUTOINC n), .rw, 0, 1⟩]⟩,
  ⟨0x1000128, [(0, 128, 0x1000)], fun n _ _ => [
    ⟨(F.SQ_COEF_DATA_RE n), .rw, 0, 0x3ffff⟩,
    ⟨(F.SQ_COEF_DATA_IM n), .rw, 0, 0x3ffff⟩]⟩,
  ⟨0x1000200, [(0, 128, 0x1000)], fun n _ _ => [
    ⟨(F.SQ_EC_CTRL_EC_EN n), .rwp, 0, 1⟩,
    ⟨(F.SQ_EC_CTRL_ADAPT_EN n), .rwp, 0, 1⟩,
    ⟨(F.SQ_EC_CTRL_STEP_MODE n), .rwp, 0, 1⟩,
    ⟨(F.SQ_EC_CTRL_CLEAR n), .rwp, 0, 1⟩]⟩,
  ⟨0x1000208, [(0, 128, 0x1000)], fun n _ _ => [
    ⟨(F.SQ_EC_MU_LO_MU0 n), .rwp, 0, 65535⟩,
    ⟨(F.SQ_EC_MU_LO_MU1 n), .rwp, 0, 65535⟩,
    ⟨(F.SQ_EC_MU_LO_MU2 n), .rwp, 0, 65535⟩,
    ⟨(F.SQ_EC_MU_LO_MU3 n), .rwp, 0, 65535⟩]⟩,
  ⟨0x1000210, [(0, 128, 0x1000)], fun n _ _ => [
    ⟨(F.SQ_EC_MU_HI_MU4 n), .rwp, 0, 65535⟩,
    ⟨(F.SQ_EC_MU_HI_MU5 n), .rwp, 0, 65535⟩]⟩,
  ⟨0x1000218, [(0, 128, 0x1000)], fun n _ _ => [
    ⟨(F.SQ_EC_MCFG_TARGET n), .rwp, 0, 65535⟩,
    ⟨(F.SQ_EC_MCFG_ASSUME_ISO n), .rwp, 0, 65535⟩,
    ⟨(F.SQ_EC_MCFG_EST_K n), .rwp, 0, 7⟩]⟩,
  ⟨0x1000220, [(0, 128, 0x1000)], fun n _ _ => [
    ⟨(F.SQ_EC_STATUS_ADAPTING n), .ro, 0, 255⟩,
    ⟨(F.SQ_EC_STATUS_EST_VALID n), .ro, 0, 1⟩,
    ⟨(F.SQ_EC_STATUS_CHECK n), .ro, 0, 1⟩,
    ⟨(F.SQ_EC_STATUS_FLOOR n), .ro, 0, 1⟩,
    ⟨(F.SQ_EC_STATUS_CAPPED n), .ro, 0, 1⟩,
    ⟨(F.SQ_EC_STATUS_DIVERGED n), .ro, 0, 255⟩,
    ⟨(F.SQ_EC_STATUS_BAND n), .ro, 0, 7⟩,
    ⟨(F.SQ_EC_STATUS_STEP_S n), .ro, 0, 65535⟩,
    ⟨(F.SQ_EC_STATUS_AGE n), .ro, 0, 255⟩]⟩,
  ⟨0x1000228, [(0, 128, 0x1000)], fun n _ _ => [
    ⟨(F.SQ_EC_MARGIN_I_EFF n), .ro, 0, 65535⟩,
    ⟨(F.SQ_EC_MARGIN_MARGIN n), .ro, 0, 65535⟩,
    ⟨(F.SQ_EC_MARGIN_I_PHYS n), .ro, 0, 65535⟩]⟩,
  ⟨0x1000230, [(0, 128, 0x1000)], fun n _ _ => [
    ⟨(F.SQ_EC_INT_STATUS_CHECK_SET n), .w1c, 0, 1⟩,
    ⟨(F.SQ_EC_INT_STATUS_CHECK_CLR n), .w1c, 0, 1⟩,
    ⟨(F.SQ_EC_INT_STATUS_FLOOR n), .w1c, 0, 1⟩,
    ⟨(F.SQ_EC_INT_STATUS_DIVERGE n), .w1c, 0, 1⟩,
    ⟨(F.SQ_EC_INT_STATUS_COEF_DROP n), .w1c, 0, 1⟩,
    ⟨(F.SQ_EC_INT_STATUS_VALID n), .w1c, 0, 1⟩,
    ⟨(F.SQ_EC_INT_STATUS_STALE n), .w1c, 0, 1⟩]⟩,
  ⟨0x1000238, [(0, 128, 0x1000)], fun n _ _ => [
    ⟨(F.SQ_EC_INT_EN_EN n), .rw, 0, 127⟩]⟩,
  ⟨0x1000240, [(0, 128, 0x1000)], fun n _ _ => [
    ⟨(F.SQ_EC_CADDR_PATH n), .rw, 0, 63⟩,
    ⟨(F.SQ_EC_CADDR_TAP n), .rw, 0, 63⟩,
    ⟨(F.SQ_EC_CADDR_AUTOINC n), .rw, 0, 1⟩]⟩,
  ⟨0x1000248, [(0, 128, 0x1000)], fun n _ _ => [
    ⟨(F.SQ_EC_CDATA_RE n), .rw, 0, 0xffffff⟩,
    ⟨(F.SQ_EC_CDATA_IM n), .rw, 0, 0xffffff⟩]⟩,
  ⟨0x1000280, [(0, 128, 0x1000), (0, 16, 0x8)], fun n j _ => [
    ⟨(F.SQ_EC_DELAY_DLY0 n j), .rwp, 0, 4095⟩,
    ⟨(F.SQ_EC_DELAY_DLY1 n j), .rwp, 0, 4095⟩,
    ⟨(F.SQ_EC_DELAY_DLY2 n j), .rwp, 0, 4095⟩,
    ⟨(F.SQ_EC_DELAY_DLY3 n j), .rwp, 0, 4095⟩]⟩,
  ⟨0x1000300, [(0, 128, 0x1000), (0, 64, 0x8)], fun n p _ => [
    ⟨(F.SQ_EC_PATH_DEPTH n p), .ro, 0, 65535⟩,
    ⟨(F.SQ_EC_PATH_ISO_RES n p), .ro, 0, 65535⟩,
    ⟨(F.SQ_EC_PATH_ISO_PHYS n p), .ro, 0, 65535⟩,
    ⟨(F.SQ_EC_PATH_PRESENT n p), .ro, 0, 1⟩]⟩,
  ⟨0x1000500, [(0, 128, 0x1000), (0, 8, 0x8)], fun n r _ => [
    ⟨(F.SQ_EC_LANE_IN_PWR n r), .ro, 0, 65535⟩,
    ⟨(F.SQ_EC_LANE_ERR_PWR n r), .ro, 0, 65535⟩,
    ⟨(F.SQ_EC_LANE_SUPP n r), .ro, 0, 65535⟩,
    ⟨(F.SQ_EC_LANE_DIV n r), .ro, 0, 1⟩]⟩]

/-- The registers of the RK block. -/
def regRowsRK : List RegRow := [
  ⟨0x1100000, [(0, 16, 0x4000)], fun n _ _ => [
    ⟨(F.RK_ID_RANK n), .ro, 0, 15⟩,
    ⟨(F.RK_ID_WING n), .ro, 0, 3⟩,
    ⟨(F.RK_ID_DIR n), .ro, 0, 1⟩]⟩,
  ⟨0x1100008, [(0, 16, 0x4000)], fun n _ _ => [
    ⟨(F.RK_CFG_OUTER_K n), .rwp, 1, 8⟩,
    ⟨(F.RK_CFG_RELAX n), .rwp, 0, 1023⟩,
    ⟨(F.RK_CFG_NR_WIN n), .rwp, 1, 15⟩,
    ⟨(F.RK_CFG_NR_EXH n), .rwp, 1, 15⟩,
    ⟨(F.RK_CFG_VIEW_ACTIVE n), .rw, 0, 1⟩]⟩,
  ⟨0x1100010, [(0, 16, 0x4000)], fun n _ _ => [
    ⟨(F.RK_STATUS_FAULT n), .ro, 0, 1⟩,
    ⟨(F.RK_STATUS_CAUSE n), .ro, 0, 7⟩,
    ⟨(F.RK_STATUS_FF_RUN n), .ro, 0, 15⟩,
    ⟨(F.RK_STATUS_OUTER_PHASE n), .ro, 0, 255⟩,
    ⟨(F.RK_STATUS_OUTER_STEPS n), .ro, 0, 0xffffffff⟩]⟩,
  ⟨0x1100018, [(0, 16, 0x4000)], fun n _ _ => [
    ⟨(F.RK_CYCLES_LAST_USED n), .ro, 0, 4095⟩,
    ⟨(F.RK_CYCLES_MAX_USED n), .rc, 0, 4095⟩,
    ⟨(F.RK_CYCLES_PRED_OUTER n), .ro, 0, 4095⟩,
    ⟨(F.RK_CYCLES_PRED_INNER n), .ro, 0, 4095⟩]⟩,
  ⟨0x1100020, [(0, 16, 0x4000)], fun n _ _ => [
    ⟨(F.RK_FLAG_INNER n), .ro, 0, 255⟩,
    ⟨(F.RK_FLAG_OUTER n), .ro, 0, 255⟩,
    ⟨(F.RK_FLAG_FF_COUNT n), .rc, 0, 0xffffffff⟩]⟩,
  ⟨0x1100028, [(0, 16, 0x4000)], fun n _ _ => [
    ⟨(F.RK_ECC_CORRECTED n), .rc, 0, 65535⟩,
    ⟨(F.RK_ECC_STALLS n), .rc, 0, 65535⟩]⟩,
  ⟨0x1100030, [(0, 16, 0x4000)], fun n _ _ => [
    ⟨(F.RK_INT_STATUS_FLAGFALL n), .w1c, 0, 1⟩,
    ⟨(F.RK_INT_STATUS_RANK_FAULT n), .w1c, 0, 1⟩,
    ⟨(F.RK_INT_STATUS_FAULT_CLR n), .w1c, 0, 1⟩,
    ⟨(F.RK_INT_STATUS_MAT_DROP n), .w1c, 0, 1⟩,
    ⟨(F.RK_INT_STATUS_NR_EXH n), .w1c, 0, 1⟩,
    ⟨(F.RK_INT_STATUS_SAT n), .w1c, 0, 1⟩,
    ⟨(F.RK_INT_STATUS_ECC_CORR n), .w1c, 0, 1⟩]⟩,
  ⟨0x1100038, [(0, 16, 0x4000)], fun n _ _ => [
    ⟨(F.RK_INT_EN_EN n), .rw, 0, 127⟩]⟩,
  ⟨0x1100100, [(0, 16, 0x4000), (0, 8, 0x80)], fun n s _ => [
    ⟨(F.RK_SQCTL_N_STATES n s), .rwp, 1, 8⟩,
    ⟨(F.RK_SQCTL_N_MEAS n s), .rwp, 0, 4⟩,
    ⟨(F.RK_SQCTL_N_OUT n s), .rwp, 1, 2⟩,
    ⟨(F.RK_SQCTL_MAT_BANK n s), .rwp, 0, 1⟩,
    ⟨(F.RK_SQCTL_X_INIT n s), .rwp, 0, 1⟩,
    ⟨(F.RK_SQCTL_MEAS0 n s), .rwp, 1, 6⟩,
    ⟨(F.RK_SQCTL_MEAS1 n s), .rwp, 1, 6⟩,
    ⟨(F.RK_SQCTL_MEAS2 n s), .rwp, 1, 6⟩,
    ⟨(F.RK_SQCTL_MEAS3 n s), .rwp, 1, 6⟩]⟩,
  ⟨0x1100108, [(0, 16, 0x4000), (0, 8, 0x80)], fun n s _ => [
    ⟨(F.RK_SQCHK_CHECK_STEP n s), .rwp, 1, 1000⟩]⟩,
  ⟨0x1100110, [(0, 16, 0x4000), (0, 8, 0x80)], fun n s _ => [
    ⟨(F.RK_PSET_POWER_SET n s), .rwp, 0, 65535⟩]⟩,
  ⟨0x1100118, [(0, 16, 0x4000), (0, 8, 0x80)], fun n s _ => [
    ⟨(F.RK_NR_NR_LIMIT n s), .rwp, 0, 65535⟩,
    ⟨(F.RK_NR_PATH_LOSS n s), .rwp, 0, 65535⟩]⟩,
  ⟨0x1100120, [(0, 16, 0x4000), (0, 8, 0x80)], fun n s _ => [
    ⟨(F.RK_OUTST_RED n s), .ro, 0, 65535⟩,
    ⟨(F.RK_OUTST_P_OUT n s), .ro, 0, 65535⟩,
    ⟨(F.RK_OUTST_NRC n s), .ro, 0, 65535⟩,
    ⟨(F.RK_OUTST_EXH_RUN n s), .ro, 0, 15⟩,
    ⟨(F.RK_OUTST_NR_EXHAUSTED n s), .ro, 0, 1⟩]⟩,
  ⟨0x1100128, [(0, 16, 0x4000), (0, 8, 0x80)], fun n s _ => [
    ⟨(F.RK_R_R1 n s), .ro, 0, 0xffffffff⟩,
    ⟨(F.RK_R_R2 n s), .ro, 0, 0xffffffff⟩]⟩,
  ⟨0x1100130, [(0, 16, 0x4000), (0, 8, 0x80)], fun n s _ => [
    ⟨(F.RK_U_U1 n s), .ro, 0, 0xffffffff⟩,
    ⟨(F.RK_U_U2 n s), .ro, 0, 0xffffffff⟩]⟩,
  ⟨0x1100138, [(0, 16, 0x4000), (0, 8, 0x80)], fun n s _ => [
    ⟨(F.RK_Y01_Y1 n s), .ro, 0, 0xffffffff⟩,
    ⟨(F.RK_Y01_Y2 n s), .ro, 0, 0xffffffff⟩]⟩,
  ⟨0x1100140, [(0, 16, 0x4000), (0, 8, 0x80)], fun n s _ => [
    ⟨(F.RK_Y23_Y3 n s), .ro, 0, 0xffffffff⟩,
    ⟨(F.RK_Y23_Y4 n s), .ro, 0, 0xffffffff⟩]⟩,
  ⟨0x1100148, [(0, 16, 0x4000), (0, 8, 0x80), (0, 4, 0x8)], fun n s i => [
    ⟨(F.RK_XHAT_X_LO n s i), .ro, 0, 0xffffffff⟩,
    ⟨(F.RK_XHAT_X_HI n s i), .ro, 0, 0xffffffff⟩]⟩,
  ⟨0x1100168, [(0, 16, 0x4000), (0, 8, 0x80)], fun n s _ => [
    ⟨(F.RK_SQSTAT_Y_ABSENT n s), .ro, 0, 15⟩,
    ⟨(F.RK_SQSTAT_CHECK_DESC n s), .ro, 0, 1⟩,
    ⟨(F.RK_SQSTAT_SAT n s), .ro, 0, 1⟩]⟩,
  ⟨0x1101000, [(0, 16, 0x4000), (0, 8, 0x400), (0, 86, 0x8)], fun n s w => [
    ⟨(F.RK_MAT_W0 n s w), .rw, 0, 0xffffffff⟩,
    ⟨(F.RK_MAT_W1 n s w), .rw, 0, 0xffffffff⟩]⟩]

/-- The registers of the PRT block. -/
def regRowsPRT : List RegRow := [
  ⟨0x1300000, [], fun _ _ _ => [
    ⟨F.PRT_DEVID_DEVICE_ID, .ro, 0, 0xffffffffffffffff⟩]⟩,
  ⟨0x1300008, [], fun _ _ _ => [
    ⟨F.PRT_CTRL_PIN_MODE, .rw, 0, 1⟩,
    ⟨F.PRT_CTRL_PIN_SYSTEM, .rw, 0, 1⟩,
    ⟨F.PRT_CTRL_PIN_ACK, .wo, 0, 1⟩,
    ⟨F.PRT_CTRL_ALERT_EN, .rw, 0, 15⟩,
    ⟨F.PRT_CTRL_PIN_RELEASE, .rw, 1, 65535⟩]⟩,
  ⟨0x1300010, [], fun _ _ _ => [
    ⟨F.PRT_OSC_CFG_ARM_LEVEL, .rw, 0xA600, 0xE200⟩,
    ⟨F.PRT_OSC_CFG_MATCH, .rw, 100, 600⟩]⟩,
  ⟨0x1300018, [], fun _ _ _ => [
    ⟨F.PRT_DIR_CFG_DIR_HOLD, .rw, 1, 65535⟩]⟩,
  ⟨0x1300020, [], fun _ _ _ => [
    ⟨F.PRT_STATUS_PKG_STOP, .ro, 0, 1⟩,
    ⟨F.PRT_STATUS_PIN_STOP, .ro, 0, 1⟩,
    ⟨F.PRT_STATUS_PIN_LEVEL, .ro, 0, 1⟩,
    ⟨F.PRT_STATUS_DIR_NR, .ro, 0, 1⟩,
    ⟨F.PRT_STATUS_DIR_PERMIT_D, .ro, 0, 1⟩,
    ⟨F.PRT_STATUS_DIR_PERMIT_S, .ro, 0, 1⟩,
    ⟨F.PRT_STATUS_TEN_STOP, .ro, 0, 255⟩,
    ⟨F.PRT_STATUS_LATCH_LOST, .w1c, 0, 1⟩,
    ⟨F.PRT_STATUS_VERIFY_BUSY, .ro, 0, 1⟩,
    ⟨F.PRT_STATUS_ALERT, .ro, 0, 1⟩]⟩,
  ⟨0x1300028, [], fun _ _ _ => [
    ⟨F.PRT_OSC_LOG_SQ, .ro, 0, 127⟩,
    ⟨F.PRT_OSC_LOG_D_OUT, .ro, 0, 65535⟩,
    ⟨F.PRT_OSC_LOG_D_IN, .ro, 0, 65535⟩,
    ⟨F.PRT_OSC_LOG_G_DET, .ro, 0, 65535⟩]⟩,
  ⟨0x1300040, [], fun _ _ _ => [
    ⟨F.PRT_INT_STATUS_EVENT, .w1c, 0, 1023⟩]⟩,
  ⟨0x1300048, [], fun _ _ _ => [
    ⟨F.PRT_INT_EN_EN, .rw, 0, 1023⟩]⟩,
  ⟨0x1300100, [(0, 9, 0x8)], fun f _ _ => [
    ⟨(F.PRT_CTR_COUNTER f), .ro, 0, 0xffffffffffffffff⟩]⟩,
  ⟨0x1300200, [(0, 9, 0x20), (0, 4, 0x8)], fun f j _ => [
    ⟨(F.PRT_LATCH_HASH_HASH f j), .ro, 0, 0xffffffffffffffff⟩]⟩,
  ⟨0x1300400, [(0, 9, 0x8)], fun f _ _ => [
    ⟨(F.PRT_CMD_STATUS_RESULT f), .ro, 0, 15⟩,
    ⟨(F.PRT_CMD_STATUS_LAST_KIND f), .ro, 0, 3⟩,
    ⟨(F.PRT_CMD_STATUS_BUSY f), .ro, 0, 1⟩,
    ⟨(F.PRT_CMD_STATUS_DROPPED f), .rc, 0, 65535⟩]⟩,
  ⟨0x1301000, [(0, 9, 0x100), (0, 20, 0x8)], fun f w _ => [
    ⟨(F.PRT_MBOX_DATA f w), .wo, 0, 0xffffffffffffffff⟩]⟩,
  ⟨0x13010f8, [(0, 9, 0x100)], fun f _ _ => [
    ⟨(F.PRT_MBOX_GO_GO f), .wo, 0, 1⟩]⟩]

/-- The registers of the GPL block. -/
def regRowsGPL : List RegRow := [
  ⟨0x1400000, [], fun _ _ _ => [
    ⟨F.GPL_CFG_RECOV_TEMPI, .rw, 8, 4096⟩]⟩,
  ⟨0x1400008, [], fun _ _ _ => [
    ⟨F.GPL_LAST_PLAN_ID, .ro, 0, 65535⟩,
    ⟨F.GPL_LAST_CTX, .ro, 0, 15⟩,
    ⟨F.GPL_LAST_TEMPO, .ro, 0, 0xffffffff⟩]⟩,
  ⟨0x1400010, [], fun _ _ _ => [
    ⟨F.GPL_COUNT_APPLIED, .rc, 0, 0xffffffff⟩,
    ⟨F.GPL_COUNT_FAILED, .rc, 0, 0xffffffff⟩]⟩,
  ⟨0x1400018, [], fun _ _ _ => [
    ⟨F.GPL_RELEASE_CTX, .wo, 0, 15⟩]⟩,
  ⟨0x1400020, [], fun _ _ _ => [
    ⟨F.GPL_RECOV_SQUARES, .ro, 0, 255⟩]⟩,
  ⟨0x1400040, [], fun _ _ _ => [
    ⟨F.GPL_INT_STATUS_ORPHAN, .w1c, 0, 1⟩,
    ⟨F.GPL_INT_STATUS_WITHDRAW, .w1c, 0, 1⟩]⟩,
  ⟨0x1400048, [], fun _ _ _ => [
    ⟨F.GPL_INT_EN_EN, .rw, 0, 3⟩]⟩,
  ⟨0x1401000, [(0, 10, 0x100)], fun c _ _ => [
    ⟨(F.GPL_COMMIT_PLAN_ID c), .wo, 0, 65535⟩,
    ⟨(F.GPL_COMMIT_MODE c), .wo, 0, 1⟩,
    ⟨(F.GPL_COMMIT_DISCARD c), .wo, 0, 1⟩]⟩,
  ⟨0x1401008, [(0, 10, 0x100)], fun c _ _ => [
    ⟨(F.GPL_STATUS_STATE c), .ro, 0, 7⟩,
    ⟨(F.GPL_STATUS_REASON c), .ro, 0, 15⟩,
    ⟨(F.GPL_STATUS_PLAN_ID c), .ro, 0, 65535⟩,
    ⟨(F.GPL_STATUS_TARGET c), .ro, 0, 255⟩,
    ⟨(F.GPL_STATUS_TARGETS c), .ro, 0, 255⟩]⟩,
  ⟨0x1401010, [(0, 10, 0x100)], fun c _ _ => [
    ⟨(F.GPL_DONE_AT_AT c), .ro, 0, 0xffffffffffffffff⟩]⟩,
  ⟨0x1401018, [(0, 10, 0x100)], fun c _ _ => [
    ⟨(F.GPL_DROPS_STAGE_DROP c), .rc, 0, 65535⟩,
    ⟨(F.GPL_DROPS_COMMIT_DROP c), .rc, 0, 65535⟩,
    ⟨(F.GPL_DROPS_CLAIMED c), .ro, 0, 255⟩]⟩,
  ⟨0x1401020, [(0, 10, 0x100), (0, 2, 0x8)], fun c j _ => [
    ⟨(F.GPL_CLAIM_CLAIM c j), .ro, 0, 0xffffffffffffffff⟩]⟩,
  ⟨0x1401030, [(0, 10, 0x100)], fun c _ _ => [
    ⟨(F.GPL_CLAIM2_CLAIM c), .ro, 0, 0x1fffffffff⟩]⟩,
  ⟨0x1401040, [(0, 10, 0x100)], fun c _ _ => [
    ⟨(F.GPL_CTX_INT_STATUS_APPLIED c), .w1c, 0, 1⟩,
    ⟨(F.GPL_CTX_INT_STATUS_FAILED c), .w1c, 0, 1⟩,
    ⟨(F.GPL_CTX_INT_STATUS_ABORTED c), .w1c, 0, 1⟩,
    ⟨(F.GPL_CTX_INT_STATUS_STAGE_DROP c), .w1c, 0, 1⟩,
    ⟨(F.GPL_CTX_INT_STATUS_COMMIT_DROP c), .w1c, 0, 1⟩]⟩,
  ⟨0x1401048, [(0, 10, 0x100)], fun c _ _ => [
    ⟨(F.GPL_CTX_INT_EN_EN c), .rw, 0, 31⟩]⟩]

/-- The registers of the MTR block. -/
def regRowsMTR : List RegRow := [
  ⟨0x1500000, [], fun _ _ _ => [
    ⟨F.MTR_STATUS_LINK, .ro, 0, 1⟩,
    ⟨F.MTR_STATUS_ZM_RUN, .ro, 0, 1⟩,
    ⟨F.MTR_STATUS_SEAL, .ro, 0, 3⟩,
    ⟨F.MTR_STATUS_PERMIT_D, .ro, 0, 1⟩,
    ⟨F.MTR_STATUS_PERMIT_S, .ro, 0, 1⟩,
    ⟨F.MTR_STATUS_GUARD, .ro, 0, 1⟩,
    ⟨F.MTR_STATUS_CLK_FAULT, .ro, 0, 1⟩,
    ⟨F.MTR_STATUS_CAL_SESSION, .ro, 0, 1⟩,
    ⟨F.MTR_STATUS_MON_LOST, .ro, 0, 1⟩,
    ⟨F.MTR_STATUS_REPORT_LOST, .w1c, 0, 1⟩,
    ⟨F.MTR_STATUS_CAL_GEN, .ro, 0, 7⟩]⟩,
  ⟨0x1500008, [], fun _ _ _ => [
    ⟨F.MTR_ID_DEVICE_ID, .ro, 0, 0xffffffffffffffff⟩]⟩,
  ⟨0x1500010, [], fun _ _ _ => [
    ⟨F.MTR_SEQ_SEQ, .ro, 0, 0xffffffff⟩,
    ⟨F.MTR_SEQ_GEN, .ro, 0, 0xffffffff⟩]⟩,
  ⟨0x1500018, [], fun _ _ _ => [
    ⟨F.MTR_LEN_BYTES, .ro, 0, 16383⟩,
    ⟨F.MTR_LEN_N_WIN, .ro, 0, 511⟩]⟩,
  ⟨0x1500020, [], fun _ _ _ => [
    ⟨F.MTR_ZT_ZT, .ro, 0, 0xffffffffffffffff⟩]⟩,
  ⟨0x1500028, [], fun _ _ _ => [
    ⟨F.MTR_GUARD_EVENTS, .ro, 0, 65535⟩,
    ⟨F.MTR_GUARD_LAST_CAUSE, .ro, 0, 3⟩,
    ⟨F.MTR_GUARD_LAST_INPUT, .ro, 0, 15⟩,
    ⟨F.MTR_GUARD_HOLD_MS, .ro, 0, 65535⟩]⟩,
  ⟨0x1500030, [], fun _ _ _ => [
    ⟨F.MTR_LINK_ERR_CRC_ERR, .rc, 0, 65535⟩,
    ⟨F.MTR_LINK_ERR_DOWN, .rc, 0, 65535⟩]⟩,
  ⟨0x1500038, [], fun _ _ _ => [
    ⟨F.MTR_EPOCH_BOOT_EPOCH, .ro, 0, 0xffffffff⟩]⟩,
  ⟨0x1500100, [(0, 8, 0x8)], fun j _ _ => [
    ⟨(F.MTR_PUBKEY_KEY j), .ro, 0, 0xffffffffffffffff⟩]⟩,
  ⟨0x1500140, [(0, 8, 0x8)], fun j _ _ => [
    ⟨(F.MTR_ATTEST_SIG j), .ro, 0, 0xffffffffffffffff⟩]⟩,
  ⟨0x1504000, [(0, 1042, 0x8)], fun j _ _ => [
    ⟨(F.MTR_RAW_DATA j), .ro, 0, 0xffffffffffffffff⟩]⟩]

/-- The registers of the PSU block. -/
def regRowsPSU : List RegRow := [
  ⟨0x1600000, [], fun _ _ _ => [
    ⟨F.PSU_EN_EN, .rw, 0, 65535⟩]⟩,
  ⟨0x1600008, [], fun _ _ _ => [
    ⟨F.PSU_BANKSEL_SEL, .rw, 0, 65535⟩]⟩,
  ⟨0x1600010, [], fun _ _ _ => [
    ⟨F.PSU_STATUS_TRIPPED, .ro, 0, 65535⟩,
    ⟨F.PSU_STATUS_HICCUP, .ro, 0, 65535⟩]⟩,
  ⟨0x1600018, [], fun _ _ _ => [
    ⟨F.PSU_LAST_TRIP_CHANNELS, .ro, 0, 65535⟩,
    ⟨F.PSU_LAST_TRIP_AFFECTED, .ro, 0, 65535⟩,
    ⟨F.PSU_LAST_TRIP_EVENTS, .ro, 0, 0xffffffff⟩]⟩,
  ⟨0x1601000, [(0, 16, 0x100)], fun ch _ _ => [
    ⟨(F.PSU_CFG_GROUP ch), .rw, 0, 8⟩,
    ⟨(F.PSU_CFG_TH_SRC ch), .rw, 0, 16⟩,
    ⟨(F.PSU_CFG_SS_PERIODS ch), .rw, 0, 65535⟩,
    ⟨(F.PSU_CFG_HICCUP_N ch), .rw, 1, 255⟩,
    ⟨(F.PSU_CFG_HICCUP_OFF ch), .rw, 1, 65535⟩]⟩,
  ⟨0x1601008, [(0, 16, 0x100), (0, 2, 0x8)], fun ch b _ => [
    ⟨(F.PSU_BANK_PER ch b), .rw, 16, 4095⟩,
    ⟨(F.PSU_BANK_CMP_A ch b), .rw, 0, 65535⟩,
    ⟨(F.PSU_BANK_CMP_B ch b), .rw, 0, 65535⟩]⟩,
  ⟨0x1601018, [(0, 16, 0x100)], fun ch _ _ => [
    ⟨(F.PSU_DT_DT0 ch), .rw, 0, 127⟩,
    ⟨(F.PSU_DT_DT1 ch), .rw, 0, 127⟩,
    ⟨(F.PSU_DT_DT2 ch), .rw, 0, 127⟩,
    ⟨(F.PSU_DT_DT3 ch), .rw, 0, 127⟩,
    ⟨(F.PSU_DT_DT4 ch), .rw, 0, 127⟩,
    ⟨(F.PSU_DT_DT5 ch), .rw, 0, 127⟩]⟩,
  ⟨0x1601020, [(0, 16, 0x100)], fun ch _ _ => [
    ⟨(F.PSU_TRIP_CFG_CBC_LIM ch), .rw, 0, 255⟩,
    ⟨(F.PSU_TRIP_CFG_HARD_LIM ch), .rw, 0, 255⟩,
    ⟨(F.PSU_TRIP_CFG_BLANK ch), .rw, 0, 1023⟩,
    ⟨(F.PSU_TRIP_CFG_CBC_EN ch), .rw, 0, 1⟩]⟩,
  ⟨0x1601028, [(0, 16, 0x100)], fun ch _ _ => [
    ⟨(F.PSU_PHASE_PHASE ch), .rw, 0, 8191⟩]⟩,
  ⟨0x1601030, [(0, 16, 0x100)], fun ch _ _ => [
    ⟨(F.PSU_CH_STATUS_STATE ch), .ro, 0, 7⟩,
    ⟨(F.PSU_CH_STATUS_BANK ch), .ro, 0, 1⟩,
    ⟨(F.PSU_CH_STATUS_DT_NOW ch), .ro, 0, 127⟩,
    ⟨(F.PSU_CH_STATUS_BAND ch), .ro, 0, 7⟩,
    ⟨(F.PSU_CH_STATUS_SS_J ch), .ro, 0, 65535⟩,
    ⟨(F.PSU_CH_STATUS_CBC_RUN ch), .ro, 0, 255⟩,
    ⟨(F.PSU_CH_STATUS_DITHER_K ch), .ro, 0, 15⟩]⟩,
  ⟨0x1601038, [(0, 16, 0x100)], fun ch _ _ => [
    ⟨(F.PSU_COUNT_CBC ch), .rc, 0, 65535⟩,
    ⟨(F.PSU_COUNT_HICCUPS ch), .rc, 0, 65535⟩,
    ⟨(F.PSU_COUNT_HARD ch), .rc, 0, 65535⟩]⟩,
  ⟨0x1601040, [(0, 16, 0x100)], fun ch _ _ => [
    ⟨(F.PSU_INT_STATUS_HARD ch), .w1c, 0, 1⟩,
    ⟨(F.PSU_INT_STATUS_GROUP ch), .w1c, 0, 1⟩,
    ⟨(F.PSU_INT_STATUS_HICCUP ch), .w1c, 0, 1⟩,
    ⟨(F.PSU_INT_STATUS_CBC ch), .w1c, 0, 1⟩,
    ⟨(F.PSU_INT_STATUS_SS_DONE ch), .w1c, 0, 1⟩,
    ⟨(F.PSU_INT_STATUS_DT_CHG ch), .w1c, 0, 1⟩,
    ⟨(F.PSU_INT_STATUS_BANK_CHG ch), .w1c, 0, 1⟩]⟩,
  ⟨0x1601048, [(0, 16, 0x100)], fun ch _ _ => [
    ⟨(F.PSU_INT_EN_EN ch), .rw, 0, 127⟩]⟩]

/-- The registers of the HK block. -/
def regRowsHK : List RegRow := [
  ⟨0x1700000, [], fun _ _ _ => [
    ⟨F.HK_CTRL_REF_EN, .rw, 0, 1⟩,
    ⟨F.HK_CTRL_RUN, .rw, 0, 1⟩,
    ⟨F.HK_CTRL_CAL_A, .wo, 0, 1⟩,
    ⟨F.HK_CTRL_CAL_B, .wo, 0, 1⟩,
    ⟨F.HK_CTRL_FLUSH, .wo, 0, 1⟩,
    ⟨F.HK_CTRL_XCHK_SRC, .rw, 0, 1⟩,
    ⟨F.HK_CTRL_TH_QUEUE, .rw, 0, 1⟩]⟩,
  ⟨0x1700008, [], fun _ _ _ => [
    ⟨F.HK_STATUS_REF_READY, .ro, 0, 1⟩,
    ⟨F.HK_STATUS_CAL_BUSY_A, .ro, 0, 1⟩,
    ⟨F.HK_STATUS_CAL_BUSY_B, .ro, 0, 1⟩,
    ⟨F.HK_STATUS_CAL_VALID_A, .ro, 0, 1⟩,
    ⟨F.HK_STATUS_CAL_VALID_B, .ro, 0, 1⟩,
    ⟨F.HK_STATUS_MISMATCH, .ro, 0, 1⟩]⟩,
  ⟨0x1700010, [], fun _ _ _ => [
    ⟨F.HK_ROUND_ROUND_TEMPI, .rw, 160, 65535⟩,
    ⟨F.HK_ROUND_LEN_A, .rw, 0, 127⟩,
    ⟨F.HK_ROUND_LEN_B, .rw, 0, 127⟩]⟩,
  ⟨0x1700018, [], fun _ _ _ => [
    ⟨F.HK_XCHK_THR, .rw, 0, 16383⟩,
    ⟨F.HK_XCHK_N, .rw, 1, 15⟩]⟩,
  ⟨0x1700020, [], fun _ _ _ => [
    ⟨F.HK_OPEN_BAND, .rw, 0, 16383⟩]⟩,
  ⟨0x1700028, [], fun _ _ _ => [
    ⟨F.HK_QSTAT_DEPTH, .ro, 0, 1023⟩,
    ⟨F.HK_QSTAT_LEVEL, .rw, 1, 512⟩,
    ⟨F.HK_QSTAT_OVERFLOW, .rc, 0, 65535⟩,
    ⟨F.HK_QSTAT_CLIP, .rc, 0, 65535⟩]⟩,
  ⟨0x1700030, [], fun _ _ _ => [
    ⟨F.HK_QUEUE_RECORD, .rc, 0, 0xffffffffffffffff⟩]⟩,
  ⟨0x1700038, [], fun _ _ _ => [
    ⟨F.HK_COUNT_OVERRUN, .rc, 0, 65535⟩,
    ⟨F.HK_COUNT_SKIPPED, .rc, 0, 65535⟩,
    ⟨F.HK_COUNT_ROUNDS, .ro, 0, 0xffffffff⟩]⟩,
  ⟨0x1700040, [(0, 2, 0x8)], fun x _ _ => [
    ⟨(F.HK_CALF_OFFSET x), .rw, 0, 65535⟩,
    ⟨(F.HK_CALF_GAIN x), .rw, 0, 65535⟩]⟩,
  ⟨0x1700050, [], fun _ _ _ => [
    ⟨F.HK_XVAL_VAL_A, .ro, 0, 0xfffff⟩,
    ⟨F.HK_XVAL_VAL_B, .ro, 0, 0xfffff⟩]⟩,
  ⟨0x1700058, [], fun _ _ _ => [
    ⟨F.HK_OPEN0_CH, .w1c, 0, 0xffffffffffffffff⟩]⟩,
  ⟨0x1700060, [], fun _ _ _ => [
    ⟨F.HK_OPEN1_CH, .w1c, 0, 65535⟩]⟩,
  ⟨0x1700068, [], fun _ _ _ => [
    ⟨F.HK_LIM0_CH, .w1c, 0, 0xffffffffffffffff⟩]⟩,
  ⟨0x1700070, [], fun _ _ _ => [
    ⟨F.HK_LIM1_CH, .w1c, 0, 65535⟩]⟩,
  ⟨0x1700080, [], fun _ _ _ => [
    ⟨F.HK_INT_STATUS_ROUND_DONE, .w1c, 0, 1⟩,
    ⟨F.HK_INT_STATUS_WATERMARK, .w1c, 0, 1⟩,
    ⟨F.HK_INT_STATUS_OVERFLOW, .w1c, 0, 1⟩,
    ⟨F.HK_INT_STATUS_OVERRUN, .w1c, 0, 1⟩,
    ⟨F.HK_INT_STATUS_CAL_DONE, .w1c, 0, 1⟩,
    ⟨F.HK_INT_STATUS_CAL_REFUSED, .w1c, 0, 1⟩,
    ⟨F.HK_INT_STATUS_MISMATCH, .w1c, 0, 1⟩,
    ⟨F.HK_INT_STATUS_OPEN, .w1c, 0, 1⟩,
    ⟨F.HK_INT_STATUS_LIMIT, .w1c, 0, 1⟩,
    ⟨F.HK_INT_STATUS_REF_READY, .w1c, 0, 1⟩]⟩,
  ⟨0x1700088, [], fun _ _ _ => [
    ⟨F.HK_INT_EN_EN, .rw, 0, 1023⟩]⟩,
  ⟨0x1700100, [(0, 2, 0x200), (0, 64, 0x8)], fun x i _ => [
    ⟨(F.HK_LIST_CH x i), .rw, 0, 127⟩,
    ⟨(F.HK_LIST_SETTLE x i), .rw, 0, 255⟩,
    ⟨(F.HK_LIST_AVG_LOG2 x i), .rw, 0, 8⟩,
    ⟨(F.HK_LIST_PULL x i), .rw, 0, 2⟩,
    ⟨(F.HK_LIST_QUEUE x i), .rw, 0, 1⟩,
    ⟨(F.HK_LIST_DIODE x i), .rw, 0, 1⟩]⟩,
  ⟨0x1700800, [(0, 80, 0x8)], fun ch _ _ => [
    ⟨(F.HK_LAST_RECORD ch), .ro, 0, 0xffffffffffffffff⟩]⟩,
  ⟨0x1700c00, [(0, 80, 0x8)], fun ch _ _ => [
    ⟨(F.HK_LIMIT_LO ch), .rw, 0, 0xfffff⟩,
    ⟨(F.HK_LIMIT_HI ch), .rw, 0, 0xfffff⟩]⟩]

/-- The registers of the TH block. -/
def regRowsTH : List RegRow := [
  ⟨0x1800000, [], fun _ _ _ => [
    ⟨F.TH_CFG_SLOPE, .rw, 0, 2047⟩,
    ⟨F.TH_CFG_CUT_MAX, .rw, 0, 2047⟩,
    ⟨F.TH_CFG_STEP_DB, .rw, 1, 1023⟩,
    ⟨F.TH_CFG_STEP_DWELL, .rw, 1, 255⟩]⟩,
  ⟨0x1800008, [], fun _ _ _ => [
    ⟨F.TH_BANDS_DIE0_UP1, .rw, 0, 65535⟩,
    ⟨F.TH_BANDS_DIE0_UP2, .rw, 0, 65535⟩,
    ⟨F.TH_BANDS_DIE0_UP3, .rw, 0, 65535⟩,
    ⟨F.TH_BANDS_DIE0_UP4, .rw, 0, 65535⟩]⟩,
  ⟨0x1800010, [], fun _ _ _ => [
    ⟨F.TH_BANDS_DIE1_UP5, .rw, 0, 65535⟩]⟩,
  ⟨0x1800018, [], fun _ _ _ => [
    ⟨F.TH_BANDS_EXT0_UP1, .rw, 0, 65535⟩,
    ⟨F.TH_BANDS_EXT0_UP2, .rw, 0, 65535⟩,
    ⟨F.TH_BANDS_EXT0_UP3, .rw, 0, 65535⟩,
    ⟨F.TH_BANDS_EXT0_UP4, .rw, 0, 65535⟩]⟩,
  ⟨0x1800020, [], fun _ _ _ => [
    ⟨F.TH_BANDS_EXT1_UP5, .rw, 0, 65535⟩]⟩,
  ⟨0x1800028, [], fun _ _ _ => [
    ⟨F.TH_THR_DIE_THR, .rw, 0, 65535⟩,
    ⟨F.TH_THR_MISMATCH_ADD, .rw, 0, 65535⟩]⟩,
  ⟨0x1800030, [], fun _ _ _ => [
    ⟨F.TH_STATUS_ACTIVE, .ro, 0, 1⟩,
    ⟨F.TH_STATUS_HK_SUSPECT, .ro, 0, 1⟩,
    ⟨F.TH_STATUS_MODE_D, .ro, 0, 1⟩,
    ⟨F.TH_STATUS_MODE_S, .ro, 0, 1⟩,
    ⟨F.TH_STATUS_STEP_D, .ro, 0, 7⟩,
    ⟨F.TH_STATUS_STEP_S, .ro, 0, 7⟩,
    ⟨F.TH_STATUS_ONLINE_D, .ro, 0, 15⟩,
    ⟨F.TH_STATUS_ONLINE_S, .ro, 0, 15⟩,
    ⟨F.TH_STATUS_BAND_BD, .ro, 0, 7⟩,
    ⟨F.TH_STATUS_BAND_DCD, .ro, 0, 7⟩,
    ⟨F.TH_STATUS_BAND_SCD, .ro, 0, 7⟩]⟩,
  ⟨0x1800038, [], fun _ _ _ => [
    ⟨F.TH_EXCESS_E_D, .ro, 0, 65535⟩,
    ⟨F.TH_EXCESS_CUT_D, .ro, 0, 65535⟩,
    ⟨F.TH_EXCESS_E_S, .ro, 0, 65535⟩,
    ⟨F.TH_EXCESS_CUT_S, .ro, 0, 65535⟩]⟩,
  ⟨0x1800040, [], fun _ _ _ => [
    ⟨F.TH_INT_STATUS_BAND_CHG, .w1c, 0, 1⟩,
    ⟨F.TH_INT_STATUS_THROTTLE, .w1c, 0, 1⟩,
    ⟨F.TH_INT_STATUS_SENSOR, .w1c, 0, 1⟩,
    ⟨F.TH_INT_STATUS_SHUTDOWN, .w1c, 0, 1⟩,
    ⟨F.TH_INT_STATUS_RESTART, .w1c, 0, 1⟩,
    ⟨F.TH_INT_STATUS_CFG_REJECT, .w1c, 0, 1⟩]⟩,
  ⟨0x1800048, [], fun _ _ _ => [
    ⟨F.TH_INT_EN_EN, .rw, 0, 63⟩]⟩,
  ⟨0x1800050, [], fun _ _ _ => [
    ⟨F.TH_DIE_BD, .ro, 0, 65535⟩,
    ⟨F.TH_DIE_DCD, .ro, 0, 65535⟩,
    ⟨F.TH_DIE_SCD, .ro, 0, 65535⟩,
    ⟨F.TH_DIE_ZMD, .ro, 0, 65535⟩]⟩,
  ⟨0x1800058, [], fun _ _ _ => [
    ⟨F.TH_SD_SD_DCD, .ro, 0, 1⟩,
    ⟨F.TH_SD_SD_SCD, .ro, 0, 1⟩,
    ⟨F.TH_SD_SD_ZMD, .ro, 0, 1⟩,
    ⟨F.TH_SD_BD_RESTARTED, .w1c, 0, 1⟩,
    ⟨F.TH_SD_CNT_BD, .rc, 0, 255⟩,
    ⟨F.TH_SD_CNT_DCD, .rc, 0, 255⟩,
    ⟨F.TH_SD_CNT_SCD, .rc, 0, 255⟩,
    ⟨F.TH_SD_CNT_ZMD, .rc, 0, 255⟩]⟩,
  ⟨0x1800100, [(0, 16, 0x8)], fun i _ _ => [
    ⟨(F.TH_EXT_CFG_EN i), .rw, 0, 1⟩,
    ⟨(F.TH_EXT_CFG_SIDE i), .rw, 0, 3⟩,
    ⟨(F.TH_EXT_CFG_THR i), .rw, 0, 65535⟩,
    ⟨(F.TH_EXT_CFG_PARAM_A i), .rw, 0, 65535⟩,
    ⟨(F.TH_EXT_CFG_PARAM_B i), .rw, 0, 65535⟩]⟩,
  ⟨0x1800180, [(0, 16, 0x8)], fun i _ _ => [
    ⟨(F.TH_EXT_TEMP_TEMP i), .ro, 0, 65535⟩,
    ⟨(F.TH_EXT_TEMP_VALID i), .ro, 0, 1⟩,
    ⟨(F.TH_EXT_TEMP_BAND i), .ro, 0, 7⟩,
    ⟨(F.TH_EXT_TEMP_DWELL i), .ro, 0, 15⟩]⟩,
  ⟨0x1800200, [(0, 12, 0x8)], fun j _ _ => [
    ⟨(F.TH_DIODE_TEMP j), .ro, 0, 65535⟩,
    ⟨(F.TH_DIODE_VALID j), .ro, 0, 1⟩]⟩]

/-- The registers of the FLT block. -/
def regRowsFLT : List RegRow := [
  ⟨0x1900000, [], fun _ _ _ => [
    ⟨F.FLT_CTRL_FREEZE, .wo, 0, 1⟩]⟩,
  ⟨0x1900008, [], fun _ _ _ => [
    ⟨F.FLT_SUMMARY_PENDING_CNT, .ro, 0, 1023⟩,
    ⟨F.FLT_SUMMARY_SEVERE_CNT, .ro, 0, 1023⟩,
    ⟨F.FLT_SUMMARY_PAIR_CNT, .ro, 0, 1023⟩,
    ⟨F.FLT_SUMMARY_FAULT_N_LOW, .ro, 0, 1⟩]⟩,
  ⟨0x1900010, [], fun _ _ _ => [
    ⟨F.FLT_FIRST_SOURCE, .ro, 0, 511⟩,
    ⟨F.FLT_FIRST_CAUSE, .ro, 0, 255⟩,
    ⟨F.FLT_FIRST_MASTER, .ro, 0, 31⟩,
    ⟨F.FLT_FIRST_ACCESS, .ro, 0, 7⟩,
    ⟨F.FLT_FIRST_VALID, .w1c, 0, 1⟩,
    ⟨F.FLT_FIRST_ADDR_VALID, .ro, 0, 1⟩,
    ⟨F.FLT_FIRST_FOLLOWING, .ro, 0, 65535⟩]⟩,
  ⟨0x1900018, [], fun _ _ _ => [
    ⟨F.FLT_FIRST_ADDR_ADDR, .ro, 0, 0xffffffffffffffff⟩]⟩,
  ⟨0x1900020, [], fun _ _ _ => [
    ⟨F.FLT_FIRST_AT_AT, .ro, 0, 0xffffffffffffffff⟩]⟩,
  ⟨0x1900030, [], fun _ _ _ => [
    ⟨F.FLT_INT_STATUS_EVENT, .w1c, 0, 1⟩,
    ⟨F.FLT_INT_STATUS_FIRST, .w1c, 0, 1⟩,
    ⟨F.FLT_INT_STATUS_SEVERE, .w1c, 0, 1⟩,
    ⟨F.FLT_INT_STATUS_PAIR, .w1c, 0, 1⟩,
    ⟨F.FLT_INT_STATUS_REASSERT, .w1c, 0, 1⟩,
    ⟨F.FLT_INT_STATUS_BB_FROZEN, .w1c, 0, 1⟩,
    ⟨F.FLT_INT_STATUS_BB_LOST, .w1c, 0, 1⟩,
    ⟨F.FLT_INT_STATUS_BB_RD_DONE, .w1c, 0, 1⟩,
    ⟨F.FLT_INT_STATUS_BB_INVALID, .w1c, 0, 1⟩]⟩,
  ⟨0x1900038, [], fun _ _ _ => [
    ⟨F.FLT_INT_EN_EN, .rw, 0, 511⟩]⟩,
  ⟨0x1900040, [], fun _ _ _ => [
    ⟨F.FLT_INJECT_SOURCE, .wo, 0, 511⟩,
    ⟨F.FLT_INJECT_MODE, .wo, 0, 3⟩]⟩,
  ⟨0x1900048, [], fun _ _ _ => [
    ⟨F.FLT_REASSERT_COUNT, .rc, 0, 0xffffffff⟩]⟩,
  ⟨0x1900080, [(0, 8, 0x8)], fun j _ _ => [
    ⟨(F.FLT_PENDING_PENDING j), .w1c, 0, 0xffffffffffffffff⟩]⟩,
  ⟨0x19000c0, [(0, 8, 0x8)], fun j _ _ => [
    ⟨(F.FLT_ACTIVE_ACTIVE j), .ro, 0, 0xffffffffffffffff⟩]⟩,
  ⟨0x1900120, [(0, 8, 0x8)], fun j _ _ => [
    ⟨(F.FLT_SEVERE_SEVERE j), .w1c, 0, 0xffffffffffffffff⟩]⟩,
  ⟨0x1900160, [(0, 8, 0x8)], fun j _ _ => [
    ⟨(F.FLT_PAIR_PAIR j), .ro, 0, 0xffffffffffffffff⟩]⟩,
  ⟨0x1900200, [], fun _ _ _ => [
    ⟨F.FLT_BB_STATUS_HEAD, .ro, 0, 511⟩,
    ⟨F.FLT_BB_STATUS_WRAPPED, .ro, 0, 1⟩,
    ⟨F.FLT_BB_STATUS_FROZEN, .ro, 0, 1⟩,
    ⟨F.FLT_BB_STATUS_INVALID, .ro, 0, 1⟩,
    ⟨F.FLT_BB_STATUS_RD_READY, .ro, 0, 1⟩,
    ⟨F.FLT_BB_STATUS_LOST, .ro, 0, 65535⟩]⟩,
  ⟨0x1900208, [], fun _ _ _ => [
    ⟨F.FLT_BB_CTRL_ACK, .wo, 0, 1⟩]⟩,
  ⟨0x1900210, [], fun _ _ _ => [
    ⟨F.FLT_BB_RD_INDEX, .rw, 0, 511⟩]⟩,
  ⟨0x1900218, [], fun _ _ _ => [
    ⟨F.FLT_BB_DATA0_DATA, .ro, 0, 0xffffffffffffffff⟩]⟩,
  ⟨0x1900220, [], fun _ _ _ => [
    ⟨F.FLT_BB_DATA1_DATA, .ro, 0, 0xffffffffffffffff⟩]⟩,
  ⟨0x1900228, [], fun _ _ _ => [
    ⟨F.FLT_BB_MARK_DETAIL, .wo, 0, 0xffffffff⟩]⟩,
  ⟨0x1901000, [(0, 512, 0x8)], fun s _ _ => [
    ⟨(F.FLT_CFG_N s), .rw, 1, 255⟩,
    ⟨(F.FLT_CFG_WINDOW s), .rw, 1, 0xffffff⟩,
    ⟨(F.FLT_CFG_FN_EN s), .rw, 0, 1⟩,
    ⟨(F.FLT_CFG_INT_EN s), .rw, 0, 1⟩,
    ⟨(F.FLT_CFG_BB_EN s), .rw, 0, 1⟩,
    ⟨(F.FLT_CFG_FATAL_EN s), .rw, 0, 1⟩]⟩,
  ⟨0x1902000, [(0, 512, 0x8)], fun s _ _ => [
    ⟨(F.FLT_SRC_COUNT s), .ro, 0, 255⟩,
    ⟨(F.FLT_SRC_PENDING s), .ro, 0, 1⟩,
    ⟨(F.FLT_SRC_ACTIVE s), .ro, 0, 1⟩,
    ⟨(F.FLT_SRC_SEVERE s), .ro, 0, 1⟩,
    ⟨(F.FLT_SRC_PAIR s), .ro, 0, 1⟩,
    ⟨(F.FLT_SRC_LAST_CAUSE s), .ro, 0, 255⟩,
    ⟨(F.FLT_SRC_EVENTS s), .rc, 0, 0xffffffff⟩]⟩]

/-- The registers of the INT block. -/
def regRowsINT : List RegRow := [
  ⟨0x1a00000, [], fun _ _ _ => [
    ⟨F.INT_STATUS_EOI_ERR, .w1c, 0, 1⟩,
    ⟨F.INT_STATUS_ROUTE_REFUSED, .w1c, 0, 1⟩,
    ⟨F.INT_STATUS_SLEEP_LOST, .w1c, 0, 1⟩,
    ⟨F.INT_STATUS_RESTORED, .w1c, 0, 1⟩]⟩,
  ⟨0x1a00008, [], fun _ _ _ => [
    ⟨F.INT_SETPEND_NUM, .wo, 0, 2047⟩]⟩,
  ⟨0x1a00010, [], fun _ _ _ => [
    ⟨F.INT_CLRPEND_NUM, .wo, 0, 2047⟩]⟩,
  ⟨0x1a00018, [], fun _ _ _ => [
    ⟨F.INT_ERRLOG_NUM, .ro, 0, 2047⟩,
    ⟨F.INT_ERRLOG_TARGET, .ro, 0, 15⟩,
    ⟨F.INT_ERRLOG_COUNT, .rc, 0, 0xffffffff⟩]⟩,
  ⟨0x1a00100, [(0, 4, 0x40)], fun t _ _ => [
    ⟨(F.INT_CLAIM_NUM t), .ro, 0, 2047⟩]⟩,
  ⟨0x1a00108, [(0, 4, 0x40)], fun t _ _ => [
    ⟨(F.INT_EOI_NUM t), .wo, 0, 2047⟩]⟩,
  ⟨0x1a00110, [(0, 4, 0x40)], fun t _ _ => [
    ⟨(F.INT_TCFG_SPLIT t), .rw, 0, 7⟩,
    ⟨(F.INT_TCFG_THRESHOLD t), .rw, 0, 255⟩,
    ⟨(F.INT_TCFG_COAL_TIME t), .rw, 0, 65535⟩,
    ⟨(F.INT_TCFG_COAL_CNT t), .rw, 1, 255⟩]⟩,
  ⟨0x1a00118, [(0, 4, 0x40)], fun t _ _ => [
    ⟨(F.INT_TSTAT_TOP t), .ro, 0, 2047⟩,
    ⟨(F.INT_TSTAT_DEPTH t), .ro, 0, 31⟩,
    ⟨(F.INT_TSTAT_RUN_PR t), .ro, 0, 511⟩,
    ⟨(F.INT_TSTAT_LINE t), .ro, 0, 1⟩,
    ⟨(F.INT_TSTAT_IDLE t), .ro, 0, 1⟩,
    ⟨(F.INT_TSTAT_HELD t), .ro, 0, 1⟩]⟩,
  ⟨0x1a00300, [(0, 9, 0x8)], fun f _ _ => [
    ⟨(F.INT_HEOI_NUM f), .wo, 0, 2047⟩]⟩,
  ⟨0x1a00400, [(0, 32, 0x8)], fun j _ _ => [
    ⟨(F.INT_PEND_PENDING j), .ro, 0, 0xffffffffffffffff⟩]⟩,
  ⟨0x1a00500, [(0, 32, 0x8)], fun j _ _ => [
    ⟨(F.INT_ACT_ACTIVE j), .ro, 0, 0xffffffffffffffff⟩]⟩,
  ⟨0x1a10000, [(1, 2046, 0x8)], fun n _ _ => [
    ⟨(F.INT_SRC_PRIO n), .rw, 0, 255⟩,
    ⟨(F.INT_SRC_TARGET n), .rw, 0, 12⟩,
    ⟨(F.INT_SRC_VECTOR n), .rw, 0, 63⟩,
    ⟨(F.INT_SRC_EN n), .rw, 0, 1⟩,
    ⟨(F.INT_SRC_WAKE n), .rw, 0, 1⟩,
    ⟨(F.INT_SRC_KIND n), .ro, 0, 1⟩,
    ⟨(F.INT_SRC_PENDING n), .ro, 0, 1⟩,
    ⟨(F.INT_SRC_ACTIVE n), .ro, 0, 1⟩,
    ⟨(F.INT_SRC_INPUT n), .ro, 0, 1⟩]⟩]

/-- The registers of the SUP block. -/
def regRowsSUP : List RegRow := [
  ⟨0x2180000, [], fun _ _ _ => [
    ⟨F.SUP_CTRL_RUN, .rw, 0, 15⟩]⟩,
  ⟨0x2180008, [], fun _ _ _ => [
    ⟨F.SUP_STATUS_INIT_DONE, .ro, 0, 1⟩,
    ⟨F.SUP_STATUS_RUNNING, .ro, 0, 15⟩,
    ⟨F.SUP_STATUS_IDLE, .ro, 0, 15⟩]⟩,
  ⟨0x2180010, [], fun _ _ _ => [
    ⟨F.SUP_TEN_DENY_DENY, .rw, 0, 255⟩]⟩,
  ⟨0x2180018, [], fun _ _ _ => [
    ⟨F.SUP_MTIME_MTIME, .ro, 0, 0xffffffffffffffff⟩]⟩,
  ⟨0x2180100, [(0, 4, 0x40)], fun c _ _ => [
    ⟨(F.SUP_BOOT_ADDR c), .rw, 0, 0x3fffffffffffffff⟩]⟩,
  ⟨0x2180108, [(0, 4, 0x40)], fun c _ _ => [
    ⟨(F.SUP_CFG_SEIP_ROUTE c), .rw, 0, 1⟩]⟩,
  ⟨0x2180110, [(0, 4, 0x40)], fun c _ _ => [
    ⟨(F.SUP_MTIMECMP_CMP c), .rw, 0, 0xffffffffffffffff⟩]⟩,
  ⟨0x2180118, [(0, 4, 0x40)], fun c _ _ => [
    ⟨(F.SUP_MSIP_MSIP c), .rw, 0, 1⟩]⟩,
  ⟨0x2180120, [(0, 4, 0x40)], fun c _ _ => [
    ⟨(F.SUP_ERR_CORRECTED c), .rc, 0, 65535⟩,
    ⟨(F.SUP_ERR_UNCORR c), .rc, 0, 65535⟩,
    ⟨(F.SUP_ERR_PARITY c), .rc, 0, 65535⟩]⟩,
  ⟨0x2180128, [(0, 4, 0x40)], fun c _ _ => [
    ⟨(F.SUP_PC_PC c), .ro, 0, 0xffffffffffffffff⟩]⟩]

/-- The registers of the TEN block. -/
def regRowsTEN : List RegRow := [
  ⟨0x1f00000, [], fun _ _ _ => [
    ⟨F.TEN_ASSIGN_SQ, .wo, 0, 127⟩,
    ⟨F.TEN_ASSIGN_FUNC, .wo, 0, 15⟩]⟩,
  ⟨0x1f00008, [], fun _ _ _ => [
    ⟨F.TEN_ASSIGN_STATUS_RESULT, .ro, 0, 15⟩,
    ⟨F.TEN_ASSIGN_STATUS_SQ, .ro, 0, 127⟩,
    ⟨F.TEN_ASSIGN_STATUS_FUNC, .ro, 0, 15⟩,
    ⟨F.TEN_ASSIGN_STATUS_PENDING, .ro, 0, 1⟩]⟩,
  ⟨0x1f00010, [(0, 8, 0x8)], fun j _ _ => [
    ⟨(F.TEN_OWNER_OWNER j), .ro, 0, 0xffffffffffffffff⟩]⟩,
  ⟨0x1f00050, [], fun _ _ _ => [
    ⟨F.TEN_PF_INT_STATUS_FLR, .w1c, 0, 255⟩,
    ⟨F.TEN_PF_INT_STATUS_ASSIGN_DONE, .w1c, 0, 1⟩,
    ⟨F.TEN_PF_INT_STATUS_ASSIGN_REFUSED, .w1c, 0, 1⟩,
    ⟨F.TEN_PF_INT_STATUS_WITHDRAW, .w1c, 0, 1⟩,
    ⟨F.TEN_PF_INT_STATUS_VC1_MISUSE, .w1c, 0, 1⟩]⟩,
  ⟨0x1f00058, [], fun _ _ _ => [
    ⟨F.TEN_PF_INT_EN_EN, .rw, 0, 4095⟩]⟩,
  ⟨0x1f01000, [(1, 8, 0x100)], fun f _ _ => [
    ⟨(F.TEN_CFG_FLR_DISABLE f), .rw, 0, 1⟩,
    ⟨(F.TEN_CFG_CAP_ENG f), .rw, 0, 65535⟩]⟩,
  ⟨0x1f01008, [(1, 8, 0x100)], fun f _ _ => [
    ⟨(F.TEN_QUOTA_SQUARES f), .rw, 0, 255⟩,
    ⟨(F.TEN_QUOTA_PWR_DONOR f), .rw, 0, 65535⟩,
    ⟨(F.TEN_QUOTA_PWR_SERVICE f), .rw, 0, 65535⟩]⟩,
  ⟨0x1f01010, [(1, 8, 0x100)], fun f _ _ => [
    ⟨(F.TEN_CAPQ_CAP_BW f), .rw, 0, 65535⟩,
    ⟨(F.TEN_CAPQ_CAP_INFLIGHT f), .rw, 0, 16383⟩]⟩,
  ⟨0x1f01018, [(1, 8, 0x100)], fun f _ _ => [
    ⟨(F.TEN_USE_SQ_ENABLED f), .ro, 0, 255⟩,
    ⟨(F.TEN_USE_SQ_OWNED f), .ro, 0, 255⟩,
    ⟨(F.TEN_USE_INFLIGHT f), .ro, 0, 16383⟩]⟩,
  ⟨0x1f01020, [(1, 8, 0x100)], fun f _ _ => [
    ⟨(F.TEN_MEAS_DONOR_SUM f), .ro, 0, 65535⟩,
    ⟨(F.TEN_MEAS_SERVICE_SUM f), .ro, 0, 65535⟩]⟩,
  ⟨0x1f01028, [(1, 8, 0x100)], fun f _ _ => [
    ⟨(F.TEN_CUT_CAUSE f), .ro, 0, 31⟩,
    ⟨(F.TEN_CUT_WITHDRAWN f), .ro, 0, 255⟩,
    ⟨(F.TEN_CUT_TEMPO f), .ro, 0, 0xffffffff⟩]⟩,
  ⟨0x1f01030, [(1, 8, 0x100)], fun f _ _ => [
    ⟨(F.TEN_FLR_DROPPED f), .ro, 0, 65535⟩,
    ⟨(F.TEN_FLR_COMPLETED f), .ro, 0, 65535⟩,
    ⟨(F.TEN_FLR_COUNT f), .ro, 0, 65535⟩]⟩,
  ⟨0x1f01038, [(1, 8, 0x100)], fun f _ _ => [
    ⟨(F.TEN_VF_STATUS_ENABLED f), .ro, 0, 1⟩,
    ⟨(F.TEN_VF_STATUS_FLR_BUSY f), .ro, 0, 1⟩,
    ⟨(F.TEN_VF_STATUS_STOPPED f), .ro, 0, 1⟩,
    ⟨(F.TEN_VF_STATUS_CORE_DENIED f), .ro, 0, 1⟩,
    ⟨(F.TEN_VF_STATUS_CAP_PAUSED f), .ro, 0, 1⟩]⟩,
  ⟨0x1f01040, [(1, 8, 0x100), (0, 8, 0x8)], fun f e _ => [
    ⟨(F.TEN_ALLOW_LO f e), .rw, 0, 0xfffff⟩,
    ⟨(F.TEN_ALLOW_HI f e), .rw, 0, 0xfffff⟩,
    ⟨(F.TEN_ALLOW_SIDE f e), .rw, 0, 3⟩]⟩,
  ⟨0x1f01080, [(1, 8, 0x100)], fun f _ _ => [
    ⟨(F.TEN_VF_INT_STATUS_QUOTA_CUT f), .w1c, 0, 1⟩,
    ⟨(F.TEN_VF_INT_STATUS_CAP_PAUSED f), .w1c, 0, 1⟩,
    ⟨(F.TEN_VF_INT_STATUS_CAP_RESUMED f), .w1c, 0, 1⟩,
    ⟨(F.TEN_VF_INT_STATUS_CMD_DONE f), .w1c, 0, 1⟩,
    ⟨(F.TEN_VF_INT_STATUS_CMD_REJECT f), .w1c, 0, 1⟩,
    ⟨(F.TEN_VF_INT_STATUS_OWNER_CHG f), .w1c, 0, 1⟩]⟩,
  ⟨0x1f01088, [(1, 8, 0x100)], fun f _ _ => [
    ⟨(F.TEN_VF_INT_EN_EN f), .rw, 0, 63⟩]⟩,
  ⟨0x1f010f8, [(1, 8, 0x100)], fun f _ _ => [
    ⟨(F.TEN_DBELL_INDEX f), .wo, 0, 15⟩]⟩]

/-- The registers of the CAP block. -/
def regRowsCAP : List RegRow := [
  ⟨0x1b00000, [], fun _ _ _ => [
    ⟨F.CAP_STATUS_INFLIGHT, .ro, 0, 16383⟩,
    ⟨F.CAP_STATUS_BUSY, .ro, 0, 65535⟩]⟩,
  ⟨0x1b00100, [(0, 10, 0x20)], fun f _ _ => [
    ⟨(F.CAP_WIN_BASE_BASE f), .rw, 0, 0xfffffffffffff⟩]⟩,
  ⟨0x1b00108, [(0, 10, 0x20)], fun f _ _ => [
    ⟨(F.CAP_WIN_SIZE_PAGES f), .rw, 0, 0xfffffffff⟩]⟩,
  ⟨0x1b00110, [(0, 10, 0x20)], fun f _ _ => [
    ⟨(F.CAP_CREDIT_BYTES f), .ro, 0, 0xffffffffffff⟩,
    ⟨(F.CAP_CREDIT_UNLIM f), .rw, 0, 1⟩]⟩,
  ⟨0x1b00118, [(0, 10, 0x20)], fun f _ _ => [
    ⟨(F.CAP_CREDIT_ADD_ADD f), .wo, 0, 0xffffffffffff⟩]⟩,
  ⟨0x1b01000, [(0, 16, 0x1000)], fun e _ _ => [
    ⟨(F.CAP_ENG_QUEUE e), .ro, 0, 15⟩,
    ⟨(F.CAP_ENG_STATE e), .ro, 0, 7⟩,
    ⟨(F.CAP_ENG_ORPHAN e), .rc, 0, 65535⟩,
    ⟨(F.CAP_ENG_BUF e), .ro, 0, 0x3ffff⟩]⟩,
  ⟨0x1b01100, [(0, 16, 0x1000), (0, 10, 0x80)], fun e q _ => [
    ⟨(F.CAP_DQ_BASE_BASE e q), .rw, 0, 0x3ffffffffffffff⟩]⟩,
  ⟨0x1b01108, [(0, 16, 0x1000), (0, 10, 0x80)], fun e q _ => [
    ⟨(F.CAP_DQ_CFG_SIZE_LOG2 e q), .rw, 1, 12⟩,
    ⟨(F.CAP_DQ_CFG_EN e q), .rw, 0, 1⟩,
    ⟨(F.CAP_DQ_CFG_ABORT e q), .wo, 0, 1⟩,
    ⟨(F.CAP_DQ_CFG_RESTART e q), .wo, 0, 1⟩]⟩,
  ⟨0x1b01110, [(0, 16, 0x1000), (0, 10, 0x80)], fun e q _ => [
    ⟨(F.CAP_DQ_TAIL_TAIL e q), .rw, 0, 4095⟩]⟩,
  ⟨0x1b01118, [(0, 16, 0x1000), (0, 10, 0x80)], fun e q _ => [
    ⟨(F.CAP_DQ_STATUS_HEAD e q), .ro, 0, 4095⟩,
    ⟨(F.CAP_DQ_STATUS_HALTED e q), .ro, 0, 1⟩,
    ⟨(F.CAP_DQ_STATUS_PAUSED e q), .ro, 0, 1⟩,
    ⟨(F.CAP_DQ_STATUS_WAIT_START e q), .ro, 0, 1⟩,
    ⟨(F.CAP_DQ_STATUS_WAIT_BW e q), .ro, 0, 1⟩,
    ⟨(F.CAP_DQ_STATUS_WAIT_CQ e q), .ro, 0, 1⟩]⟩,
  ⟨0x1b01120, [(0, 16, 0x1000), (0, 10, 0x80)], fun e q _ => [
    ⟨(F.CAP_CQ_BASE_BASE e q), .rw, 0, 0x7ffffffffffffff⟩]⟩,
  ⟨0x1b01128, [(0, 16, 0x1000), (0, 10, 0x80)], fun e q _ => [
    ⟨(F.CAP_CQ_CFG_SIZE_LOG2 e q), .rw, 1, 12⟩,
    ⟨(F.CAP_CQ_CFG_TAIL e q), .ro, 0, 4095⟩,
    ⟨(F.CAP_CQ_CFG_PHASE e q), .ro, 0, 1⟩]⟩,
  ⟨0x1b01130, [(0, 16, 0x1000), (0, 10, 0x80)], fun e q _ => [
    ⟨(F.CAP_CQ_HEAD_HEAD e q), .rw, 0, 4095⟩]⟩,
  ⟨0x1b01138, [(0, 16, 0x1000), (0, 10, 0x80)], fun e q _ => [
    ⟨(F.CAP_Q_STATS_RECORDS e q), .rc, 0, 0xffffffff⟩,
    ⟨(F.CAP_Q_STATS_GAP e q), .rc, 0, 0xffffffff⟩]⟩,
  ⟨0x1b01140, [(0, 16, 0x1000), (0, 10, 0x80)], fun e q _ => [
    ⟨(F.CAP_Q_INT_STATUS_DONE e q), .w1c, 0, 1⟩,
    ⟨(F.CAP_Q_INT_STATUS_FAULT e q), .w1c, 0, 1⟩,
    ⟨(F.CAP_Q_INT_STATUS_HALT e q), .w1c, 0, 1⟩,
    ⟨(F.CAP_Q_INT_STATUS_GAP e q), .w1c, 0, 1⟩,
    ⟨(F.CAP_Q_INT_STATUS_BADDATA e q), .w1c, 0, 1⟩]⟩,
  ⟨0x1b01148, [(0, 16, 0x1000), (0, 10, 0x80)], fun e q _ => [
    ⟨(F.CAP_Q_INT_EN_EN e q), .rw, 0, 31⟩]⟩]

/-- The registers of the CHL block. -/
def regRowsCHL : List RegRow := [
  ⟨0x1c00000, [], fun _ _ _ => [
    ⟨F.CHL_SYS_HOPS, .ro, 0, 15⟩,
    ⟨F.CHL_SYS_MASTER, .ro, 0, 1⟩,
    ⟨F.CHL_SYS_LINK_STOP, .ro, 0, 1⟩,
    ⟨F.CHL_SYS_INJ_USED, .ro, 0, 63⟩,
    ⟨F.CHL_SYS_BUF_USED, .ro, 0, 0x1fffff⟩]⟩,
  ⟨0x1c00008, [], fun _ _ _ => [
    ⟨F.CHL_CTRL_LSTOP_ACK, .wo, 0, 1⟩]⟩,
  ⟨0x1c00100, [(0, 2, 0x100)], fun p _ _ => [
    ⟨(F.CHL_CFG_EN p), .rw, 0, 1⟩,
    ⟨(F.CHL_CFG_RETX_US p), .rw, 1, 1023⟩,
    ⟨(F.CHL_CFG_RETX_MAX p), .rw, 1, 15⟩,
    ⟨(F.CHL_CFG_PLAY_DELAY p), .rw, 0, 0xfffff⟩]⟩,
  ⟨0x1c00108, [(0, 2, 0x100)], fun p _ _ => [
    ⟨(F.CHL_STATUS_STATE p), .ro, 0, 3⟩,
    ⟨(F.CHL_STATUS_PEER_MASTER p), .ro, 0, 1⟩,
    ⟨(F.CHL_STATUS_PEER_HOPS p), .ro, 0, 15⟩,
    ⟨(F.CHL_STATUS_LANE_LOCK p), .ro, 0, 15⟩,
    ⟨(F.CHL_STATUS_MASTER_CONFLICT p), .ro, 0, 1⟩]⟩,
  ⟨0x1c00110, [(0, 2, 0x100)], fun p _ _ => [
    ⟨(F.CHL_ASYM_ASYM p), .rw, 0, 0xffffff⟩]⟩,
  ⟨0x1c00118, [(0, 2, 0x100)], fun p _ _ => [
    ⟨(F.CHL_TIME_PATH p), .ro, 0, 0xffffffff⟩,
    ⟨(F.CHL_TIME_ERR p), .ro, 0, 0xffffffff⟩]⟩,
  ⟨0x1c00120, [(0, 2, 0x100)], fun p _ _ => [
    ⟨(F.CHL_ERR_CRC_ERR p), .rc, 0, 65535⟩,
    ⟨(F.CHL_ERR_RETX p), .rc, 0, 65535⟩,
    ⟨(F.CHL_ERR_LOCK_LOSS p), .rc, 0, 65535⟩,
    ⟨(F.CHL_ERR_UNCERTAIN p), .rc, 0, 65535⟩]⟩,
  ⟨0x1c00128, [(0, 2, 0x100)], fun p _ _ => [
    ⟨(F.CHL_SMP_SMP_DROP p), .rc, 0, 65535⟩,
    ⟨(F.CHL_SMP_LATE p), .rc, 0, 65535⟩,
    ⟨(F.CHL_SMP_MISSING p), .rc, 0, 65535⟩,
    ⟨(F.CHL_SMP_CONFLICT p), .rc, 0, 65535⟩]⟩,
  ⟨0x1c00130, [(0, 2, 0x100)], fun p _ _ => [
    ⟨(F.CHL_HEAD_HEADROOM p), .rc, 0, 0xffffffff⟩]⟩,
  ⟨0x1c00138, [(0, 2, 0x100)], fun p _ _ => [
    ⟨(F.CHL_TXCMD_SLOT p), .wo, 0, 15⟩,
    ⟨(F.CHL_TXCMD_LEN p), .wo, 0, 63⟩,
    ⟨(F.CHL_TXCMD_SEND p), .wo, 0, 1⟩,
    ⟨(F.CHL_TXCMD_CANCEL p), .wo, 0, 1⟩]⟩,
  ⟨0x1c00140, [(0, 2, 0x100)], fun p _ _ => [
    ⟨(F.CHL_TXSTAT_SLOT_STATE p), .ro, 0, 0xffffffffffff⟩,
    ⟨(F.CHL_TXSTAT_CANCEL_RES p), .ro, 0, 3⟩]⟩,
  ⟨0x1c00148, [(0, 2, 0x100)], fun p _ _ => [
    ⟨(F.CHL_RXQ_HEAD p), .ro, 0, 15⟩,
    ⟨(F.CHL_RXQ_COUNT p), .ro, 0, 31⟩,
    ⟨(F.CHL_RXQ_LEN p), .ro, 0, 63⟩,
    ⟨(F.CHL_RXQ_RESUME p), .ro, 0, 1⟩,
    ⟨(F.CHL_RXQ_POP p), .wo, 0, 1⟩]⟩,
  ⟨0x1c00150, [(0, 2, 0x100)], fun p _ _ => [
    ⟨(F.CHL_INT_STATUS_STATE_CHG p), .w1c, 0, 1⟩,
    ⟨(F.CHL_INT_STATUS_TX_DONE p), .w1c, 0, 1⟩,
    ⟨(F.CHL_INT_STATUS_TX_UNCERTAIN p), .w1c, 0, 1⟩,
    ⟨(F.CHL_INT_STATUS_CANCEL_LATE p), .w1c, 0, 1⟩,
    ⟨(F.CHL_INT_STATUS_RX_MSG p), .w1c, 0, 1⟩,
    ⟨(F.CHL_INT_STATUS_STOP_RX p), .w1c, 0, 1⟩,
    ⟨(F.CHL_INT_STATUS_SMP_LOSS p), .w1c, 0, 1⟩,
    ⟨(F.CHL_INT_STATUS_PLACE_ERR p), .w1c, 0, 1⟩,
    ⟨(F.CHL_INT_STATUS_NO_INJ p), .w1c, 0, 1⟩,
    ⟨(F.CHL_INT_STATUS_LOOP p), .w1c, 0, 1⟩,
    ⟨(F.CHL_INT_STATUS_MASTER_CONFLICT p), .w1c, 0, 1⟩,
    ⟨(F.CHL_INT_STATUS_CONFLICT p), .w1c, 0, 1⟩]⟩,
  ⟨0x1c00158, [(0, 2, 0x100)], fun p _ _ => [
    ⟨(F.CHL_INT_EN_EN p), .rw, 0, 4095⟩]⟩,
  ⟨0x1c01000, [(0, 2, 0x800), (0, 256, 0x8)], fun p s _ => [
    ⟨(F.CHL_RXSTR_INJECT p s), .rw, 0, 1⟩,
    ⟨(F.CHL_RXSTR_FWD p s), .rw, 0, 1⟩,
    ⟨(F.CHL_RXSTR_SPEC_INV p s), .rw, 0, 1⟩,
    ⟨(F.CHL_RXSTR_LANES p s), .rw, 0, 255⟩,
    ⟨(F.CHL_RXSTR_SUB_FIRST p s), .rw, 0, 511⟩,
    ⟨(F.CHL_RXSTR_SUB_LAST p s), .rw, 0, 511⟩,
    ⟨(F.CHL_RXSTR_FC_FOLD p s), .rw, 0, 0x3fffffff⟩]⟩,
  ⟨0x1c02000, [(0, 2, 0x1000), (0, 512, 0x8)], fun p w _ => [
    ⟨(F.CHL_TXBUF_DATA p w), .rw, 0, 0xffffffffffffffff⟩]⟩,
  ⟨0x1c04000, [(0, 2, 0x1000), (0, 512, 0x8)], fun p w _ => [
    ⟨(F.CHL_RXBUF_DATA p w), .ro, 0, 0xffffffffffffffff⟩]⟩,
  ⟨0x1c06000, [(0, 2, 0x20), (0, 4, 0x8)], fun p j _ => [
    ⟨(F.CHL_RXACT_ACTIVE p j), .ro, 0, 0xffffffffffffffff⟩]⟩]

/-- The registers of the SEC block. -/
def regRowsSEC : List RegRow := [
  ⟨0x1d00000, [], fun _ _ _ => [
    ⟨F.SEC_STATUS_SELFTEST_DONE, .ro, 0, 1⟩,
    ⟨F.SEC_STATUS_KAT_FAIL, .ro, 0, 1⟩,
    ⟨F.SEC_STATUS_TEST_LOCK, .ro, 0, 1⟩,
    ⟨F.SEC_STATUS_JTAG_STOP, .ro, 0, 1⟩]⟩,
  ⟨0x1d00008, [], fun _ _ _ => [
    ⟨F.SEC_KEY_CMD_SLOT, .wo, 0, 15⟩,
    ⟨F.SEC_KEY_CMD_OP, .wo, 0, 3⟩]⟩,
  ⟨0x1d00010, [], fun _ _ _ => [
    ⟨F.SEC_KEY_STATUS_RESULT, .ro, 0, 15⟩,
    ⟨F.SEC_KEY_STATUS_SLOT, .ro, 0, 15⟩,
    ⟨F.SEC_KEY_STATUS_OP, .ro, 0, 3⟩]⟩,
  ⟨0x1d00018, [], fun _ _ _ => [
    ⟨F.SEC_KEY_VALID_VALID, .ro, 0, 511⟩,
    ⟨F.SEC_KEY_VALID_LOCKED, .ro, 0, 511⟩]⟩,
  ⟨0x1d00020, [(0, 4, 0x8)], fun j _ _ => [
    ⟨(F.SEC_KEY_STAGE_HASH j), .rw, 0, 0xffffffffffffffff⟩]⟩,
  ⟨0x1d00100, [(0, 9, 0x20), (0, 4, 0x8)], fun f j _ => [
    ⟨(F.SEC_KEY_HASH f j), .ro, 0, 0xffffffffffffffff⟩]⟩,
  ⟨0x1d00300, [], fun _ _ _ => [
    ⟨F.SEC_IDCODE_IDCODE, .ro, 0, 0xffffffff⟩]⟩]

/-- The registers of the PWR block. -/
def regRowsPWR : List RegRow := [
  ⟨0x1e00000, [], fun _ _ _ => [
    ⟨F.PWR_STATUS_BOOT_DONE, .ro, 0, 1⟩,
    ⟨F.PWR_STATUS_RET_VALID, .ro, 0, 1⟩,
    ⟨F.PWR_STATUS_LAST_RESET, .ro, 0, 3⟩,
    ⟨F.PWR_STATUS_VBAT_OK, .ro, 0, 1⟩,
    ⟨F.PWR_STATUS_VIO_3V3, .ro, 0, 1⟩,
    ⟨F.PWR_STATUS_PERST_LEVEL, .ro, 0, 1⟩,
    ⟨F.PWR_STATUS_SER_GOOD, .ro, 0, 1⟩,
    ⟨F.PWR_STATUS_CNV_D_GOOD, .ro, 0, 1⟩,
    ⟨F.PWR_STATUS_CNV_S_GOOD, .ro, 0, 1⟩]⟩,
  ⟨0x1e00008, [], fun _ _ _ => [
    ⟨F.PWR_RST_WARM, .wo, 0, 1⟩,
    ⟨F.PWR_RST_KEY, .wo, 0, 255⟩]⟩,
  ⟨0x1e00010, [], fun _ _ _ => [
    ⟨F.PWR_COUNT_COLD, .ro, 0, 65535⟩,
    ⟨F.PWR_COUNT_WARM, .ro, 0, 65535⟩,
    ⟨F.PWR_COUNT_RET_LOST, .ro, 0, 65535⟩]⟩,
  ⟨0x1e00018, [], fun _ _ _ => [
    ⟨F.PWR_SLEEP_ENTER, .wo, 0, 1⟩,
    ⟨F.PWR_SLEEP_STATE, .ro, 0, 1⟩,
    ⟨F.PWR_SLEEP_REFUSED, .ro, 0, 15⟩]⟩,
  ⟨0x1e00020, [], fun _ _ _ => [
    ⟨F.PWR_WAKE_CAUSE, .ro, 0, 3⟩,
    ⟨F.PWR_WAKE_NUM, .ro, 0, 2047⟩]⟩,
  ⟨0x1e00028, [], fun _ _ _ => [
    ⟨F.PWR_INT_STATUS_RAIL_FAIL, .w1c, 0, 1⟩,
    ⟨F.PWR_INT_STATUS_RAIL_GOOD, .w1c, 0, 1⟩,
    ⟨F.PWR_INT_STATUS_VBAT_LOW, .w1c, 0, 1⟩,
    ⟨F.PWR_INT_STATUS_WAKE, .w1c, 0, 1⟩,
    ⟨F.PWR_INT_STATUS_SLEEP_REFUSED, .w1c, 0, 1⟩,
    ⟨F.PWR_INT_STATUS_RET_LOST, .w1c, 0, 1⟩]⟩,
  ⟨0x1e00030, [], fun _ _ _ => [
    ⟨F.PWR_INT_EN_EN, .rw, 0, 63⟩]⟩]

/-- The whole register map (R447). -/
def regRows : List RegRow :=
  regRowsWG ++ regRowsTOP ++ regRowsAIR ++ regRowsCNV ++ regRowsRFC ++ regRowsSQ ++ regRowsRK ++ regRowsPRT ++ regRowsGPL ++ regRowsMTR ++ regRowsPSU ++ regRowsHK ++ regRowsTH ++ regRowsFLT ++ regRowsINT ++ regRowsSUP ++ regRowsTEN ++ regRowsCAP ++ regRowsCHL ++ regRowsSEC ++ regRowsPWR

/-- The AON fields by key: kept over warm resets (R423, R450). -/
def aonFields : List Fld := [
  F.AIR_EPOCH_EPOCH,
  F.PRT_STATUS_PKG_STOP,
  F.PRT_STATUS_TEN_STOP,
  F.TH_SD_BD_RESTARTED,
  F.TH_SD_CNT_BD,
  F.FLT_BB_STATUS_HEAD,
  F.FLT_BB_STATUS_WRAPPED,
  F.FLT_BB_STATUS_FROZEN,
  F.FLT_BB_STATUS_INVALID,
  F.FLT_BB_STATUS_LOST,
  F.PWR_COUNT_COLD,
  F.PWR_COUNT_WARM,
  F.PWR_COUNT_RET_LOST]

end Sys2Proof.Machine
end

