-- ==== Sys2Proof/Machine/State.lean ====
section
/-!
DEFINITION. The machine's state as plain data. Registers are held field by field in one sparse store (`Chip.regs`,
what a field that is not listed holds is its reset value); everything the spec describes that no register shows is
held beside it, block by block. Defaults of the fields are the values after reset.
-/

namespace Sys2Proof.Machine

/-- A fraction num / den, den > 0: exact means and running averages. -/
structure Frac where
  num : Int := 0
  den : Nat := 1
  deriving DecidableEq, Repr

/-- A black-box record (R311). -/
structure BBRec where
  time : Nat := 0
  source : Nat := 0
  ty : Nat := 0
  cause : Nat := 0
  approx : Bool := false
  detail : Nat := 0
  deriving DecidableEq, Repr

/-- The fault collector beside its registers (R298–R316). -/
structure Flt where
  /-- The ring of 512 records (R311), kept in AON. -/
  ring : SMap BBRec := []
  /-- The 16-entry staging FIFO toward AON (R313). -/
  fifo : List BBRec := []
  /-- Open windows: source to the tempo at whose boundary the window closes (R303). -/
  winClose : SMap Nat := []
  /-- For each source with a running interval: the first tempo boundary at which it is over, as a count of tempi (R218, R301). -/
  ends : SMap Nat := []
  /-- The boundary count from which what SEVERE held of a source may be released (R304). -/
  sevFree : SMap Nat := []
  /-- Causes that persist for level sources with several causes (R301: 412–413, 446), as a bit mask by source. -/
  persist : SMap Nat := []
  /-- Injections that hold the rails: source to mode 2 or 3 (R309). -/
  inject : SMap Nat := []
  /-- The 2,000 cc after release have passed (R306). -/
  initDone : Bool := false
  /-- A cold or warm reset, or a board-die shutdown, is holding FAULT_N low (R306). -/
  held : Bool := false
  /-- The entry requested from the ring and not yet read (R316). -/
  rdReq : Option Nat := none
  /-- AT of the last beacon that AON received (R314). -/
  beacon : Nat := 0
  deriving DecidableEq, Repr

/-- An active interrupt source: its number, the target that claimed it or was sent it, and the rank recorded at the
claim (R324, R326, R331). -/
structure ActInt where
  num : Nat
  tgt : Nat
  pr : Nat
  deriving DecidableEq, Repr

/-- An MSI-X message as it was sent (R328, R352): function, vector, address, data, the Relaxed Ordering attribute, virtual channel and
traffic class. -/
structure MsixMsg where
  func : Nat
  vec : Nat
  addr : Nat
  data : Nat
  relaxed : Bool := false
  vc : Nat := 0
  tc : Nat := 0
  deriving DecidableEq, Repr

/-- The interrupt controller beside its registers (R319–R332). -/
structure IntSt where
  /-- Pending edge sources, and level sources set by INT_SETPEND, rising; a level source is pending by its input too (R320, R321). -/
  pend : List Nat := []
  /-- Pending sources in the order in which they became pending, and those that have waited COAL_TIME (R330). -/
  waitQ : List Nat := []
  timedOut : List Nat := []
  active : List ActInt := []
  /-- The stack of each core target: number and rank, top first (R326). -/
  stackOf : SMap (List (Nat × Nat)) := []
  /-- Core lines asserted now, and asserted in any cycle since the last claim read (R325). -/
  line : List Nat := []
  lineSeen : List Nat := []
  /-- The MSI-X table: function × 2048 + vector to address, data and mask (R328, R353). -/
  msixTable : SMap (Nat × Nat × Bool) := []
  /-- MSI-X enabled, by function; function masked, by function (R328). -/
  msixEn : List Nat := []
  msixMask : List Nat := []
  lastMsg : Option MsixMsg := none
  /-- An edge pulse was lost in sleep (R332). -/
  lost : Bool := false
  deriving DecidableEq, Repr

/-- A taken occurrence of a schedule entry (R79): its fire time, entry, kind, target and argument, and whether the
entry is absolute. -/
structure Occ where
  fire : Int
  entry : Nat
  kind : Nat
  target : Nat
  arg : Nat
  abs : Bool
  deriving DecidableEq, Repr

/-- An armed entry as read at arming (R78): the two words, the fire time from which occurrences count, and the fire
time of its last taken or missed occurrence. -/
structure Armed where
  w0 : Nat
  w1 : Nat
  first : Int
  last : Option Int
  deriving DecidableEq, Repr

/-- A detection that a step or the trim works from: its timing error in 2^-8 Tc, the SFN-cycle position it gives, and the
count of Tc advanced at which it was made (R70, R71). -/
structure Detection where
  err : Int
  pos : Nat
  time : Nat
  deriving DecidableEq, Repr

/-- The air timeline beside its registers (R62–R85). -/
structure Air where
  /-- What the accumulator of R63 carries, in units of 10^-9 Tc: a fraction of a Tc, and whole Tc that lie beyond a boundary not
  yet reached. -/
  frac : Nat := 0
  /-- Tempo boundaries since reset. -/
  tempi : Nat := 0
  /-- Tc advanced since reset; no step moves it. -/
  mono : Nat := 0
  /-- The last thing that happened is a tempo boundary. -/
  onB : Bool := false
  /-- No tempo boundary before this count of Tc advanced: the first tempo after a step (R70). -/
  notBefore : Nat := 0
  heldEpoch : Option Nat := none
  pendStep : Option Detection := none
  /-- A step has been made since ACQUIRE was entered. -/
  stepped : Bool := false
  lockCnt : Nat := 0
  lastDet : Option Detection := none
  /-- Net Tc withheld by slewing since the last valid detection, and what the next AIR cycle adds or withholds (R63, R71). -/
  slewed : Int := 0
  slewAdj : Int := 0
  /-- Tc advanced when the last SYNC edge was seen, since ACQUIRE was entered (R69). -/
  syncAt : Option Nat := none
  armed : SMap Armed := []
  taken : List Occ := []
  scanIdx : Nat := 0
  ppsOut : Bool := false
  syncOut : Bool := false
  /-- AT at which each timing output last rose (R85). -/
  ppsRise : Nat := 0
  syncRise : Nat := 0
  deriving DecidableEq, Repr

/-- Where the image loader stands in the stream (R44, R45). -/
inductive ImgPhase where
  | header
  | data (left index : Nat)
  deriving DecidableEq, Repr

/-- The image loader beside its registers (R41–R59). -/
structure Img where
  space : SMap Nat := []
  phase : ImgPhase := .header
  /-- Words received and not yet consumed (the 64-word port buffer of R54, or a flash burst). -/
  buf : List Nat := []
  heldLo : Option Nat := none
  /-- Flash bytes left of the range sampled at the start, and the next flash address (R55). -/
  flashLeft : Nat := 0
  flashAddr : Nat := 0
  flashMode : Nat := 0
  flashDummy : Nat := 0
  /-- The load has ended and its resolution has not completed. -/
  resolving : Bool := false
  erasing : Bool := false
  heldStart : Bool := false
  heldHash : Bool := false
  /-- A CLEAR waits for the plans of the boundary at which it came (R58). -/
  clearLate : Bool := false
  deriving DecidableEq, Repr

/-- A die bridge (R33, R34). `st`: 0 = DOWN, 1 = TRAIN, 2 = UP. -/
structure Bridge where
  st : Nat := 0
  /-- It has not been UP since a reset, or POWER_EN stopped it: DOWN is then no loss (R28, R301). -/
  fresh : Bool := true
  /-- How often the control flit that failed last has been sent again, toward the board and toward the die; none = nothing
  waits to be sent again (R32). -/
  retxUp : Option Nat := none
  retxDn : Option Nat := none
  /-- Sequence numbers of the next control flits, toward the board and toward the die (R31). -/
  seqUp : Nat := 0
  seqDn : Nat := 0
  /-- Of each lane the last 16 flits, newest in bit 0, 1 = failed: 0–7 toward the board, 8–15 toward the die, control flits 16 and 17;
  and whether 4 of 16 have failed since it was UP (R34). -/
  flits : SMap Nat := []
  crcLoss : Bool := false
  /-- The far end is in thermal shutdown or without supply. -/
  farOff : Bool := false
  deriving DecidableEq, Repr

/-- One stream's detectors over the running tempo, and its fine values (R124, R125). -/
structure Det where
  sumIn : Nat := 0
  sumOut : Nat := 0
  cnt : Nat := 0
  yIn : Frac := {}
  yOut : Frac := {}
  /-- Last coarse means, none while absent. -/
  cIn : Option Frac := none
  cOut : Option Frac := none
  /-- The fine detector had no valid sample in the last tempo. -/
  dark : Bool := true
  deriving DecidableEq, Repr

/-- What a stream's coarse detectors have summed in the running block (R124): Σ|x|² at both positions, and the samples not absent. -/
structure BlkSum where
  inp : Nat := 0
  out : Nat := 0
  cnt : Nat := 0
  deriving DecidableEq, Repr

/-- A block of the oscillation detector's run (R185): aggregate input and output in Q7.8 dBFS, and the gain in force at
its end in 0.01 dB. -/
structure OscBlk where
  cin : Int
  cout : Int
  gain : Int
  deriving DecidableEq, Repr

/-- The receive-lane statistics of an outer step (R151, R158). -/
structure LaneStat where
  inSum : Nat := 0
  errSum : Nat := 0
  cnt : Nat := 0
  /-- Tempi of the step in which the lane adapted. -/
  tempi : Nat := 0
  /-- Consecutive outer steps over the divergence ratio. -/
  above : Nat := 0
  /-- P_r summed over this tempo and its samples; the mean of the last tempo (R146). -/
  pSum : Nat := 0
  pCnt : Nat := 0
  pMean : Option Frac := none
  deriving DecidableEq, Repr

/-- An isolation estimate that waits for its publication (R152): I_eff, I_phys, and ISO_RES and ISO_PHYS by path. -/
structure Est where
  iEff : Int
  iPhys : Int
  paths : List (Nat × Int × Int)
  deriving DecidableEq, Repr

/-- A stream at the merged rate (R113, R114, R116): the index of its next sample, the 32-bit phase accumulator, and the samples that
later stages still read, newest first. -/
structure Mix where
  next : Nat := 0
  phase : Nat := 0
  samples : List Cx := []
  deriving DecidableEq, Repr

/-- A stream on its way to the back combiner (R116): its slot samples, newest first, the converter clock in which the newest enters
the out-resampler, in units of 1 / (384 × SLOT_BW), and the stream at the merged rate. -/
structure OutPath where
  pos : Nat := 0
  samples : List Cx := []
  mix : Mix := {}
  deriving DecidableEq, Repr

/-- Linear gain factors on their way (R128): of the eight streams (UQ6.17) and then of G itself (40 fraction bits), before the change
and after it, and the slot samples since. -/
structure Glide where
  old : List Nat := []
  new : List Nat := []
  age : Nat := 16
  deriving DecidableEq, Repr

/-- A square's datapath, canceller and fault memory beside its registers. -/
structure Sq where
  /-- The converter clock of the newest slot sample, in units of 1 / (384 × SLOT_BW); the streams at the merged rate by receive lane, and
  those of the references by transmit lane; the streams to the back combiner by transmit lane. -/
  pos : Nat := 0
  inMix : SMap Mix := []
  refMix : SMap Mix := []
  out : SMap OutPath := []
  /-- Band-FIR coefficients, bank × 384 + index (R121), and those whose parity is wrong (R122). -/
  coef : SMap Cx := []
  coefBad : List Nat := []
  /-- Echo coefficients, path × 64 + tap, Q3.20 (R140, R147). -/
  ec : SMap Cx := []
  /-- Past error samples by stream (the FIR delay line) and past references by transmit lane, newest first. -/
  firHist : SMap (List Cx) := []
  refHist : SMap (List Cx) := []
  /-- Slot samples of the ramp done, out of N: 0 = silent, N = full (R129). -/
  ramp : Nat := 0
  /-- A mute source was active when the running mute ramp began (R137, SQ_INT_STATUS.MUTED). -/
  byMute : Bool := false
  /-- The gain factors in use (R128). -/
  glide : Glide := {}
  /-- Tc advanced at entry to FILLING (R130). -/
  fillAt : Nat := 0
  det : SMap Det := []
  /-- The running coarse block: its slot samples so far, and its sums by stream (R124). -/
  blkCnt : Nat := 0
  blk : SMap BlkSum := []
  /-- Over the running tempo: largest and summed aggregate coarse input, how many (R167), Σ|e|², Σ|y|². -/
  cinMax : Option Frac := none
  cinSum : Frac := {}
  cinCnt : Nat := 0
  resE : Nat := 0
  resY : Nat := 0
  /-- Over the running tempo: the state was ON throughout; every transmitted stream was present. -/
  onAll : Bool := false
  txAll : Bool := true
  /-- Measured over the tempo that ended at the last boundary (R167): as above, its state was ON throughout, and the G
  applied in it. -/
  mMax : Option Frac := none
  mMean : Option Frac := none
  mE : Nat := 0
  mY : Nat := 0
  mOn : Bool := false
  mG : Int := 0
  /-- As they stood before the last boundary: the applied G and factors, CHECK, and G_prev (R155, R156, R170). -/
  bG : Int := 0
  bGlide : Glide := {}
  bCheck : Bool := false
  chkWas : Bool := false
  bPrev : Option Int := none
  /-- The step of the tempo that ended at the last boundary was missed (R173). -/
  bMiss : Bool := false
  /-- Correlation sums of the outer step by path × 64 + tap (R151). -/
  corr : SMap Cx := []
  corrDen : SMap Nat := []
  /-- The running residual by path × 64 + tap, in units of 2^-64, and the entries that have one (R151). -/
  eps : SMap Cx := []
  epsInit : List Nat := []
  lane : SMap LaneStat := []
  /-- Lanes that adapted in the running tempo. -/
  adapted : Nat := 0
  vRes : List Nat := []
  vPhys : List Nat := []
  /-- Outer steps in a row in which every lane with paths adapted in half of the tempi; steps with no publication
  because of FLAGFALL (R153). -/
  goodSteps : Nat := 0
  staleSteps : Nat := 0
  /-- I_eff and I_phys in force, 0.01 dB (R152). -/
  iEff : Option Int := none
  iPhys : Option Int := none
  /-- What the outer work of the running tempo has computed: the estimate and RED; the boundary count at which the publication is
  due; whether the deadline dropped the work (R152, R173). -/
  estNew : Option Est := none
  redNew : Option Nat := none
  estDue : Option Nat := none
  estMiss : Bool := false
  /-- The lane statistics of the step whose estimate waits for its publication (R158). -/
  lanePub : SMap LaneStat := []
  /-- CLAMP, CHECK and the floor of the last boundary are still to be judged (R156, R157). -/
  assessDue : Bool := false
  /-- Fault conditions of MS_FAULT not cleared: datapath parity; stability, by cause the boundary count from which it may clear
  (R159); and those that only SEVERE holds. -/
  fParity : Bool := false
  stab : SMap Nat := []
  sevParity : Bool := false
  sevStab : Bool := false
  sevOsc : Bool := false
  oscOn : Bool := false
  /-- A path of the lane saturated a coefficient (R144). -/
  ecSat : Nat := 0
  /-- The limit of R187, the G in force when the detector fired, and whether that was in the present mute of the square or group. -/
  oscLimit : Option Int := none
  gDet : Int := 0
  oscIn : Bool := false
  oscRun : List OscBlk := []
  /-- G of R155 at the previous boundary; none = minus infinity. -/
  gPrev : Option Int := none
  /-- The dies whose bridge loss set MS_BRIDGE, and the Tc count since which they have all been good (R192). -/
  brDies : Nat := 0
  brGood : Option Nat := none
  /-- Passing direction of the pair (held at the DL square): 0 = NONE, 1 = DL, 2 = UL; tempo count of the last change (R133). -/
  dir : Nat := 0
  dirAt : Nat := 0
  /-- ENABLE = 0 took effect here: charged through this tempo (R132). -/
  chargedTo : Option Nat := none
  deriving DecidableEq, Repr

/-- A rank co-processor beside its registers (R164–R180). -/
structure Rank where
  /-- Matrix words, (2 × square + bank) × 172 + word (R175), and those with an uncorrectable error. -/
  mat : SMap Nat := []
  matBad : List Nat := []
  /-- Steps and outer work abandoned at the deadline of the running tempo (R173). -/
  missIn : Nat := 0
  missOut : Nat := 0
  /-- Cycles taken by accesses and corrections in the running tempo (R172). -/
  extra : Nat := 0
  /-- Tempi without FLAGFALL or error since (R174). -/
  clean : Nat := 0
  errNow : Bool := false
  sevHold : Bool := false
  /-- Latched measurements at the start of the running tempo, by 4 × square + row (R167). -/
  y : SMap Int := []
  /-- Rows of them that saturated; squares whose last law computed two outputs (R165, R176). -/
  ySat : List Nat := []
  uTwo : List Nat := []
  /-- The work of the running tempo has been done; the tempo is a FLAGFALL tempo (R173). -/
  done : Bool := false
  ffNow : Bool := false
  /-- Per square: smallest P_out of the last outer steps, newest first; of the running step; and the squares
  whose G stood above G_MIN at a boundary of it (R179, R180). -/
  nHist : SMap (List (Option Int)) := []
  nCur : SMap Int := []
  gHigh : List Nat := []
  /-- Boundary count at which the last outer step began; tempi of the step so far (R177). -/
  outerAt : Option Nat := none
  stepLen : Nat := 0
  /-- OUTER_PHASE before the last boundary (R177). -/
  phaseB : Nat := 0
  deriving DecidableEq, Repr

/-- Network protection beside its registers (R184–R203). -/
structure Prt where
  /-- Level of the PROTECT_N ball. -/
  pinHigh : Bool := true
  /-- The boundary count at which PIN_ACK, once honoured, releases; tempo boundary count since which the ball has been high (R191). -/
  pinAck : Option Nat := none
  pinHighAt : Nat := 0
  /-- For a converter die whose permit is present as last reported, the boundary count since which (R188, R189). -/
  permitAt : SMap Nat := []
  /-- By function whose latch RESUME has cleared, the boundary count from which MS_STOP may follow (R195). -/
  stopFree : SMap Nat := []
  /-- Boundary count from which DIR_HOLD counts (R189). -/
  nrAt : Nat := 0
  /-- Mailboxes pending; the one under verification and the copy of its key slot; the VF last served; whether the PF was
  served last; a memory error in this verification (R200, R414, R416). -/
  pendBox : List Nat := []
  verifying : Option Nat := none
  keyCopy : Option (List Nat) := none
  lastVf : Nat := 0
  lastWasPf : Bool := false
  memErr : Bool := false
  /-- COUNTERs accepted, by function (R198). -/
  accepted : SMap (List Nat) := []
  /-- Wing datapath faults: not cleared, and held by SEVERE only (R302, R304). -/
  wingFault : List Nat := []
  wingHold : List Nat := []
  deriving DecidableEq, Repr

/-- A Chain Link frame (R386): class, kind, sequence number, the fields of a SAMPLES frame, the transmit slot of a message,
its blocks; whether it has been granted, whether it is to be sent again, and how often it has been without BUSY (R390). -/
structure ChlFrame where
  cls : Nat
  kind : Nat := 0
  seq : Nat := 0
  stream : Nat := 0
  dir : Nat := 0
  bw : Nat := 0
  slot : Option Nat := none
  blocks : List Nat := []
  sent : Bool := false
  redo : Bool := false
  tries : Nat := 0
  deriving DecidableEq, Repr

/-- A block of 64 bits on a Chain Link lane with its sync header: a control block or a data block (R384). -/
structure ChlBlock where
  ctl : Bool
  word : Nat
  deriving DecidableEq, Repr

/-- A Chain Link port beside its registers (R387–R403). -/
structure ChlPort where
  /-- Reliable frames that wait or are not acknowledged, SAMPLES frames that wait, and due ACK blocks (class, BUSY, NEXT). -/
  stopQ : List ChlFrame := []
  ctlQ : List ChlFrame := []
  smpQ : List ChlFrame := []
  acks : List (Nat × Bool × Nat) := []
  /-- Next sequence numbers to send, and expected, by class. -/
  txSeq : SMap Nat := []
  rxSeq : SMap Nat := []
  /-- What left the port last: a frame, or an ACK block. -/
  lastOut : Option ChlFrame := none
  lastAck : Option (Nat × Bool × Nat) := none
  /-- Length and RESUME mark of received messages by slot. -/
  rxMeta : SMap (Nat × Bool) := []
  /-- An INIT has been received since TRAIN was entered (R387). -/
  initRx : Bool := false
  /-- What is still to be sent of the STOP frame, and of the CONTROL or SAMPLES frame, in progress (R388); blocks sent, modulo the
  lanes, and what is due of a block, in 1/11,264 (R384, R392). -/
  stopOut : List ChlBlock := []
  frameOut : List ChlBlock := []
  lane : Nat := 0
  credit : Nat := 0
  /-- Blocks that have left on every lane since the last ALIGN (R384). -/
  rows : Nat := 0
  /-- The block sent last; by lane, the block as scrambled and the 58 bits of the scrambler before it was sent (R384). -/
  lastBlk : Option ChlBlock := none
  line : SMap ChlBlock := []
  scr : SMap Nat := []
  /-- The exchange under way (T3), the last complete one (T4 − T3 in 2^-8 Tc, and the Tc count at its end; R401, R402). -/
  t3 : Option Nat := none
  exch : Option (Int × Nat) := none
  /-- Tc count at the last frame of each stream, plus one (CHL_RXACT). -/
  actAt : SMap Nat := []
  /-- Streams whose placement has been judged since their entry was written: SLOT_BW judged, and whether it holds (R394). -/
  placed : SMap (Nat × Bool) := []
  /-- A cause of the port's fault source is asserted (R405). -/
  cause : Option Nat := none
  deriving DecidableEq, Repr

/-- A received frame that waits in the play buffer (R395): port, stream, lane, side, SLOT_BW, play instant of its first sample in
2^-8 Tc, and its samples as packed, zero for those that came too late. -/
structure PlayFrame where
  port : Nat
  stream : Nat
  lane : Nat
  ul : Bool
  bw : Nat
  at0 : Nat
  samples : List Nat
  /-- The samples for which the buffer had room, and those whose time has come. -/
  room : Nat := 64
  done : Nat := 0
  deriving DecidableEq, Repr

/-- A lane of an injected stream (R394, R397): its way to the back combiner, and the steps of its ramp away from full. -/
structure Injector where
  path : OutPath := {}
  down : Nat := 0
  deriving DecidableEq, Repr

/-- Chain Link beside its registers (R384–R407). -/
structure Chl where
  /-- Injected lanes, 2048 × port + 8 × stream + lane. -/
  inj : SMap Injector := []
  ports : SMap ChlPort := []
  play : List PlayFrame := []
  /-- The boundary count at which LSTOP_ACK, once written, releases (R399). -/
  stopAck : Option Nat := none
  /-- DEVICE_ID of the timeline master as the last TIMING frame gave it (R194, R401). -/
  master : Option Nat := none
  deriving DecidableEq, Repr

/-- The gain-plan unit beside its registers (R206–R218). -/
structure Gpl where
  /-- MODE 0 plans in the order of their commits: context and the boundary count at which it is due (R211). -/
  due : List (Nat × Nat) := []
  /-- Registers whose shadow holds an uncorrectable error, by address (R214). -/
  badShadow : List Nat := []
  /-- Scheduled plans were applied at this boundary count (R83). -/
  schedAt : Option Nat := none
  /-- The state of the last core cycle before the boundary (R213): squares faulted and protected, ranks and wings in fault. -/
  faulted : List Nat := []
  protectd : List Nat := []
  badRank : List Nat := []
  badWing : List Nat := []
  /-- And with them the banks with an error, 2 × square + bank, the registers whose shadow held one, and whether an image was resolved. -/
  badFir : List Nat := []
  badMat : List Nat := []
  badStage : List Nat := []
  imgOk : Bool := false
  /-- Contexts whose staging an action drops that came at a boundary after its plan (R217). -/
  late : List Nat := []
  deriving DecidableEq, Repr

/-- Tenancy beside its registers (R358–R364). -/
structure Ten where
  /-- Quota, allow-list and configuration values in force, by `Fld.key` (R361). -/
  inForce : SMap Nat := []
  /-- Values written and not in force yet, in the order of the writes: tenant, field, value, and the boundary count at which
  they take effect (R361). -/
  waits : List (Nat × Fld × Nat × Nat) := []
  /-- The ownership change that waits: square, function, boundary count at which it is due (R358). -/
  assign : Option (Nat × Nat × Nat) := none
  /-- Virtual functions that exist: VF Enable and NumVFs (R351). -/
  vfEnable : Bool := false
  numVfs : Nat := 0
  ariHier : Bool := false
  /-- Max Payload Size and Max Read Request Size of the PF: 128 × 2^n bytes (R351, R377). -/
  mps : Nat := 0
  mrrs : Nat := 2
  /-- Configuration space (R351, R353): power states by function (0 = D0, 3 = D3hot), the PF's BARs and VF BARs, and AER words by 8 ×
  function + number. -/
  dstate : SMap Nat := []
  bars : SMap Nat := []
  aer : SMap Nat := []
  /-- The host has enabled VC1 and maps TC7 to it (R356). -/
  vc1 : Bool := false
  /-- Functions whose Enable Relaxed Ordering is 0 (R352). -/
  roOff : List Nat := []
  /-- Withdrawals that an FLR with FLR_DISABLE brings: tenant to due boundary (R364). -/
  flrDue : SMap Nat := []
  deriving DecidableEq, Repr

/-- An open calibration window of a converter die (R99–R101): its type and lanes, the Tc count at which it closes, the
running step's end, whether no further step starts, whether the running step is to be discarded, and how often the permit had fallen
when it began. -/
structure CalWin where
  ty : Nat
  lanes : Nat
  closeAt : Nat
  step : Option Nat := none
  stop : Bool := false
  bad : Bool := false
  drops : Nat := 0
  deriving DecidableEq, Repr

/-- A converter-block write that waits for the bridge (R87): address, half, value. -/
structure CnvWrite where
  addr : Nat
  half : Half
  value : Nat
  deriving DecidableEq, Repr

/-- A converter die beside its registers (R87–R105). -/
structure Cnv where
  held : List CnvWrite := []
  /-- Values at the die that no control flit has brought to the board yet, by `Fld.key` (R87). -/
  die : SMap (Fld × Nat) := []
  /-- Lanes that are online, bit by lane; for a lane whose ONLINE was set, the boundary count from which it goes online (R96). -/
  laneOn : Nat := 0
  onDue : SMap Nat := []
  /-- Synthesisers whose blank is in force, bit by synthesiser (R95): both are disabled at reset. -/
  synBlank : Nat := 3
  /-- The CKM is trying to lock (R97). -/
  ckmTry : Bool := false
  /-- The phase of the start-up calibration, 0 = A; whether a loss interrupted it (R97, R98). -/
  phase : Nat := 0
  cut : Bool := false
  /-- The lanes that take part in the running phase C, bit by lane (R98). -/
  lanesC : Nat := 0
  win : Option CalWin := none
  /-- A completed calibration whose corrections wait for the boundary: type, lanes, results by lane (R100). -/
  calApply : Option (Nat × Nat × List (List Nat)) := none
  /-- The boundary count from which they apply. -/
  calDue : Nat := 0
  /-- Corrections in use, ADC × 8 + sub-converter (R103); the boundary count from which a band change acts on them, and on the
  canceller step (R145); table writes that wait, by ADC: the band of the entry and the boundary count from which it acts. -/
  skewNow : SMap Nat := []
  skewDue : Option Nat := none
  bandAt : Nat := 0
  skewHost : SMap (Nat × Nat) := []
  /-- The die is in thermal shutdown (R295). -/
  hot : Bool := false
  deriving DecidableEq, Repr

/-- A queued RFFE command (R106). -/
structure RffeCmd where
  op : Nat
  usid : Nat
  addr : Nat
  bytes : Nat
  data : Nat
  deriving DecidableEq, Repr

/-- An RFFE result (R107). -/
structure RffeRes where
  data : Nat
  parity : Bool
  flushed : Bool
  op : Nat
  deriving DecidableEq, Repr

/-- An RFFE master: its two queues, whether the head of the first is on the bus, and the results of flushed commands that come after
its own (R107). -/
structure Rffe where
  cmds : List RffeCmd := []
  results : List RffeRes := []
  busy : Bool := false
  flushed : List RffeRes := []
  deriving DecidableEq, Repr

/-- A PWM channel beside its registers (R247–R263): what is in effect since the last period end, and its running period. -/
structure Pwm where
  /-- PER and the two compares (UQ12.4), dead time, and the configuration in effect. -/
  per : Nat := 375
  a : Nat := 0x1770
  b : Nat := 0x1770
  blank : Nat := 30
  cbcEn : Bool := true
  cbcLim : Nat := 200
  hardLim : Nat := 240
  ss : Nat := 200
  hicN : Nat := 8
  hicOff : Nat := 1000
  /-- The clock at which the running period began to be generated: PHASE in the first one, else 0 (R252). -/
  start : Nat := 0
  /-- The clock in which a cycle-by-cycle trip ended H in this period (R258). -/
  trip : Option Nat := none
  /-- Whether a period came before this one. If H was 1 in its last clock, the clock of this one in which PWMHxx rises if H stays,
  negative when it is high; the clock of a rising edge of PWMLxx still to come; edges of the outputs before this period, as clocks of it
  (R253, R256, R257). -/
  cont : Bool := false
  hiAt : Option Int := none
  lowAt : Option Nat := none
  edges : List Int := []
  /-- Periods of SOFTSTART and of HICCUP that have ended (R261, R263). -/
  ssCnt : Nat := 0
  hicCnt : Nat := 0
  /-- The bank that a PWMF occurrence chose since the last period end (R251). -/
  pwmf : Option Bool := none
  /-- The cycle-by-cycle limit and BLANK of the period before (R256, R257). -/
  limWas : Nat := 200
  blankWas : Nat := 30
  /-- Tc advanced when the outputs were turned off, and the clocks of the HICCUP periods since (R257). -/
  fell : Option Nat := none
  since : Nat := 0
  deriving DecidableEq, Repr

/-- An entry that a housekeeping converter has to run in this round (R270–R272): its kind is 0 = cross-check, 1 = fixed part,
2 = list. -/
structure HkEntry where
  kind : Nat
  ch : Nat
  settle : Nat
  avg : Nat
  pull : Nat
  queue : Bool
  diode : Bool
  deriving DecidableEq, Repr

/-- A housekeeping converter beside its registers: the entries left in the round, the clock of the round in which the first of
them starts, and whether it has finished its part. -/
structure HkConv where
  todo : List HkEntry := []
  clock : Nat := 0
  fin : Bool := true
  deriving DecidableEq, Repr

/-- A turn in the course of AT against the converters' clock (R62, R63, R70, R270, R428): the Tc that AT had run at its trim since the
round's start when it came, by how much AT jumped and by how much of that without steps, and the trim from there on, in 10^-9. -/
structure HkTurn where
  pos : Int
  jump : Int
  smooth : Int
  trim : Int
  deriving DecidableEq, Repr

/-- The housekeeping block beside its registers (R268–R279). -/
structure Hk where
  convs : SMap HkConv := []
  /-- AT of the round's start, the same in AT counted without steps, and its tempo boundary; ROUND_DONE has not been set for it. -/
  roundAt : Nat := 0
  roundMono : Nat := 0
  roundTempo : Option Nat := none
  running : Bool := false
  /-- The turns in the course of AT since the round's start, oldest first; the Tc of AT, without steps, that are not run at its trim:
  slews, and what passed in deep sleep (R63, R70, R270, R428). -/
  turns : List HkTurn := []
  off : Int := 0
  /-- AT without steps and AT at the entry into deep sleep, while it lasts: the converters stand still (R428). -/
  slept : Option (Int × Int) := none
  /-- By channel, when the first averaged sample of its last result was taken, in AT counted without steps (R284). -/
  taken : SMap Nat := []
  queue : List Nat := []
  /-- Consecutive mismatched rounds; the cross-check values of this round, none where the result carries COLD (R279). -/
  bad : Nat := 0
  xa : Option (Option Int) := none
  xb : Option (Option Int) := none
  deriving DecidableEq, Repr

/-- The thermal supervisor beside its registers: dwell counts and directions of the dies BD, DCD, SCD (0–2) and of the external
inputs (3 + i), and the evaluations in a row with E > 0 and with E ≤ −2 °C by side (R288, R293). -/
structure Th where
  cnt : SMap Nat := []
  up : SMap Bool := []
  hotRun : SMap Nat := []
  coolRun : SMap Nat := []
  deriving DecidableEq, Repr

/-- What the meter has gathered for one window over the running period (R235): block powers in 10^-12 mW. -/
structure WinAcc where
  sum : Nat := 0
  cnt : Nat := 0
  burstSum : Nat := 0
  burstCnt : Nat := 0
  peak : Nat := 0
  dwells : Nat := 0
  us : Nat := 0
  above : Bool := false
  /-- A condition of R237 failed for a dwell. -/
  bad : Bool := false
  deriving DecidableEq, Repr

/-- The dwell that a receiver is in or that comes next (R233): its window with FC and BW in kHz, its length in µs, and the
correction of the receiver's gain in 0.001 dB (R234), all as they were when it began. -/
structure Dwell where
  win : Nat
  fc : Nat
  bw : Nat
  us : Nat
  gain : Int
  deriving DecidableEq, Repr

/-- What the ZMD holds in memory that every restart loses (R224). -/
structure ZmdMem where
  /-- Start complete; ZT in ZM_CORE cycles (R226). -/
  run : Bool := false
  zt : Nat := 0
  sealed : Nat := 0
  calGen : Nat := 0
  monLost : Bool := false
  session : Bool := false
  /-- FLAGS.CLK_FAULT waits for the first report (R227). -/
  clkFlag : Bool := false
  /-- Windows in force, 16 × input + window to FC and BW in kHz; those of the board calibration; PERIOD and DWELL (R232–R236). -/
  wins : SMap (Nat × Nat) := []
  calWins : SMap (Nat × Nat) := []
  period : Nat := 100
  dwell : Nat := 100
  /-- Settings that wait for the next period start: window to definition or removal, timing, nonce; the nonce in force (R243). -/
  winNew : SMap (Option (Nat × Nat)) := []
  timeNew : Option (Nat × Nat) := none
  nonceNew : Option (List Nat) := none
  nonce : List Nat := []
  /-- By input, the window of the last dwell and the dwell that runs (R233); by 16 × input + window, the sums of the period; by
  input, the correction that the last reference check found and the gain correction in force, in 0.001 dB (R234). -/
  last : SMap Nat := []
  dwells : SMap Dwell := []
  acc : SMap WinAcc := []
  refCorr : SMap Int := []
  gain : SMap Int := []
  /-- The running period: its ZT at the start, the last PPS edge in it, its decisions, and its time without permit: cycles
  summed, and ZT since which the permit is absent (R240). -/
  start : Nat := 0
  pps : Option Nat := none
  events : Nat := 0
  absent : Nat := 0
  absentFrom : Option Nat := none
  /-- SEQ of the last period that ended; the report that is being signed; the reports held, newest first (R240, R241). -/
  seq : Nat := 0
  signing : Option (Nat × List Nat) := none
  reports : List (Nat × List Nat) := []
  /-- The guard (R238, R239): a hold is in force, ZT at which it began, its length in ms, ZT of the end of the last hold; decisions
  since the start; the last 32 decisions, newest first: ZT, cause, input. -/
  hold : Bool := false
  holdFrom : Nat := 0
  holdMs : Nat := 10
  holdEnd : Option Nat := none
  guardCnt : Nat := 0
  decisions : List (Nat × Nat × Nat) := []
  /-- A generation image that CAL_WRITE stages (R231). -/
  image : SMap Nat := []
  /-- The report on the mirror link: SEQ, its bytes, whether the board die may publish it (R245), whether a frame was lost. -/
  mir : Option (Nat × List Nat × Bool) := none
  mirBad : Bool := false
  deriving DecidableEq, Repr

/-- The Zarid metrology die (R224–R245): its memory, and what a restart keeps. -/
structure Zmd where
  mem : ZmdMem := {}
  /-- A clock fault waits for its restart (R227). -/
  clkWait : Bool := false
  /-- The die is in thermal shutdown (R295). -/
  hot : Bool := false
  /-- How often the permit has fallen (R101). -/
  drops : Nat := 0
  /-- The seal monitor (R228): its count, and whether VBAT has been lost since the last start (R245). -/
  bootEpoch : Nat := 0
  vbatLost : Bool := false
  /-- Board-calibration slots used, and the images whose valid marker is burned (R231), by slot 1–4. -/
  used : Nat := 0
  slots : SMap (SMap Nat) := []
  /-- The bytes of the last response frame on the meter port, and how many MP_EVT_N pulses there have been (R242). -/
  resp : Option (List Nat) := none
  evts : Nat := 0
  deriving DecidableEq, Repr

/-- The privilege modes of a supervisor core (R334). -/
inductive Priv where
  | user
  | supervisor
  | machine
  deriving DecidableEq, Repr

/-- The memories of the supervisor cores (R336). -/
inductive CoreMem where
  | tcm
  | sram
  deriving DecidableEq, Repr

/-- A translation that the TLB of a core holds (R335, R347): virtual page, level of the leaf, ASID, and the leaf entry. -/
structure TlbEnt where
  vpn : Nat
  level : Nat
  asid : Nat
  pte : Nat
  deriving DecidableEq, Repr

/-- A supervisor core (R334–R349). What its two caches, its TLB and its branch predictor hold is state, since stale instructions
and translations act and the counters show misses. -/
structure Hart where
  mode : Priv := .machine
  pc : Xword := 0
  /-- x1–x31 and f0–f31. -/
  xs : SMap Xword := []
  fs : SMap Xword := []
  /-- CSRs by number, each with the bits that software writes; a view of another CSR has no entry of its own. -/
  csrs : SMap Xword := []
  /-- The SUP cycle up to which mcycle has counted (R349). -/
  cycAt : Nat := 0
  /-- The 8 bytes that a load-reserved holds, by BAR0 offset ÷ 8 (R335). -/
  resv : Option Nat := none
  /-- The instruction cache: 2 × set + way to the number of the SRAM line and its 64 bytes; the data cache, which never differs from
  SRAM: to the number of the line (R335, R337). -/
  icache : SMap (Nat × Nat) := []
  dcache : SMap Nat := []
  tlb : List TlbEnt := []
  /-- Branch history table, branch target buffer, and the return stack, top first (R335). -/
  bht : SMap Nat := []
  btb : SMap Nat := []
  ras : List Nat := []
  /-- An uncorrectable error that the next access to this memory meets (R341). -/
  bad : Option CoreMem := none
  deriving DecidableEq, Repr

-- BLOCKS

/-- How the last bus access completed (R2, R6, R354): who asked, the data a read returned, and whether it completed
with Unsupported Request; for an access by a core, the exception that it raises: its cause and the address (R338, R339) (DESIGN CHOICE, log 7). -/
structure BusResp where
  req : Requester := .pf
  data : Nat := 0
  unsupported : Bool := false
  exc : Option (Nat × Nat) := none
  deriving DecidableEq, Repr

/-- What the data register that the instruction selects captures, and a scan shifts out on TDO (R417): the identification register, the
bypass bit, or the boundary cells in an order the spec does not give. -/
inductive TapDr where
  | idcode (w : Nat)
  | bypass
  | boundary (cells : Nat)
  deriving DecidableEq, Repr

/-- The test access port (R417, R418): the instruction register (IDCODE after Test-Logic-Reset) and the data register it selects; the
preloaded boundary cells: those of the 16 PWMH and PWML pairs, and all others in an order the spec does not give; and the boundary count
from which the stop of an instruction that is gone may be released. -/
structure Tap where
  ir : Nat := 2
  dr : TapDr := .idcode 0x188485B3
  pwmH : Nat := 0
  pwmL : Nat := 0
  others : Nat := 0
  offAt : Nat := 0
  deriving DecidableEq, Repr

/-- A capture descriptor (R373). -/
structure CapDesc where
  tag : Nat
  nElem : Nat
  format : Nat
  start : Nat
  src : Nat
  unit : Nat
  streams : Nat
  startAt : Nat
  gather : Nat
  irq : Bool
  deriving DecidableEq, Repr

/-- A block of samples that an engine holds (R370, R371): the descriptor's sample instants before its first, the samples lost just before
it, AT less its count without steps at its first sample, whether that changed within it, and its instants, each with one sample for each
selected stream. -/
structure CapBlock where
  idx : Nat := 0
  lost : Nat := 0
  off : Int := 0
  step : Bool := false
  rows : List (List (Option Cx)) := []
  deriving DecidableEq, Repr

/-- A descriptor that an engine runs, or that is paused (R372–R381). Instants are counted without steps of AT. -/
structure CapRun where
  q : Nat
  /-- None while the descriptor is being fetched. -/
  desc : Option CapDesc := none
  /-- Its start condition has come; START_AT had passed (R376). -/
  started : Bool := false
  late : Bool := false
  /-- The element that is due or runs; the fetch of its entry: OFFSET, PAGES and the rest, or none for an error. -/
  elem : Nat := 1
  entry : Option (Option (Nat × Nat × Nat)) := none
  /-- An element runs: pages it still receives, host address of the next, and writes of the last record not issued. -/
  run : Bool := false
  pages : Nat := 0
  host : Nat := 0
  left : Nat := 0
  /-- Elements complete, records written, samples lost, and the flags of the records (R375). -/
  done : Nat := 0
  records : Nat := 0
  gap : Nat := 0
  flags : Nat := 0
  atFirst : Nat := 0
  /-- START_AT or the fire time, before which no sample counts, and when the first element started (R376); the instant of the first
  sample, in 2^-16 Tc, known with its record. -/
  notBefore : Option Int := none
  began : Int := 0
  base : Option Int := none
  /-- A streamed descriptor takes samples; the position up to which it has, as of a square's samples, and what a converter clock and a
  sample are there; sample instants since the first, lost ones included, and those lost since the last that found room (R379). -/
  taking : Bool := false
  pos : Nat := 0
  clock : Nat := 1
  step : Nat := 1
  idx : Nat := 0
  missed : Nat := 0
  /-- The block that fills, newest instant first; the whole blocks, oldest first; streams of the oldest that have their record. -/
  part : CapBlock := {}
  blocks : List CapBlock := []
  blk : Nat := 0
  /-- A raw lane's snapshot, newest first, and how many samples of it there are; AT less its count without steps from a sample on,
  newest first (R376). -/
  raw : List Int := []
  filled : Nat := 0
  offs : List (Nat × Int) := []
  /-- The source left the function within the element (R374). -/
  denied : Bool := false
  /-- ABORT or a reset of the function ends it after its element (R364, R381). -/
  abort : Bool := false
  flr : Bool := false
  deriving DecidableEq, Repr

/-- A capture queue beside its registers: its paused descriptor, whether the pause has ended, whether the quota holds the descriptors that
wait in it, and the TAIL up to which the descriptors end with ABORTED. -/
structure CapQ where
  paused : Option CapRun := none
  ready : Bool := false
  barred : Bool := false
  abortTo : Option Nat := none
  deriving DecidableEq, Repr

/-- A capture engine: its current descriptor, and the queue last served. -/
structure CapEng where
  cur : Option CapRun := none
  last : Nat := 9
  deriving DecidableEq, Repr

/-- A record as written (R370): host address, header, samples. -/
structure CapRec where
  addr : Nat
  format : Nat
  flags : Nat
  tag : Nat
  src : Nat
  stream : Nat
  sq : Nat
  count : Nat
  seq : Nat
  time : Nat
  frac : Nat
  lost : Nat
  rate : Nat
  data : List Int
  deriving DecidableEq, Repr

/-- A completion record as written (R375). -/
structure CapCpl where
  addr : Nat
  tag : Nat
  status : Nat
  index : Nat
  done : Nat
  flags : Nat
  records : Nat
  atFirst : Nat
  gap : Nat
  deriving DecidableEq, Repr

/-- A write that an engine made to host memory (R352): the function of its Requester ID, whether it carries the Relaxed Ordering
attribute, its address and its bytes; its virtual channel and traffic class. -/
structure HostWrite where
  func : Nat
  relaxed : Bool
  addr : Nat
  bytes : List Nat
  vc : Nat := 0
  tc : Nat := 0
  deriving DecidableEq, Repr

/-- A read of a descriptor or a gather entry that an engine requested from host memory (R352): as `HostWrite`, with its length. -/
structure HostRead where
  func : Nat
  relaxed : Bool
  addr : Nat
  bytes : Nat
  vc : Nat := 0
  tc : Nat := 0
  deriving DecidableEq, Repr

/-- Capture DMA beside its registers (R368–R383): engines, queues by 16 × engine + queue, the writes in flight as runs of
(function, count), oldest first, the bandwidth buckets in 1/12 byte by VF, and what was written to the host and asked of it last. -/
structure Cap where
  engs : SMap CapEng := []
  qs : SMap CapQ := []
  flight : List (Nat × Nat) := []
  bucket : SMap Nat := []
  lastRec : Option CapRec := none
  lastCpl : Option CapCpl := none
  lastWrite : Option HostWrite := none
  lastRead : Option HostRead := none
  deriving DecidableEq, Repr

/-- An access to the supervisor memories that waits for SUP_STATUS.INIT_DONE (R342): a write with its value, or a read. -/
structure MemAccess where
  req : Requester
  addr : Nat
  half : Half
  value : Option Nat
  deriving DecidableEq, Repr

/-- Power and reset beside their registers (R420–R431). -/
structure Pwr where
  /-- The kind of the reset that holds the board die, as LAST_RESET gives it: 0 cold, 1 PERST#, 2 PWR_RST, 3 thermal (R424). -/
  kind : Option Nat := none
  /-- The board die's junction has not been below 105 °C for 1 s since its shutdown (R295). -/
  bdHot : Bool := false
  /-- The retention flag (R426). -/
  retFlag : Bool := true
  /-- VDD_IO has risen since the last cold release, and VIO_SEL was sampled as it rose (R442). -/
  vioRose : Bool := false
  deriving DecidableEq, Repr

/-- The block's state, all of it but the byte memories and the queue. -/
structure Chip where
  /-- Registers, field by field: `Fld.key` to value; what is not listed holds its reset value. -/
  regs : SMap Nat := []
  /-- Shadow values that differ from the active ones, by `Fld.key` (R8, R207). -/
  shadow : SMap Nat := []
  /-- Claimed targets: target to context (R208). -/
  claims : SMap Nat := []
  bus : BusResp := {}
  /-- How many free values have been taken (the model's own counter). -/
  freeCtr : Nat := 0
  flt : Flt := {}
  int : IntSt := {}
  air : Air := {}
  img : Img := {}
  bridges : SMap Bridge := []
  /-- Converter clocks of the sample lanes since reset; the samples of each receive lane (die × 8 + lane), and of each transmit lane as
  they left the back combiner, newest first; failed sample flits of a receive lane, and from 16 on of a transmit lane, that no block has
  taken yet (R22, R31, R32). -/
  smp : Nat := 0
  adc : SMap (List Int) := []
  dac : SMap (List Int) := []
  rxLost : SMap Nat := []
  /-- What the squares and injectors have handed to the back combiner (R116), by (16 × time + transmit lane) × 512 + sub-band. -/
  comb : SMap Cx := []
  /-- The last sample flit that the DACs of each transmit lane play (R31, R90). -/
  dacFlit : SMap Nat := []
  /-- Adaptation suspended on a receive lane (die × 8 + lane) through this tempo count (R32). -/
  laneSusp : SMap Nat := []
  sqs : SMap Sq := []
  ranks : SMap Rank := []
  prt : Prt := {}
  gpl : Gpl := {}
  ten : Ten := {}
  /-- RX_GAIN of each lane as latched at the last plan application (R127). -/
  rxGain : SMap Int := []
  cnvs : SMap Cnv := []
  rffes : SMap Rffe := []
  chl : Chl := {}
  /-- Timed outputs that have taken an occurrence (or, on the board die, a force) since their bridge was last UP (R105); those
  that have since their die was last in another state than RUN (R104); and the level that each took. -/
  trTaken : Nat := 0
  trLive : Nat := 0
  trLevel : Nat := 0
  /-- Tc advanced when each timed output last took an occurrence (R105). -/
  trAt : SMap Nat := []
  /-- The reference clock is present at its balls (R97). -/
  refIn : Bool := true
  zmd : Zmd := {}
  pwms : SMap Pwm := []
  hk : Hk := {}
  th : Th := {}
  /-- A mirror status frame has arrived since the board die's last reset (R245). -/
  mirSeen : Bool := false
  cap : Cap := {}
  tap : Tap := {}
  /-- Accesses to TCM and SRAM that wait for the end of the zeroing (R342). -/
  supHeld : List MemAccess := []
  /-- The supervisor cores (R334). -/
  harts : SMap Hart := []
  pwr : Pwr := {}
  /-- Supply rails that have failed and are not good again (R420). -/
  railBad : List Rail := []
  deriving DecidableEq, Repr

/-- The machine: the block, its byte-addressed memories, and the commands that wait, first in first out. -/
structure State where
  chip : Chip := {}
  /-- TCM and SRAM of the supervisor cores by BAR0 offset; an unlisted byte reads 0 (R342). -/
  mem : List Host.Cell := []
  pending : List Instr := []
  deriving DecidableEq, Repr

/-- No command of this block stops it with a fault: errors are reported in registers. -/
inductive Fault where
  deriving DecidableEq, Repr

/-- Why a command has no meaning. -/
inductive Refusal where
  /-- Raised by the dispatch alone, for a command whose meaning is not written. Safe: nothing is claimed of it. -/
  | notModelled (mnemonic : String)
  deriving DecidableEq, Repr

/-- The machine right after reset: every field at its reset value, nothing listed in memory, nothing waiting (R9, R450) (DESIGN CHOICE, log 11). -/
def State.reset : State := {}

end Sys2Proof.Machine
end

