-- ==== Sys2Proof/Machine/Ops.lean ====
section
/-!
DEFINITION. The named operations on the state that every family of commands shares: reading and writing register
fields, the parts held beside the registers, time, the image's words, and the mute sources of the squares.
-/

namespace Sys2Proof

/-! ## Requesters -/

/-- The function or core that MASTER names for a requester (R308). -/
def Requester.master : Requester → Nat
  | .pf => 0
  | .vf i => i.val + 1
  | .core k => 9 + k.val

/-- The context of a requester (R207). -/
def Requester.ctx : Requester → Nat
  | .pf => 0
  | .vf i => i.val + 1
  | .core _ => 9

/-- The address a fault record gives for a register access: the BAR0 offset, or the core's own address (R308, R448). -/
def Requester.addr (q : Requester) (a : Nat) : Nat :=
  match q with
  | .core _ => 0x40000000 + a
  | _ => a

/-- Whether the requester is the PF. -/
def Requester.isPf : Requester → Bool
  | .pf => true
  | _ => false

/-- Whether the requester is a supervisor core. -/
def Requester.isCore : Requester → Bool
  | .core _ => true
  | _ => false

/-- Whether the requester is a VF. -/
def Requester.isVf : Requester → Bool
  | .vf _ => true
  | _ => false

end Sys2Proof

namespace Sys2Proof.Machine

/-! ## Register fields -/

/-- The value of a field. -/
def Chip.rd (c : Chip) (f : Fld) : Nat := SMap.get f.rst c.regs f.key

/-- The value of a field read as two's complement (R15). -/
def Chip.rdS (c : Chip) (f : Fld) : Int := toS f.wd (c.rd f)

/-- Whether a field is not 0. -/
def Chip.on (c : Chip) (f : Fld) : Bool := c.rd f ≠ 0

/-- Set a field to the low bits of `v`. -/
def Chip.wr (c : Chip) (f : Fld) (v : Nat) : Chip := { c with regs := SMap.put f.rst c.regs f.key (v % 2 ^ f.wd) }

/-- Set a two's-complement field, saturating to its range. -/
def Chip.wrS (c : Chip) (f : Fld) (i : Int) : Chip := c.wr f (ofS f.wd (satS f.wd i))

/-- Set a one-bit field. -/
def Chip.wrB (c : Chip) (f : Fld) (b : Bool) : Chip := c.wr f (b2n b)

/-- Set a field to all ones or, for one bit, to 1: how hardware sets a status bit. -/
def Chip.raise (c : Chip) (f : Fld) : Chip := c.wr f 1

/-- Advance a counting field, saturating. -/
def Chip.inc (c : Chip) (f : Fld) (k : Nat := 1) : Chip := c.wr f (satU f.wd (c.rd f + k))

/-- Set bit `i` of a field. -/
def Chip.wrBit (c : Chip) (f : Fld) (i : Nat) (b : Bool) : Chip := c.wr f (putBit (c.rd f) i b)

/-- Bit `i` of a field. -/
def Chip.rdBit (c : Chip) (f : Fld) (i : Nat) : Bool := bit (c.rd f) i

/-- Apply `g` when `b` holds. -/
def Chip.when (c : Chip) (b : Bool) (g : Chip → Chip) : Chip := if b then g c else c

/-- Apply `g k` for every `k` of a list, in order. -/
def Chip.forEach (c : Chip) (l : List Nat) (g : Nat → Chip → Chip) : Chip := l.foldl (fun c k => g k c) c

/-- A free value: what the spec leaves open, fresh each time (DESIGN CHOICE, log 2). -/
def Chip.free (c : Chip) : Nat := Config.freeValue c.freeCtr

/-- The free value has been used. -/
def Chip.tick (c : Chip) : Chip := { c with freeCtr := c.freeCtr + 1 }

/-! ## Parts beside the registers -/

/-- The memory of square `n`. -/
def Chip.sq (c : Chip) (n : Nat) : Sq := SMap.get {} c.sqs n

/-- Change the memory of square `n`. -/
def Chip.setSq (c : Chip) (n : Nat) (g : Sq → Sq) : Chip := { c with sqs := SMap.put {} c.sqs n (g (c.sq n)) }

/-- The memory of rank `k`. -/
def Chip.rk (c : Chip) (k : Nat) : Rank := SMap.get {} c.ranks k

/-- Change the memory of rank `k`. -/
def Chip.setRk (c : Chip) (k : Nat) (g : Rank → Rank) : Chip := { c with ranks := SMap.put {} c.ranks k (g (c.rk k)) }

/-- The bridge of die `d` (0 = DCD, 1 = SCD). -/
def Chip.br (c : Chip) (d : Nat) : Bridge := SMap.get {} c.bridges d

/-- Change the bridge of die `d`. -/
def Chip.setBr (c : Chip) (d : Nat) (g : Bridge → Bridge) : Chip := { c with bridges := SMap.put {} c.bridges d (g (c.br d)) }

/-- Change the collector's memory. -/
def Chip.setFlt (c : Chip) (g : Flt → Flt) : Chip := { c with flt := g c.flt }
/-- Change the interrupt controller's memory. -/
def Chip.setInt (c : Chip) (g : IntSt → IntSt) : Chip := { c with int := g c.int }
/-- Change the timeline's memory. -/
def Chip.setAir (c : Chip) (g : Air → Air) : Chip := { c with air := g c.air }
/-- Change the image loader's memory. -/
def Chip.setImg (c : Chip) (g : Img → Img) : Chip := { c with img := g c.img }
/-- Change the protection unit's memory. -/
def Chip.setPrt (c : Chip) (g : Prt → Prt) : Chip := { c with prt := g c.prt }
/-- Change the tenancy memory. -/
def Chip.setTen (c : Chip) (g : Ten → Ten) : Chip := { c with ten := g c.ten }
/-- A tenancy field's value in force (R361). -/
def Chip.ten? (c : Chip) (f : Fld) : Nat := SMap.get f.rst c.ten.inForce f.key
/-- The owner of square `n`: 0 = PF, 1–8 = VF (R358). -/
def Chip.owner (c : Chip) (n : Nat) : Nat := bits (c.rd (F.TEN_OWNER_OWNER (n / 16))) (4 * (n % 16)) 4
/-- The memory of converter die `d`. -/
def Chip.cv (c : Chip) (d : Nat) : Cnv := SMap.get {} c.cnvs d
/-- Change the memory of converter die `d`. -/
def Chip.setCv (c : Chip) (d : Nat) (g : Cnv → Cnv) : Chip := { c with cnvs := SMap.put {} c.cnvs d (g (c.cv d)) }
/-- RFFE master `m`. -/
def Chip.rf (c : Chip) (m : Nat) : Rffe := SMap.get {} c.rffes m
/-- Change RFFE master `m`. -/
def Chip.setRf (c : Chip) (m : Nat) (g : Rffe → Rffe) : Chip := { c with rffes := SMap.put {} c.rffes m (g (c.rf m)) }
/-- Change the plan unit's memory. -/
def Chip.setGpl (c : Chip) (g : Gpl → Gpl) : Chip := { c with gpl := g c.gpl }

/-- Housekeeping converter `x` (0 = A, 1 = B). -/
def Chip.hkc (c : Chip) (x : Nat) : HkConv := SMap.get {} c.hk.convs x
/-- Change the housekeeping block. -/
def Chip.setHk (c : Chip) (g : Hk → Hk) : Chip := { c with hk := g c.hk }
/-- AT without steps, and AT, with the slew that waits for the next AIR cycle. -/
def Chip.smoothAt (c : Chip) : Int := c.air.mono + c.air.slewAdj
@[inherit_doc Chip.smoothAt] def Chip.slewnAt (c : Chip) : Int := c.rd F.AIR_AT_AT + c.air.slewAdj
/-- At the count `m` without steps AT jumps by `jump` Tc, `smooth` of them without a step, or takes another trim: the instants of the
housekeeping round take it into account (R270). In deep sleep the converters stand still, and the wake accounts for it all (R428). -/
def Chip.hkTurn (c : Chip) (m jump smooth : Int) : Chip :=
  if c.hk.slept.isSome then c else
  c.setHk fun x => { x with
    turns := x.turns ++ [{ pos := m - x.roundMono - x.off, jump, smooth, trim := c.rdS F.AIR_TRIM_TRIM }], off := x.off + smooth }
/-- The converters stop at the entry into deep sleep; at the wake, what AT ran meanwhile is a jump (R270, R428). -/
def Chip.hkSleep (c : Chip) : Chip := c.setHk fun x => { x with slept := some (c.smoothAt, c.slewnAt) }
@[inherit_doc Chip.hkSleep] def Chip.hkWake (c : Chip) : Chip :=
  match c.hk.slept with
  | none => c
  | some (m, a) => (c.setHk fun x => { x with slept := none }).hkTurn m (c.slewnAt - a) (c.smoothAt - m)
/-- Change housekeeping converter `x`. -/
def Chip.setHkc (c : Chip) (x : Nat) (g : HkConv → HkConv) : Chip :=
  c.setHk fun k => { k with convs := SMap.put {} k.convs x (g (c.hkc x)) }
/-- Change the thermal supervisor. -/
def Chip.setTh (c : Chip) (g : Th → Th) : Chip := { c with th := g c.th }

/-- PWM channel `i`. -/
def Chip.pw (c : Chip) (i : Nat) : Pwm := SMap.get {} c.pwms i
/-- Change PWM channel `i`. -/
def Chip.setPw (c : Chip) (i : Nat) (g : Pwm → Pwm) : Chip := { c with pwms := SMap.put {} c.pwms i (g (c.pw i)) }

/-- Supervisor core `k`. -/
def Chip.hart (c : Chip) (k : Nat) : Hart := SMap.get {} c.harts k
/-- Change supervisor core `k`. -/
def Chip.setHart (c : Chip) (k : Nat) (g : Hart → Hart) : Chip := { c with harts := SMap.put {} c.harts k (g (c.hart k)) }

/-- Whether the ZMD gives its permit (R20, R226, R229, R239, R295). -/
def Zmd.permit (z : Zmd) : Bool := z.mem.run && (z.mem.sealed = 1 || z.mem.sealed = 2) && !z.mem.hold && !z.hot
/-- Change the ZMD, counting its time without permit (R240). -/
def Chip.setZmd (c : Chip) (g : Zmd → Zmd) : Chip :=
  let z := g c.zmd
  let z := if c.zmd.permit && !z.permit then { z with drops := z.drops + 1 } else z
  let z := match z.permit, z.mem.absentFrom with
    | false, none => { z with mem := { z.mem with absentFrom := some z.mem.zt } }
    | true, some t => { z with mem := { z.mem with absentFrom := none, absent := z.mem.absent + (z.mem.zt - t) } }
    | _, _ => z
  { c with zmd := z }
/-- Change the ZMD's memory. -/
def Chip.setZm (c : Chip) (g : ZmdMem → ZmdMem) : Chip := c.setZmd fun z => { z with mem := g z.mem }

/-- Capture engine `e`. -/
def Chip.eng (c : Chip) (e : Nat) : CapEng := SMap.get {} c.cap.engs e
/-- Change capture memory. -/
def Chip.setCap (c : Chip) (g : Cap → Cap) : Chip := { c with cap := g c.cap }
/-- Change capture engine `e`. -/
def Chip.setEng (c : Chip) (e : Nat) (g : CapEng → CapEng) : Chip :=
  c.setCap fun x => { x with engs := SMap.put {} x.engs e (g (c.eng e)) }
/-- Queue `q` of capture engine `e`. -/
def Chip.capq (c : Chip) (e q : Nat) : CapQ := SMap.get {} c.cap.qs (16 * e + q)
/-- Change queue `q` of capture engine `e`. -/
def Chip.setCapq (c : Chip) (e q : Nat) (g : CapQ → CapQ) : Chip :=
  c.setCap fun x => { x with qs := SMap.put {} x.qs (16 * e + q) (g (c.capq e q)) }

/-- Chain Link port `p`. -/
def Chip.port (c : Chip) (p : Nat) : ChlPort := SMap.get {} c.chl.ports p
/-- Change Chain Link's memory. -/
def Chip.setChl (c : Chip) (g : Chl → Chl) : Chip := { c with chl := g c.chl }
/-- Change Chain Link port `p`. -/
def Chip.setPort (c : Chip) (p : Nat) (g : ChlPort → ChlPort) : Chip :=
  c.setChl fun x => { x with ports := SMap.put {} x.ports p (g (c.port p)) }

/-! ## Time -/

/-- The Air Timeline count (R62) (DEDUCED, log 70). -/
def Chip.now (c : Chip) : Nat := c.rd F.AIR_AT_AT

/-- The number of the running tempo, AT ÷ 4,096 (R36, R177). -/
def Chip.tempoNum (c : Chip) : Nat := c.now / 4096

/-- The first tempo boundary that is not earlier than now, counted in boundaries since reset. -/
def Chip.ceilTempo (c : Chip) : Nat := c.air.tempi + if c.air.onB then 0 else 1

/-- Whether the machine stands at a tempo boundary that is at least `n` tempi after the boundary counted as `from0`. -/
def Chip.dueAfter (c : Chip) (from0 n : Nat) : Bool := c.air.onB && decide (from0 + n ≤ c.air.tempi)

/-- Whether something that waits from a boundary count on is due at the boundary at which the block stands. -/
def Chip.dueAt (c : Chip) (t : Nat) : Bool := c.air.onB && decide (t ≤ c.air.tempi)

/-- The next tempo boundary (R64), not before the end of the first tempo after a step (R70). -/
def Chip.nextBoundary (c : Chip) : Nat :=
  let t := (c.now / 4096 + 1) * 4096
  if c.air.mono + (t - c.now) < c.air.notBefore then t + 4096 else t

/-- C of R65: one SFN cycle in Tc. -/
def sfnCycle : Nat := 20132659200

/-- AT, which wraps at 64 bits, takes the value `t`, and EPOCH follows it (R62, R65). -/
def Chip.setAt (c : Chip) (t : Nat) : Chip := (c.wr F.AIR_AT_AT t).wr F.AIR_EPOCH_EPOCH (t % 2 ^ 64 / sfnCycle)

/-- AT moves on by `k` Tc (R62, R63), and EPOCH with it across a multiple of C (R65). -/
def Chip.advance (c : Chip) (k : Nat) : Chip :=
  if k = 0 then c else (c.setAt (c.now + k)).setAir fun x => { x with mono := x.mono + k, onB := false }

/-- An event whose instant is `t` has come: AT reaches `t`, if no tempo boundary lies between. -/
def Chip.reach (c : Chip) (t : Nat) : Chip := if t < c.nextBoundary then c.advance (t - c.now) else c

/-- Whether an event at the instant `t` can be now: `t` is past, or lies before the next tempo boundary (DESIGN CHOICE, log 12). -/
def Chip.canBe (c : Chip) (t : Nat) : Bool := decide (t < c.nextBoundary)

/-- The recovery interval in tempi (R218). -/
def Chip.recov (c : Chip) : Nat := c.rd F.GPL_CFG_RECOV_TEMPI

/-! ## The image's words (R41–R43) -/

/-- Structure word `i`; while an erasure runs, every word reads 0 (R57). -/
def Chip.word (c : Chip) (i : Nat) : Nat := if c.img.erasing then 0 else SMap.get 0 c.img.space i

/-- Word `w` of the block of square `n`. -/
def Chip.sqw (c : Chip) (n w : Nat) : Nat := c.word (16 * n + w)

/-- SQS_SLOT.SLOT_BW, in 100 kHz. -/
def Chip.slotBw (c : Chip) (n : Nat) : Nat := bits (c.sqw n 0) 0 12
/-- SQS_SLOT.SUB_FIRST. -/
def Chip.subFirst (c : Chip) (n : Nat) : Nat := bits (c.sqw n 0) 16 9
/-- SQS_SLOT.SUB_LAST. -/
def Chip.subLast (c : Chip) (n : Nat) : Nat := bits (c.sqw n 0) 32 9
/-- SQS_INXBAR.LANE_EN. -/
def Chip.laneEn (c : Chip) (n : Nat) : Nat := bits (c.sqw n 1) 0 8
/-- SQS_OUTXBAR.DEST of transmit lane `t`. -/
def Chip.dest (c : Chip) (n t : Nat) : Nat := bits (c.sqw n 2) (2 * t) 2
/-- SQS_OUTXBAR.STREAM. -/
def Chip.stream (c : Chip) (n : Nat) : Nat := bits (c.sqw n 2) 32 8
/-- SQS_TAPS.FIR_TAPS. -/
def Chip.firTaps (c : Chip) (n : Nat) : Nat := bits (c.sqw n 3) 0 9
/-- SQS_TAPS.ECHO_TAPS. -/
def Chip.echoTaps (c : Chip) (n : Nat) : Nat := bits (c.sqw n 3) 16 7
/-- SQS_CAPTAP.TAP_EN. -/
def Chip.tapEn (c : Chip) (n : Nat) : Nat := bits (c.sqw n 7) 0 4

/-- Whether square `n` is routed (R48). -/
def Chip.routed (c : Chip) (n : Nat) : Bool :=
  if n < 32 then c.rdBit F.TOP_ROUTED_LO_SQ_A n else if n < 64 then c.rdBit F.TOP_ROUTED_LO_SQ_B (n - 32)
  else if n < 96 then c.rdBit F.TOP_ROUTED_HI_SQ_C (n - 64) else c.rdBit F.TOP_ROUTED_HI_SQ_D (n - 96)

/-- Write the routed bit of square `n`. -/
def Chip.setRouted (c : Chip) (n : Nat) (b : Bool) : Chip :=
  if n < 32 then c.wrBit F.TOP_ROUTED_LO_SQ_A n b else if n < 64 then c.wrBit F.TOP_ROUTED_LO_SQ_B (n - 32) b
  else if n < 96 then c.wrBit F.TOP_ROUTED_HI_SQ_C (n - 64) b else c.wrBit F.TOP_ROUTED_HI_SQ_D (n - 96) b

/-- Resolved size of the bonded group of `n`; 0 = not bonded (R134). -/
def Chip.bondSize (c : Chip) (n : Nat) : Nat := c.rd (F.SQ_ID_BOND_SIZE n)

/-- The leader that stands for square `n`: itself unless it is another member of a bonded group (R134). -/
def Chip.leader (c : Chip) (n : Nat) : Nat := if c.bondSize n = 0 then n else n - c.rd (F.SQ_ID_BOND_POS n)

/-- Whether `n` is a member of a bonded group other than its leader. -/
def Chip.isMember (c : Chip) (n : Nat) : Bool := c.leader n ≠ n

/-- The squares of the group that `n` leads, or `n` alone. -/
def Chip.group (c : Chip) (n : Nat) : List Nat :=
  (List.range (max 1 (c.bondSize n))).map fun i => c.leader n + i

/-- A square that stands for itself: routed and not a follower in a group. -/
def Chip.acts (c : Chip) (n : Nat) : Bool := c.routed n && !c.isMember n

/-- All square numbers. -/
def allSquares : List Nat := List.range 128

/-- The direction of a square: UL from SQ064 (R11). -/
def isUl (n : Nat) : Bool := 64 ≤ n

/-- The die whose ADCs a square receives from, 0 = DCD, 1 = SCD (R13, R21). -/
def rxDie (n : Nat) : Nat := if isUl n then 1 else 0

/-- The die whose DACs a square transmits on. -/
def txDie (n : Nat) : Nat := if isUl n then 0 else 1

/-- RFC_CHAIN index of receive lane `k` of square `n`: D0–D7 are 0–7, V0–V7 are 8–15 (R108). -/
def rxChain (n k : Nat) : Nat := 8 * rxDie n + k

/-- RFC_CHAIN index of transmit lane `t` of square `n`. -/
def txChain (n t : Nat) : Nat := 8 * txDie n + t

/-- Whether the path (r, t) of square `n` is present (R139): its bit, its routed receive lane, a routed square. -/
def Chip.pathOn (c : Chip) (n r t : Nat) : Bool := c.routed n && bit (c.laneEn n) r && bit (c.sqw n 4) (8 * r + t)

/-! ## Square states and mute sources (R130, R131) -/

/-- The mute sources of SQ_STATUS.MUTE_SRC. -/
inductive Ms where
  | fault | group | rank | wing | bridge | hold | protect | direction | stop | placement
  deriving DecidableEq, Repr

/-- The status bit of a mute source. -/
def Ms.fld (m : Ms) (n : Nat) : Fld :=
  match m with
  | .fault => F.SQ_STATUS_MS_FAULT n
  | .group => F.SQ_STATUS_MS_GROUP n
  | .rank => F.SQ_STATUS_MS_RANK n
  | .wing => F.SQ_STATUS_MS_WING n
  | .bridge => F.SQ_STATUS_MS_BRIDGE n
  | .hold => F.SQ_STATUS_MS_HOLD n
  | .protect => F.SQ_STATUS_MS_PROTECT n
  | .direction => F.SQ_STATUS_MS_DIRECTION n
  | .stop => F.SQ_STATUS_MS_STOP n
  | .placement => F.SQ_STATUS_MS_PLACEMENT n

/-- Every mute source, in register order. -/
def allMs : List Ms := [.fault, .group, .rank, .wing, .bridge, .hold, .protect, .direction, .stop, .placement]

/-- Whether any mute source of square `n` is set. -/
def Chip.muted (c : Chip) (n : Nat) : Bool := allMs.any fun m => c.on (m.fld n)

/-- The state of square `n` (R130). -/
def Chip.sqState (c : Chip) (n : Nat) : Nat := c.rd (F.SQ_STATUS_STATE n)

/-- A mute source has arisen, or ENABLE = 0 was applied: RAMP_UP and ON turn to RAMP_DOWN (R130). -/
def Chip.startMute (c : Chip) (n : Nat) : Chip :=
  if c.sqState n = 2 ∨ c.sqState n = 3 then
    (c.wr (F.SQ_STATUS_STATE n) 4).setSq n fun q => { q with onAll := false, byMute := c.muted n }
  else c

/-- Set a mute source on the square that stands for `n`, and start its mute ramp (R131, R134). -/
def Chip.setMs (c : Chip) (m : Ms) (n : Nat) : Chip := (c.raise (m.fld (c.leader n))).startMute (c.leader n)

/-- Clear a mute source of the square that stands for `n`. -/
def Chip.clrMs (c : Chip) (m : Ms) (n : Nat) : Chip := c.wr (m.fld (c.leader n)) 0

/-- A fault confined to square `n`: its own bit, or the group bit when another member raised it (R23, R24). -/
def Chip.faultMute (c : Chip) (n : Nat) : Chip := if c.isMember n then c.setMs .group n else c.setMs .fault n

/-- Set a mute source on every square of a list. -/
def Chip.setMsAll (c : Chip) (m : Ms) (l : List Nat) : Chip := c.forEach l fun n c => c.setMs m n

/-- The squares that the timeline hold mutes (R73): every UL square, and every DL square of a routed TDD pair. -/
def Chip.holdCovers (c : Chip) (n : Nat) : Bool := isUl n || (c.routed n && c.on (F.SQ_ID_PAIRED n))

/-- While the hold is active it mutes every square that it covers (R73). -/
def Chip.refreshHold (c : Chip) : Chip :=
  c.when (c.on F.AIR_STATUS_HELD) fun c => c.setMsAll .hold (allSquares.filter fun n => c.holdCovers n && !c.on ((Ms.hold).fld n))

end Sys2Proof.Machine
end

