-- ==== Sys2Proof/Machine/Hart.lean ====
section
/-!
DEFINITION. A supervisor core as the RISC-V privileged specification has it (R334, R335, R345, R346, R348, R349): its registers and
CSRs, pending interrupts, taking a trap and returning from one, the wake from WFI, and the counters.
-/

namespace Sys2Proof.Machine

/-! ## Registers -/

/-- The number of a mode. -/
def Priv.num : Priv → Nat
  | .user => 0
  | .supervisor => 1
  | .machine => 3

/-- The mode with this number; 2 names none. -/
def Priv.ofNum (n : Nat) : Priv := if n = 3 then .machine else if n = 1 then .supervisor else .user

/-- Register x`r`; x0 reads 0. -/
def Hart.x (h : Hart) (r : Nat) : Xword := if r = 0 then 0 else SMap.get 0 h.xs r
/-- Write x`r`; a write of x0 is discarded. -/
def Hart.setX (h : Hart) (r : Nat) (v : Xword) : Hart := if r = 0 then h else { h with xs := SMap.put 0 h.xs r v }
/-- Register f`r`. -/
def Hart.f (h : Hart) (r : Nat) : Xword := SMap.get 0 h.fs r
/-- A CSR as it is held. -/
def Hart.csr (h : Hart) (n : Nat) : Nat := (SMap.get (0 : Xword) h.csrs n).toNat
/-- Change a CSR as it is held. -/
def Hart.setCsr (h : Hart) (n v : Nat) : Hart := { h with csrs := SMap.put 0 h.csrs n (BitVec.ofNat 64 v) }
/-- Bit `i` of mstatus. -/
def Hart.status (h : Hart) (i : Nat) : Bool := bit (h.csr 0x300) i
/-- Set bit `i` of mstatus. -/
def Hart.setStatus (h : Hart) (i : Nat) (b : Bool) : Hart := h.setCsr 0x300 (putBit (h.csr 0x300) i b)
/-- Write f`r`, which makes mstatus.FS dirty. -/
def Hart.setF (h : Hart) (r : Nat) (v : Xword) : Hart :=
  ({ h with fs := SMap.put 0 h.fs r v }).setCsr 0x300 (Nat.lor (h.csr 0x300) 0x6000)
/-- mstatus.MPP. -/
def Hart.mpp (h : Hart) : Priv := Priv.ofNum (bits (h.csr 0x300) 11 2)
/-- Write mstatus.MPP. -/
def Hart.setMpp (h : Hart) (m : Priv) : Hart := (h.setStatus 11 (bit m.num 0)).setStatus 12 (bit m.num 1)

/-- A released core (R343): machine mode at SUP_BOOT, every CSR at its reset value (DESIGN CHOICE, log 115). -/
def Hart.boot (pc cyc : Nat) : Hart := { pc := BitVec.ofNat 64 pc, cycAt := cyc }

/-! ## Interrupts and traps -/

/-- mip of core `k`: MSIP, MTIP, and the external line at MEIP or SEIP (R345, R346); SSIP, STIP and SEIP as software writes them. -/
def Chip.mip (c : Chip) (k : Nat) : Nat :=
  let sw := Nat.land ((c.hart k).csr 0x344) 0x222
  let line := c.int.line.contains k
  let s := c.on (F.SUP_CFG_SEIP_ROUTE k)
  Nat.lor sw (8 * b2n (c.on (F.SUP_MSIP_MSIP k)) + 128 * b2n (decide (c.rd (F.SUP_MTIMECMP_CMP k) ≤ c.now)) +
    512 * b2n (line && s) + 2048 * b2n (line && !s))

/-- The interrupts of core `k` that are pending and enabled in mie (R348). -/
def Chip.coreReady (c : Chip) (k : Nat) : Nat := Nat.land (c.mip k) ((c.hart k).csr 0x304)

/-- Core `k` leaves WFI if an interrupt is pending and enabled, whatever mstatus.MIE (R348). -/
def Chip.coreWake (c : Chip) (k : Nat) : Chip := c.when (c.coreReady k ≠ 0) fun c => c.wrBit F.SUP_STATUS_IDLE k false

/-- The interrupt that core `k` takes now: those not delegated first, each in the order MEI, MSI, MTI, SEI, SSI, STI. -/
def Chip.hartIrq (c : Chip) (k : Nat) : Option Nat :=
  let h := c.hart k
  let p := c.coreReady k
  let own := fun i => bit p i && !bit (h.csr 0x303) i && (decide (h.mode ≠ .machine) || h.status 3)
  let deleg := fun i => bit p i && bit (h.csr 0x303) i && (decide (h.mode = .user) || (decide (h.mode = .supervisor) && h.status 1))
  ([11, 3, 7, 9, 1, 5].find? own).or ([11, 3, 7, 9, 1, 5].find? deleg)

/-- Where a trap goes: the base of the vector, or, vectored, the entry of an interrupt. -/
def trapPc (tvec cause : Nat) (irq : Bool) : Xword :=
  BitVec.ofNat 64 (tvec / 4 * 4 + if irq && bit tvec 0 then 4 * cause else 0)

/-- A trap is taken with this cause and trap value: to supervisor mode if it is delegated and comes from no higher mode, else to
machine mode. The pc, the mode and the interrupt enable are saved. -/
def Hart.trap (h : Hart) (irq : Bool) (cause tval : Nat) : Hart :=
  let c := cause + if irq then 2 ^ 63 else 0
  if bit (h.csr (if irq then 0x303 else 0x302)) cause ∧ h.mode ≠ .machine then
    let n := ((h.setCsr 0x142 c).setCsr 0x141 h.pc.toNat).setCsr 0x143 tval
    let n := ((n.setStatus 5 (h.status 1)).setStatus 1 false).setStatus 8 (h.mode ≠ .user)
    { n with mode := .supervisor, pc := trapPc (h.csr 0x105) cause irq }
  else
    let n := ((h.setCsr 0x342 c).setCsr 0x341 h.pc.toNat).setCsr 0x343 tval
    let n := ((n.setStatus 7 (h.status 3)).setStatus 3 false).setMpp h.mode
    { n with mode := .machine, pc := trapPc (h.csr 0x305) cause irq }

/-- MRET. -/
def Hart.mret (h : Hart) : Hart :=
  let n := (((h.setStatus 3 (h.status 7)).setStatus 7 true).setMpp .user)
  let n := if h.mpp = .machine then n else n.setStatus 17 false
  { n with mode := h.mpp, pc := BitVec.ofNat 64 (h.csr 0x341) }

/-- SRET. -/
def Hart.sret (h : Hart) : Hart :=
  let n := ((h.setStatus 1 (h.status 5)).setStatus 5 true).setStatus 8 false
  { n.setStatus 17 false with mode := if h.status 8 then .supervisor else .user, pc := BitVec.ofNat 64 (h.csr 0x141) }

/-- An access by a core that raised an exception traps it; the core's other accesses change nothing of it (R338, R339). -/
def Chip.coreTrap (c : Chip) (q : Requester) : Chip :=
  match q, c.bus.exc with
  | .core k, some e => c.setHart k fun h => h.trap false e.1 e.2
  | _, _ => c

/-! ## Counters (R349) -/

/-- SUP cycles since reset: 3,125 in 4,096 Tc (R40). -/
def Chip.supCyc (c : Chip) : Nat := c.air.mono * 3125 / 4096

/-- Counter `i` counts: it exists and mcountinhibit does not stop it. -/
def Hart.counts (h : Hart) (i : Nat) : Bool := decide (i ≤ 10) && !bit (h.csr 0x320) i

/-- Counter `i` advances by `n`. -/
def Hart.count (h : Hart) (i n : Nat) : Hart := if h.counts i then h.setCsr (0xB00 + i) (h.csr (0xB00 + i) + n) else h

/-- mcycle of core `k` catches up with the SUP clock, which a released core counts (DEDUCED, log 120). -/
def Chip.countCycles (c : Chip) (k : Nat) : Chip :=
  c.setHart k fun h => { (if c.rdBit F.SUP_CTRL_RUN k then h.count 0 (c.supCyc - h.cycAt) else h) with cycAt := c.supCyc }

/-- In deep sleep the SUP clock stops (R428). -/
def Chip.skipCycles (c : Chip) (k : Nat) : Chip := c.setHart k fun h => { h with cycAt := c.supCyc }

/-- Event `e` happens `n` times at a core: mhpmcounter3 counts instructions discarded (event 1), mhpmcounter4 to 10 what their event
register selects. -/
def Hart.event (h : Hart) (e n : Nat) : Hart :=
  if e = 1 then h.count 3 n
  else [4, 5, 6, 7, 8, 9, 10].foldl (fun h i => if h.csr (0x320 + i) = e then h.count i n else h) h

/-! ## CSRs (R334, R335) -/

/-- misa: RV64 with A, C, D, F, I, M, S and U. -/
def misa : Nat := 2 * 2 ^ 62 + 2 ^ 0 + 2 ^ 2 + 2 ^ 3 + 2 ^ 5 + 2 ^ 8 + 2 ^ 12 + 2 ^ 18 + 2 ^ 20

/-- mstatus as it reads: UXL and SXL are 64 bits, SD sums up FS. -/
def Hart.mstatus (h : Hart) : Nat := h.csr 0x300 + 2 * 2 ^ 32 + 2 * 2 ^ 34 + if bits (h.csr 0x300) 13 2 = 3 then 2 ^ 63 else 0

/-- The bits of mstatus that sstatus shows and writes: SIE, SPIE, SPP, FS, SUM, MXR; it also shows UXL and SD. -/
def sstatusMask : Nat := 2 ^ 1 + 2 ^ 5 + 2 ^ 8 + 3 * 2 ^ 13 + 2 ^ 18 + 2 ^ 19

/-- Bits of mstatus that software writes. -/
def mstatusMask : Nat := sstatusMask + 2 ^ 3 + 2 ^ 7 + 3 * 2 ^ 11 + 2 ^ 17 + 2 ^ 20 + 2 ^ 21 + 2 ^ 22

/-- `new` under the mask, `old` elsewhere. -/
def under (mask old new : Nat) : Nat := Nat.lor (Nat.land new mask) (Nat.land old (2 ^ 64 - 1 - Nat.land mask (2 ^ 64 - 1)))

/-- Configuration byte of PMP entry `i`. -/
def Hart.pmpCfg (h : Hart) (i : Nat) : Nat := bits (h.csr (if i < 8 then 0x3A0 else 0x3A2)) (8 * (i % 8)) 8
/-- Address matching of a configuration byte: 0 OFF, 1 TOR, 3 NAPOT. -/
def pmpA (cfg : Nat) : Nat := bits cfg 3 2
/-- pmpaddr of entry `i` as it reads: with the granularity of 8 bytes, bit 0 is 0 while the entry is OFF or TOR (R335). -/
def Hart.pmpAddr (h : Hart) (i : Nat) : Nat :=
  let a := h.csr (0x3B0 + i)
  if bit (pmpA (h.pmpCfg i)) 1 then a else a / 2 * 2

/-- A write of a pmpcfg register: a locked byte stays, and so does one that would get NA4, which the granularity rules out, or W
without R (DESIGN CHOICE, log 116). -/
def Hart.pmpCfgWrite (h : Hart) (n v : Nat) : Hart :=
  h.setCsr n ((List.range 8).foldl (fun a j =>
    let old := bits (h.csr n) (8 * j) 8
    let new := Nat.land (bits v (8 * j) 8) 0x9F
    a + (if bit old 7 || decide (pmpA new = 2) || (bit new 1 && !bit new 0) then old else new) * 2 ^ (8 * j)) 0)

/-- A write of pmpaddr `i`: not while it is locked, or is the base of a locked TOR entry. -/
def Hart.pmpAddrWrite (h : Hart) (i v : Nat) : Hart :=
  let above := h.pmpCfg (i + 1)
  if bit (h.pmpCfg i) 7 || (decide (i < 15) && bit above 7 && decide (pmpA above = 1)) then h else h.setCsr (0x3B0 + i) (v % 2 ^ 54)

/-- Whether a mode may access the counter with this number: mcounteren, and scounteren for user mode. -/
def Hart.mayCount (h : Hart) (i : Nat) : Bool :=
  match h.mode with
  | .machine => true
  | .supervisor => bit (h.csr 0x306) i
  | .user => bit (h.csr 0x306) i && bit (h.csr 0x106) i

/-- What CSR `n` of core `k` reads as; none where there is no such CSR. -/
def Chip.csrRead (c : Chip) (k n : Nat) : Option Nat :=
  let h := c.hart k
  let plain := [0x105, 0x106, 0x10A, 0x140, 0x141, 0x142, 0x143, 0x180, 0x302, 0x303, 0x304, 0x305, 0x306, 0x30A, 0x320, 0x340, 0x341,
    0x342, 0x343, 0x3A0, 0x3A2]
  if plain.contains n then some (h.csr n)
  else if 0xC00 ≤ n ∧ n ≤ 0xC1F then some (if n = 0xC01 then c.now else h.csr (n - 0x100))
  else if (0xB00 ≤ n ∧ n ≤ 0xB1F) ∧ n ≠ 0xB01 then some (h.csr n)
  else if 0x323 ≤ n ∧ n ≤ 0x33F then some (if n = 0x323 then 1 else h.csr n)
  else if 0x3B0 ≤ n ∧ n ≤ 0x3BF then some (h.pmpAddr (n - 0x3B0))
  else match n with
    | 0x001 => some (bits (h.csr 3) 0 5)
    | 0x002 => some (bits (h.csr 3) 5 3)
    | 0x003 => some (h.csr 3)
    | 0x100 => some (Nat.land h.mstatus (sstatusMask + 3 * 2 ^ 32 + 2 ^ 63))
    | 0x104 => some (Nat.land (h.csr 0x304) (h.csr 0x303))
    | 0x144 => some (Nat.land (c.mip k) (h.csr 0x303))
    | 0x300 => some h.mstatus
    | 0x301 => some misa
    | 0x344 => some (c.mip k)
    | 0xF11 => some 0
    | 0xF12 => some 0
    | 0xF13 => some (c.rd F.TOP_IDENT_REV_MAJOR + c.rd F.TOP_IDENT_REV_MINOR * 16)
    | 0xF14 => some k
    | 0xF15 => some 0
    | _ => none

/-- A write of CSR `n`, which exists and is no read-only one: each field takes a legal value, else it stays (DESIGN CHOICE, log 116). -/
def Hart.csrWrite (h : Hart) (n v : Nat) : Hart :=
  let put := fun m w => h.setCsr m w
  if 0xB00 ≤ n ∧ n ≤ 0xB1F then (if n ≤ 0xB0A ∧ n ≠ 0xB01 then put n v else h)
  else if 0x323 ≤ n ∧ n ≤ 0x33F then (if 0x324 ≤ n ∧ n ≤ 0x32A then put n v else h)
  else if 0x3B0 ≤ n ∧ n ≤ 0x3BF then h.pmpAddrWrite (n - 0x3B0) v
  else
  let float := fun w : Nat => (put 3 (w % 256)).setCsr 0x300 (Nat.lor (h.csr 0x300) 0x6000)
  match n with
  | 0x001 => float (h.csr 3 / 32 * 32 + v % 32)
  | 0x002 => float (h.csr 3 % 32 + v % 8 * 32)
  | 0x003 => float v
  | 0x100 => put 0x300 (under sstatusMask (h.csr 0x300) v)
  | 0x104 => put 0x304 (under (h.csr 0x303) (h.csr 0x304) v)
  | 0x144 => put 0x344 (under (Nat.land (h.csr 0x303) 2) (h.csr 0x344) v)
  | 0x105 | 0x305 => put n (Nat.land v (2 ^ 64 - 3))
  | 0x106 | 0x306 => put n (v % 2 ^ 32)
  | 0x10A | 0x30A => put n (v % 2)
  | 0x140 | 0x142 | 0x143 | 0x340 | 0x342 | 0x343 => put n v
  | 0x141 | 0x341 => put n (v / 2 * 2)
  | 0x180 => if bits v 60 4 = 0 ∨ bits v 60 4 = 8 then put n v else h
  | 0x300 => put n (under (if bits v 11 2 = 2 then mstatusMask - 3 * 2 ^ 11 else mstatusMask) (h.csr 0x300) v)
  | 0x302 => put n (Nat.land v 0xB3FF)
  | 0x303 => put n (Nat.land v 0x222)
  | 0x304 => put n (Nat.land v 0xAAA)
  | 0x320 => put n (Nat.land v 0x7FD)
  | 0x344 => put n (under 0x222 (h.csr 0x344) v)
  | 0x3A0 | 0x3A2 => h.pmpCfgWrite n v
  | _ => h

/-- Whether an instruction may access CSR `n`: the mode, the read-only range, mstatus.FS for the floating-point ones, TVM for satp,
and the counter enables. -/
def Hart.csrOk (h : Hart) (n : Nat) (writes : Bool) : Bool :=
  decide (bits n 8 2 ≤ h.mode.num) && !(writes && decide (bits n 10 2 = 3)) &&
  !(decide (n ≤ 3) && decide (bits (h.csr 0x300) 13 2 = 0)) && !(n = 0x180 && decide (h.mode = .supervisor) && h.status 20) &&
  !((decide (0xC00 ≤ n) && decide (n ≤ 0xC1F)) && !h.mayCount (n - 0xC00))

/-- The value that a read-modify-write of CSR `n` starts from: of mip, SEIP as software wrote it. -/
def Chip.csrOld (c : Chip) (k n : Nat) : Nat := if n = 0x344 then (c.hart k).csr n else (c.csrRead k n).getD 0

end Sys2Proof.Machine
end

