-- ==== Sys2Proof/Machine/Pending.lean ====
section
/-!
DEFINITION. What the interrupt controller derives in every core cycle (R319–R323, R326, R330, R331): inputs, pending and
eligible sources, and the lines of the four cores. A wake from deep sleep re-samples them, so the gates of the block use it.
-/

namespace Sys2Proof.Machine

/-! ## Inputs (R319, R320) -/

/-- The word of a register whose fields all reset to 0. -/
def Chip.word0 (c : Chip) (a : Nat) : Nat := c.regs.foldl (fun w p => if p.1 / 64 = a then w + p.2 * 2 ^ (p.1 % 64) else w) 0

/-- The status and enable registers behind source `n`, with the bits that stand for it; none for an edge source and for a
number that no chapter assigns (R86, R109, R138, R163, R183, R204, R222, R266, R280, R296, R317, R366, R382, R406, R432). -/
def intRegs (n : Nat) : List (Nat × Nat × Nat) :=
  let all := 2 ^ 64 - 1
  if n = 0 then []
  else if n ≤ 10 then [(0x1300040, 0x1300048, 2 ^ (n - 1))]
  else if 16 ≤ n ∧ n ≤ 21 then [(0x1800040, 0x1800048, 2 ^ (n - 16))]
  else if 24 ≤ n ∧ n ≤ 29 then [(0x1E00028, 0x1E00030, 2 ^ (n - 24))]
  else if 32 ≤ n ∧ n < 160 then
    let b := 0x1000000 + 0x1000 * (n - 32)
    [(b + 0x108, b + 0x110, all), (b + 0x230, b + 0x238, all)]
  else if 160 ≤ n ∧ n < 176 then [(0x1100030 + 0x4000 * (n - 160), 0x1100038 + 0x4000 * (n - 160), all)]
  else if 176 ≤ n ∧ n ≤ 184 then [(0x1900030, 0x1900038, 2 ^ (n - 176))]
  else if 256 ≤ n ∧ n < 512 ∧ n % 16 < 10 then
    let b := 0x1B01100 + 0x1000 * ((n - 256) / 16) + 0x80 * (n % 16)
    [(b + 0x40, b + 0x48, all)]
  else if 512 ≤ n ∧ n < 544 ∧ n % 16 < 12 then
    let b := 0x1C00100 + 0x100 * ((n - 512) / 16)
    [(b + 0x50, b + 0x58, 2 ^ (n % 16))]
  else if 544 ≤ n ∧ n < 560 then [(0x1601040 + 0x100 * (n - 544), 0x1601048 + 0x100 * (n - 544), all)]
  else if 576 ≤ n ∧ n ≤ 585 then [(0x1700080, 0x1700088, 2 ^ (n - 576))]
  else if 640 ≤ n ∧ n ≤ 643 then [(0x100058, 0x100060, 2 ^ (n - 640))]
  else if n = 704 ∨ n = 705 then [(0x200128 + 0x100000 * (n - 704), 0x200130 + 0x100000 * (n - 704), all)]
  else if 706 ≤ n ∧ n ≤ 711 then [(0x400300, 0x400308, 2 ^ (n - 706) * (1 + 2 ^ 8 + 2 ^ 16))]
  else if 768 ≤ n ∧ n ≤ 777 then [(0x1401040 + 0x100 * (n - 768), 0x1401048 + 0x100 * (n - 768), all)]
  else if n = 778 then [(0x1400040, 0x1400048, all)]
  else if n = 779 then [(0x1F00050, 0x1F00058, all)]
  else if 780 ≤ n ∧ n ≤ 787 then [(0x1F01080 + 0x100 * (n - 779), 0x1F01088 + 0x100 * (n - 779), all)]
  else []

/-- The level input of source `n`: an enabled status bit is set (R320). The numbers of a group's followers are never raised
(R138) (DEDUCED, log 30). -/
def Chip.intInput (c : Chip) (n : Nat) : Bool :=
  !(decide (32 ≤ n) && decide (n < 160) && c.isMember (n - 32)) &&
  (intRegs n).any fun r => Nat.land (Nat.land (c.word0 r.1) (c.word0 r.2.1)) r.2.2 ≠ 0

/-- Whether the number belongs to a source (R319). -/
def isSrc (n : Nat) : Bool := decide (1 ≤ n) && decide (n ≤ 2046)

/-- The edge sources that have an input: MARK and the doorbells (R320). -/
def edgeInput (n : Nat) : Bool := (decide (648 ≤ n) && decide (n ≤ 663)) || (decide (1024 ≤ n) && decide (n ≤ 1151))

/-- Whether source `n` is active. -/
def Chip.intActive (c : Chip) (n : Nat) : Bool := c.int.active.any fun a => a.num = n

/-- Whether source `n` is pending (R320, R321). -/
def Chip.intPending (c : Chip) (n : Nat) : Bool := c.int.pend.contains n || (c.intInput n && !c.intActive n)

/-! ## Eligible sources (R322, R323, R326) -/

/-- The pre-emption rank of source `n` at core target `t` (R322). -/
def Chip.intPr (c : Chip) (t n : Nat) : Nat :=
  let p := c.rd (F.INT_SRC_PRIO n)
  if p < 16 then p else 16 + p / 2 ^ c.rd (F.INT_TCFG_SPLIT t)

/-- The stack of core target `t`. -/
def Chip.intStack (c : Chip) (t : Nat) : List (Nat × Nat) := SMap.get [] c.int.stackOf t

/-- The running rank of core target `t`, 0x1FF when infinite (R326). -/
def Chip.runPr (c : Chip) (t : Nat) : Nat :=
  let top := match c.intStack t with
    | [] => 0x1FF
    | p :: _ => p.2
  (c.int.active.filter fun a => a.tgt = t && decide (16 ≤ a.pr)).foldl (fun m a => min m a.pr) top

/-- The sources that are enabled and pending. -/
def Chip.intEnabled (c : Chip) : List Nat :=
  ((List.range 2047).filter fun n => decide (1 ≤ n) && c.on (F.INT_SRC_EN n)).filter c.intPending

/-- The sources eligible for core target `t`, rising (R323). -/
def Chip.eligible (c : Chip) (t : Nat) : List Nat :=
  let rp := c.runPr t
  c.intEnabled.filter fun n =>
    c.rd (F.INT_SRC_TARGET n) = t && decide (c.rd (F.INT_SRC_PRIO n) < c.rd (F.INT_TCFG_THRESHOLD t)) && decide (c.intPr t n < rp)

/-- The source with the lowest PRIO, the lowest number among equals (R323, R328), of a rising list. -/
def Chip.lowest (c : Chip) : List Nat → Option Nat
  | [] => none
  | n :: l =>
    match c.lowest l with
    | none => some n
    | some m => if c.rd (F.INT_SRC_PRIO m) < c.rd (F.INT_SRC_PRIO n) then some m else some n

/-! ## Lines (R324, R330) -/

/-- Whether the eligible sources `l` of core target `t` cause delivery (R330). -/
def Chip.delivers (c : Chip) (t : Nat) (l : List Nat) : Bool :=
  decide (c.rd (F.INT_TCFG_COAL_CNT t) ≤ l.length) ||
  l.any fun n => decide (c.rd (F.INT_SRC_PRIO n) < 16) || c.rdBit F.SUP_STATUS_IDLE t || c.rd (F.INT_TCFG_COAL_TIME t) = 0 ||
    c.int.timedOut.contains n

/-- The line of core target `t` is recomputed. A core that waits in WFI goes on if it has the interrupt enabled (R348). -/
def Chip.intLine (c : Chip) (t : Nat) : Chip :=
  let l := c.eligible t
  if l.isEmpty then c.setInt fun x => { x with line := setDel t x.line }
  else if c.delivers t l then
    (c.setInt fun x => { x with line := setIns t x.line, lineSeen := setIns t x.lineSeen }).coreWake t
  else c

/-- The end of a core cycle (R331): which sources wait, and the four lines. -/
def Chip.intEval (c : Chip) : Chip :=
  let on := c.intEnabled
  let c := c.setInt fun x =>
    let q := x.waitQ.filter c.intPending
    { x with waitQ := q ++ on.filter (fun n => !q.contains n), timedOut := x.timedOut.filter c.intPending }
  c.forEach (List.range 4) fun t c => c.intLine t

/-- HELD of core target `t` (R330). -/
def Chip.intHeld (c : Chip) (t : Nat) : Bool := !(c.eligible t).isEmpty && !c.int.line.contains t

/-! ## Requests (R320, R321) -/

/-- Source `n` is set pending, from now if it was not. -/
def Chip.intPend (c : Chip) (n : Nat) : Chip :=
  c.setInt fun x => { x with
    pend := setIns n x.pend, waitQ := if c.intPending n || x.waitQ.contains n then x.waitQ else x.waitQ ++ [n] }

end Sys2Proof.Machine
end

