-- ==== Sys2Proof/Machine/Gate.lean ====
section
/-!
DEFINITION. When a command reaches the block: a board die held in reset or in deep sleep takes no part in most events, and an
access wakes it (R422, R428–R430). With it, how a taken occurrence of the schedule is lost, since sleep loses occurrences.
-/

namespace Sys2Proof.Machine

/-! ## Entry words (R75, R76) -/

/-- KIND, MODE, TARGET and ARG of word 0. -/
def wKind (w : Nat) : Nat := bits w 0 4
@[inherit_doc wKind] def wRec (w : Nat) : Bool := bit w 4
@[inherit_doc wKind] def wTarget (w : Nat) : Nat := bits w 8 16
@[inherit_doc wKind] def wArg (w : Nat) : Nat := bits w 24 8
/-- PERIOD, SLOT, SYMBOL and OFFSET of a recurring word 1. -/
def wPeriod (w : Nat) : Nat := bits w 0 13
@[inherit_doc wPeriod] def wSlot (w : Nat) : Nat := bits w 16 13
@[inherit_doc wPeriod] def wSym (w : Nat) : Nat := bits w 32 4
@[inherit_doc wPeriod] def wOfs (w : Nat) : Int := toS 24 (bits w 40 24)

/-! ## Status and counts -/

/-- Word 0 of entry `i`. -/
def Chip.w0 (c : Chip) (i : Nat) : Nat := c.rd (F.AIR_SCHED_W0_WORD i)

/-- Write STATUS of entry `i` (R75). -/
def Chip.setStat (c : Chip) (i st : Nat) : Chip := c.wr (F.AIR_SCHED_W0_WORD i) (c.w0 i % 2 ^ 32 + st * 2 ^ 32)

/-- Entry `i` is retired with this STATUS and is armed no more. -/
def Chip.retire (c : Chip) (i st : Nat) : Chip :=
  (c.setStat i st).setAir fun a => { a with armed := SMap.erase i a.armed }

/-- Occurrences that are LATE (3), SKIPPED (4), DROPPED (5) or REJECTED (6) are counted (R79). -/
def Chip.schedExc (c : Chip) (st : Nat) (k : Nat := 1) : Chip :=
  if k = 0 then c else
  (c.inc (match st with
    | 3 => F.AIR_SCHED_CNT_LATE
    | 4 => F.AIR_SCHED_CNT_SKIPPED
    | 5 => F.AIR_SCHED_CNT_DROPPED
    | _ => F.AIR_SCHED_CNT_REJECTED) k).raise F.AIR_INT_STATUS_SCHED_EXC

/-! ## Occurrences leave the list -/

/-- Whether the entry of an absolute occurrence is still armed as it was when the occurrence was taken (R80). -/
def Chip.sameArming (c : Chip) (o : Occ) : Bool :=
  o.abs && (match c.air.armed.find o.entry with
    | none => false
    | some e => !wRec e.w0 && e.last = some o.fire)

/-- A taken occurrence is lost: counted, and an absolute entry retired with this STATUS (R81, R84). -/
def Chip.loseOcc (c : Chip) (st : Nat) (o : Occ) : Chip := (c.when (c.sameArming o) fun c => c.retire o.entry st).schedExc st

/-- The taken occurrences that match are taken off the list and lost with this STATUS. -/
def Chip.loseAll (c : Chip) (st : Nat) (p : Occ → Bool) : Chip :=
  let gone := c.air.taken.filter p
  gone.foldl (fun c o => c.loseOcc st o) (c.setAir fun a => { a with taken := a.taken.filter fun o => !p o })

/-! ## Deep sleep (R428–R430) -/

/-- In deep sleep. -/
def Chip.asleep (c : Chip) : Bool := c.on F.PWR_SLEEP_STATE

/-- Occurrences other than MARK whose fire time has come in the sleep are SKIPPED (R429): every one whose fire time is past, and those
before the first MARK that is taken once its instant can be now. -/
def Chip.passSleep (c : Chip) : Chip :=
  match c.air.taken.find? fun o => o.kind = 7 with
  | none => c.loseAll 4 fun o => o.kind ≠ 7 && decide (o.fire ≤ (c.now : Int))
  | some m => c.loseAll 4 fun o => o.kind ≠ 7 && ((c.canBe m.fire.toNat && decide (o.fire < m.fire)) || decide (o.fire ≤ (c.now : Int)))

/-- The package wakes (R332, R430): cause 1 with a source number, or 2. The interrupt state is restored, the level inputs are
sampled again, and the lines follow. -/
def Chip.wake (c : Chip) (cause n : Nat) : Chip :=
  if !c.asleep then c else
  let c := c.hkWake.loseAll 4 fun o => o.kind ≠ 7 && decide (o.fire ≤ (c.now : Int))
  let c := (((c.wr F.PWR_SLEEP_STATE 0).wr F.PWR_WAKE_CAUSE cause).wr F.PWR_WAKE_NUM n).raise F.PWR_INT_STATUS_WAKE
  let c := c.wrB F.PRT_STATUS_PIN_LEVEL c.prt.pinHigh
  (((c.raise F.INT_STATUS_RESTORED).when c.int.lost fun c => c.raise F.INT_STATUS_SLEEP_LOST).setInt fun x =>
    { x with lost := false }).intEval.forEach (List.range 4) fun k c => (c.skipCycles k).coreWake k

/-! ## Gates -/

/-- The board die is held in a cold or warm reset (R422). -/
def Chip.inReset (c : Chip) : Bool := c.pwr.kind.isSome

/-- The clocks of the board die run. -/
def Chip.running (c : Chip) : Bool := !c.inReset && !c.asleep

/-- An event of the board die, with the memories and the queue left as they are: it cannot happen in reset or deep sleep (DESIGN CHOICE, log 10). -/
def State.onChip (s : State) (g : Chip → Chip) : Host.Outcome State Fault Refusal :=
  .next (if s.chip.running then { s with chip := g s.chip } else s)

/-- An event of what goes on in deep sleep: AIR and AON (R428). -/
def State.onAir (s : State) (g : Chip → Chip) : Host.Outcome State Fault Refusal :=
  .next (if s.chip.inReset then s else { s with chip := g s.chip })

/-- An event of the package that needs no board die: the ZMD, supplies, resets, the test access port. -/
def State.onPkg (s : State) (g : Chip → Chip) : Host.Outcome State Fault Refusal := .next { s with chip := g s.chip }

/-- The block as an access by `q` finds it: a TLP wakes it; in deep sleep no core runs (R428, R430). No exception is pending. -/
def Chip.woken (c : Chip) (q : Requester) : Chip :=
  if q.isCore then { c with bus := { c.bus with exc := none } } else c.wake 2 0

/-- Whether core `k` executes: it is released, and does not wait in WFI (R343, R348). -/
def Chip.coreRuns (c : Chip) (k : Nat) : Bool := c.rdBit F.SUP_CTRL_RUN k && !c.rdBit F.SUP_STATUS_IDLE k

/-- Whether an access by `q` reaches the board die: none does in reset; a function needs PCI Express, and with it VDD_SER (R420); a
core must execute (DESIGN CHOICE, log 56). -/
def Chip.reachable (c : Chip) (q : Requester) : Bool :=
  !c.inReset && match q with
    | .core k => !c.asleep && c.coreRuns k
    | _ => !c.railBad.contains .vddSer

/-- An access by `q`; one by a core that raises an exception traps it (R338, R339) (DESIGN CHOICE, log 71). -/
def State.onAccess (s : State) (q : Requester) (g : Chip → Chip) : Host.Outcome State Fault Refusal :=
  .next (if s.chip.reachable q then { s with chip := (g (s.chip.woken q)).coreTrap q } else s)

end Sys2Proof.Machine
end

