-- ==== Sys2Proof/Machine/Fault.lean ====
section
/-!
DEFINITION. The fault collector and the black box (R298–R318): events, windows, SEVERE, the first-error capture, the
records, and the commands of the collector. Containment stays with the blocks; injected faults reach it in Inject.lean.
-/

namespace Sys2Proof.Machine

/-- What an event carries (R301, R308, R311). -/
structure Ev where
  src : Nat
  cause : Nat
  master : Nat := 16
  access : Nat := 0
  addr : Option Nat := none
  detail : Nat := 0
  deriving DecidableEq, Repr

/-- Bit of source `s` in one of the words of 64 sources. -/
def Chip.srcBit (c : Chip) (w : Nat → Fld) (s : Nat) : Bool := c.rdBit (w (s / 64)) (s % 64)

/-- Write the bit of source `s` in one of the words of 64 sources. -/
def Chip.wrSrc (c : Chip) (w : Nat → Fld) (s : Nat) (b : Bool) : Chip := c.wrBit (w (s / 64)) (s % 64) b

/-- Whether the cause of source `s` is present (R301, R405). -/
def Chip.srcCause (c : Chip) (s : Nat) : Bool :=
  if s = 415 then !c.on F.MTR_STATUS_LINK
  else if s = 416 then c.on F.HK_STATUS_MISMATCH
  else if s = 424 ∨ s = 425 then c.on (F.CHL_CFG_EN (s - 424)) && c.rd (F.CHL_STATUS_STATE (s - 424)) ≠ 2
  else c.srcBit F.FLT_ACTIVE_ACTIVE s

/-- Whether source `s` is active (R300): its cause is present, or its pair is invalid. -/
def Chip.srcActive (c : Chip) (s : Nat) : Bool := c.srcCause s || c.srcBit F.FLT_PAIR_PAIR s

/-- Whether the decoded level of source `s` stands asserted (R299, R300): an invalid pair, or the cause of a source that follows a level. -/
def Chip.srcStands (c : Chip) (s : Nat) : Bool :=
  c.srcBit F.FLT_PAIR_PAIR s || SMap.get 0 c.flt.persist s ≠ 0 ||
  ((s = 415 || s = 416) && c.srcCause s) || ((s = 424 || s = 425) && (c.port (s - 424)).cause.isSome)

/-- Whether source `s` can give no event: its level stands asserted, or an injection holds its rails (R309). -/
def Chip.srcHigh (c : Chip) (s : Nat) : Bool := c.srcStands s || c.flt.inject.has s

/-- Whether source `s` reads SEVERE. -/
def Chip.severe (c : Chip) (s : Nat) : Bool := c.srcBit F.FLT_SEVERE_SEVERE s

/-- Whether the machine stands at a tempo boundary after SEVERE of source `s` has cleared (R304). -/
def Chip.severeOver (c : Chip) (s : Nat) : Bool := !c.severe s && c.dueAt (SMap.get 0 c.flt.sevFree s)

/-! ## Black box -/

/-- AON writes a record at HEAD, which advances and wraps (R311). -/
def Chip.ringPut (c : Chip) (r : BBRec) : Chip :=
  let h := c.rd F.FLT_BB_STATUS_HEAD
  let c := c.setFlt fun x => { x with ring := SMap.put {} c.flt.ring h r }
  (c.wr F.FLT_BB_STATUS_HEAD (h + 1)).when (h = 511) fun c => c.wr F.FLT_BB_STATUS_WRAPPED 1

/-- A record reaches AON: written, or counted as lost while the box is frozen (R314). -/
def Chip.aonPut (c : Chip) (r : BBRec) : Chip :=
  if c.on F.FLT_BB_STATUS_FROZEN then c.inc F.FLT_BB_STATUS_LOST else c.ringPut r

/-- CORE queues a record; one that finds the FIFO full is lost (R313). -/
def Chip.bbRecord (c : Chip) (r : BBRec) : Chip :=
  if c.flt.fifo.length < 16 then c.setFlt fun x => { x with fifo := x.fifo ++ [r] }
  else (c.inc F.FLT_BB_STATUS_LOST).raise F.FLT_INT_STATUS_BB_LOST

/-- A record of the given type that is no fault, at the present AT (R311). -/
def Chip.bbEvent (c : Chip) (ty detail : Nat) : Chip := c.bbRecord { time := c.now, ty := ty, detail := detail }

/-- A fatal event (R314). For SEVERE and FREEZE the FIFO is written first; for a shutdown or a supply failure AON writes
the record by itself with the beacon's AT. -/
def Chip.fatal (c : Chip) (detail : Nat) (src cause : Nat := 0) : Chip :=
  let alone := detail = 1 ∨ detail = 2 ∨ detail = 5
  let c := if alone then c else
    (c.flt.fifo.foldl Chip.aonPut c).setFlt fun x => { x with fifo := [] }
  let c := c.aonPut { time := if alone then c.flt.beacon else c.now, source := src, ty := 4, cause := cause,
                      approx := alone, detail := detail }
  (c.wr F.FLT_BB_STATUS_FROZEN 1).raise F.FLT_INT_STATUS_BB_FROZEN

/-! ## Events -/

/-- The first-error capture, or the count of what follows it (R307). -/
def Chip.capture (c : Chip) (e : Ev) : Chip :=
  if c.on F.FLT_FIRST_VALID then c.inc F.FLT_FIRST_FOLLOWING
  else (((((((c.wr F.FLT_FIRST_SOURCE e.src).wr F.FLT_FIRST_CAUSE e.cause).wr F.FLT_FIRST_MASTER e.master).wr
    F.FLT_FIRST_ACCESS e.access).wrB F.FLT_FIRST_ADDR_VALID e.addr.isSome).wr F.FLT_FIRST_ADDR_ADDR (e.addr.getD 0)).wr
    F.FLT_FIRST_AT_AT c.now).raise F.FLT_FIRST_VALID |>.raise F.FLT_INT_STATUS_FIRST

/-- The DETAIL of a fault record: what the event carries, for a register access bits [31:0] of the address (R311). -/
def Ev.bbDetail (e : Ev) : Nat := if e.src = 414 then e.addr.getD 0 % 2 ^ 32 else e.detail

/-- SEVERE is set on the event's source, unless it is set already (R303, R312, R314). -/
def Chip.setSevere (c : Chip) (e : Ev) : Chip :=
  if c.severe e.src then c else
  let c := (c.wrSrc F.FLT_SEVERE_SEVERE e.src true).raise F.FLT_INT_STATUS_SEVERE
  let c := c.when (c.on (F.FLT_CFG_BB_EN e.src)) fun c =>
    c.bbRecord { time := c.now, source := e.src, ty := 2, cause := e.cause, detail := e.bbDetail }
  c.when (c.on (F.FLT_CFG_FATAL_EN e.src)) fun c => c.fatal 3 e.src e.cause

/-- The window and count of the event's source (R303); a window that is over closes before the event (R306). -/
def Chip.classify (c : Chip) (e : Ev) : Chip :=
  let isOpen := match c.flt.winClose.find e.src with
    | none => false
    | some t => decide (c.air.tempi < t)
  let c := if isOpen then c.inc (F.FLT_SRC_COUNT e.src) else
    let c := c.wr (F.FLT_SRC_COUNT e.src) 1
    let c := c.setFlt fun x => { x with winClose := SMap.insert e.src (c.ceilTempo + c.rd (F.FLT_CFG_WINDOW e.src)) x.winClose }
    c.when (c.on (F.FLT_CFG_BB_EN e.src)) fun c =>
      c.bbRecord { time := c.now, source := e.src, ty := 1, cause := e.cause, detail := e.bbDetail }
  if c.rd (F.FLT_CFG_N e.src) ≤ c.rd (F.FLT_SRC_COUNT e.src) then c.setSevere e else c

/-- One event of a source (R300, R303, R305, R307). -/
def Chip.faultEvent (c : Chip) (e : Ev) : Chip :=
  let c := (c.inc (F.FLT_SRC_EVENTS e.src)).wr (F.FLT_SRC_LAST_CAUSE e.src) e.cause
  let c := c.wrSrc F.FLT_PENDING_PENDING e.src true
  let c := c.when (c.on (F.FLT_CFG_INT_EN e.src)) fun c => c.raise F.FLT_INT_STATUS_EVENT
  (c.capture e).classify e

/-- A source's rails are driven for a moment. A source already asserted through its pair gives no event (R300). -/
def Chip.faultPulse (c : Chip) (e : Ev) : Chip := if c.srcBit F.FLT_PAIR_PAIR e.src then c else c.faultEvent e

/-- A source whose active interval runs from its last event: the event, and the interval from it (R301, R310). -/
def Chip.faultTimed (c : Chip) (e : Ev) : Chip :=
  let c := c.setFlt fun x => { x with ends := SMap.insert e.src (c.ceilTempo + c.recov) x.ends }
  (c.wrSrc F.FLT_ACTIVE_ACTIVE e.src true).faultPulse e

/-- A cause of a level source appears: an event if the source was not active (R300). -/
def Chip.faultRise (c : Chip) (e : Ev) : Chip :=
  let was := c.srcBit F.FLT_ACTIVE_ACTIVE e.src
  let c := c.setFlt fun x => { x with persist := SMap.put 0 x.persist e.src (putBit (SMap.get 0 c.flt.persist e.src) e.cause true) }
  let c := c.wrSrc F.FLT_ACTIVE_ACTIVE e.src true
  if was then c else c.faultPulse e

/-- A cause of a level source goes away; the source is inactive when its last cause has gone. -/
def Chip.faultFall (c : Chip) (src cause : Nat) : Chip :=
  let m := putBit (SMap.get 0 c.flt.persist src) cause false
  let c := c.setFlt fun x => { x with persist := SMap.put 0 x.persist src m }
  c.when (m = 0) fun c => c.wrSrc F.FLT_ACTIVE_ACTIVE src false

/-- Every cause of a level source goes away. -/
def Chip.faultOver (c : Chip) (src : Nat) : Chip :=
  (c.setFlt fun x => { x with persist := SMap.put 0 x.persist src 0 }).wrSrc F.FLT_ACTIVE_ACTIVE src false

/-- The boundary count at which the interval of source `s` is over. -/
def Chip.overAt (c : Chip) (s : Nat) : Nat := SMap.get 0 c.flt.ends s

/-- Whether the machine stands at a boundary at least one recovery interval, as it was set then, after the last event of source `s`
(R218). An invalid pair counts as an error that stays (R299). -/
def Chip.recovered (c : Chip) (s : Nat) : Bool := c.dueAt (c.overAt s) && !c.srcBit F.FLT_PAIR_PAIR s

/-- A register access fault, source 414 (R2, R87, R354). -/
def Chip.accessFault (c : Chip) (q : Requester) (cause : Nat) (isWrite : Bool) (a : Nat) : Chip :=
  c.faultPulse { src := 414, cause := cause, master := q.master, access := if isWrite then 2 else 1, addr := some (q.addr a) }

/-- FAULT_N driven low (R306). -/
def Chip.faultNLow (c : Chip) : Bool :=
  c.flt.held || !c.flt.initDone || (List.range 512).any fun s => c.srcBit F.FLT_PENDING_PENDING s && c.on (F.FLT_CFG_FN_EN s)

/-! ## Commands of the collector -/

/-- A pair fault begins (R299): the source counts as asserted with cause 0xFF; no second event if its own error was asserted, a rank
in fault included (R306). -/
def Chip.pairFault (c : Chip) (s : Nat) : Chip :=
  if c.srcBit F.FLT_PAIR_PAIR s then c else
  let c := c.when (!c.srcStands s && !(decide (384 ≤ s) && decide (s < 400) && c.srcBit F.FLT_ACTIVE_ACTIVE s)) fun c => c.faultEvent { src := s, cause := 255 }
  let c := (c.wr (F.FLT_SRC_LAST_CAUSE s) 255).wrSrc F.FLT_PENDING_PENDING s true
  let c := (c.wrSrc F.FLT_PAIR_PAIR s true).raise F.FLT_INT_STATUS_PAIR
  c.bbRecord { time := c.now, source := s, ty := 3, cause := 255 }

/-- FAULT_WINDOW_CLOSE (R303): at the boundary at which the window is over, COUNT returns to 0. -/
def execFaultWindowClose (src : Fin 512) (s : State) : Host.Outcome State Fault Refusal :=
  s.onChip fun c =>
    match c.flt.winClose.find src with
    | none => c
    | some t => if c.dueAfter t 0 then
        (c.wr (F.FLT_SRC_COUNT src) 0).setFlt fun x => { x with winClose := SMap.erase src x.winClose }
      else c

/-- A W1C write to FLT_PENDING[j] (R305): each bit clears, or re-asserts while its source is active. -/
def Chip.pendingClear (c : Chip) (j : Nat) (v : Nat) : Chip :=
  c.forEach (List.range 64) fun i c =>
    if bit v i && c.rdBit (F.FLT_PENDING_PENDING j) i then
      if c.srcActive (64 * j + i) then (c.inc F.FLT_REASSERT_COUNT).raise F.FLT_INT_STATUS_REASSERT
      else c.wrBit (F.FLT_PENDING_PENDING j) i false
    else c

/-- A W1C write to FLT_SEVERE[j] (R305): SEVERE clears, COUNT returns to 0 and the window closes, while PENDING is 0. -/
def Chip.severeClear (c : Chip) (j : Nat) (v : Nat) : Chip :=
  c.forEach (List.range 64) fun i c =>
    if bit v i && !c.rdBit (F.FLT_PENDING_PENDING j) i then
      let t := c.air.tempi + 1
      let c := c.when (c.rdBit (F.FLT_SEVERE_SEVERE j) i) fun c => c.setFlt fun x => { x with sevFree := SMap.insert (64 * j + i) t x.sevFree }
      let c := (c.wrBit (F.FLT_SEVERE_SEVERE j) i false).wr (F.FLT_SRC_COUNT (64 * j + i)) 0
      c.setFlt fun x => { x with winClose := SMap.erase (64 * j + i) x.winClose }
    else c

/-- Writing 1 to FLT_FIRST.VALID re-arms the capture and clears FOLLOWING (R307). -/
def Chip.firstRearm (c : Chip) : Chip := (c.wr F.FLT_FIRST_VALID 0).wr F.FLT_FIRST_FOLLOWING 0

/-- A FREEZE write by the PF is a fatal event (R314). -/
def Chip.freeze (c : Chip) : Chip := c.fatal 4

/-- BB_RECORD_WRITE (R313): AON takes the oldest queued record. -/
def execBbRecordWrite (s : State) : Host.Outcome State Fault Refusal :=
  s.onChip fun c =>
    match c.flt.fifo with
    | [] => c
    | r :: l => (c.setFlt fun x => { x with fifo := l }).aonPut r

/-- AT_BEACON (R314): AON takes the present AT. -/
def execAtBeacon (s : State) : Host.Outcome State Fault Refusal :=
  s.onAir fun c => c.setFlt fun x => { x with beacon := c.now }

/-- A write of FLT_BB_RD.INDEX requests the entry and clears RD_READY (R316). -/
def Chip.bbRead (c : Chip) (i : Nat) : Chip :=
  ((c.wr F.FLT_BB_RD_INDEX i).wr F.FLT_BB_STATUS_RD_READY 0).setFlt fun x => { x with rdReq := some i }

/-- Bits [63:0] and [127:64] of a record (R311). -/
def BBRec.word0 (r : BBRec) : Nat := r.time % 2 ^ 64
@[inherit_doc BBRec.word0]
def BBRec.word1 (r : BBRec) : Nat :=
  r.source % 2 ^ 9 + r.ty % 2 ^ 7 * 2 ^ 9 + r.cause % 2 ^ 8 * 2 ^ 16 + b2n r.approx * 2 ^ 31 + r.detail % 2 ^ 32 * 2 ^ 32

/-- BB_READ_DONE (R316): the requested entry appears. -/
def execBbReadDone (s : State) : Host.Outcome State Fault Refusal :=
  s.onChip fun c =>
    match c.flt.rdReq with
    | none => c
    | some i =>
      let r := SMap.get {} c.flt.ring i
      let c := ((c.wr F.FLT_BB_DATA0_DATA r.word0).wr F.FLT_BB_DATA1_DATA r.word1).wr F.FLT_BB_STATUS_RD_READY 1
      (c.raise F.FLT_INT_STATUS_BB_RD_DONE).setFlt fun x => { x with rdReq := none }

/-- ACK clears the ring and its status (R316). -/
def Chip.bbAck (c : Chip) : Chip :=
  (((((c.wr F.FLT_BB_STATUS_HEAD 0).wr F.FLT_BB_STATUS_WRAPPED 0).wr F.FLT_BB_STATUS_LOST 0).wr
    F.FLT_BB_STATUS_FROZEN 0).wr F.FLT_BB_STATUS_INVALID 0).setFlt fun x => { x with ring := [] }

/-- FAULT_N_INIT_DONE (R306): the 2,000 cc after release have passed. -/
def execFaultNInitDone (s : State) : Host.Outcome State Fault Refusal :=
  s.onChip fun c => c.setFlt fun x => { x with initDone := true }

end Sys2Proof.Machine
end

