-- ==== Sys2Proof/Machine/Access.lean ====
section
/-!
DEFINITION. Who may reach which register (R54, R339, R340, R354–R356, R447–R449), how a register is found in the map,
and how an access completes.
-/

namespace Sys2Proof.Machine

/-! ## The register at an address -/

/-- The indices of an offset under a register's index ranges, if it hits an instance. -/
def dimIdx : List (Nat × Nat × Nat) → Nat → Option (List Nat)
  | [], off => if off = 0 then some [] else none
  | (lo, cnt, st) :: ds, off =>
    let i := off / st
    if lo ≤ i ∧ i < lo + cnt then (dimIdx ds (off % st)).map (i :: ·) else none

/-- The fields of the register of one row at address `a`. -/
def RegRow.at (r : RegRow) (a : Nat) : Option (List FldRow) :=
  if r.base ≤ a then
    (dimIdx r.dims (a - r.base)).map fun l => r.flds (l.getD 0 0) (l.getD 1 0) (l.getD 2 0)
  else none

/-- The rows of the block an address lies in, by the 1 MiB span (R447). -/
def blockRows (a : Nat) : List RegRow :=
  match a / 0x100000 with
  | 0x00 => regRowsTOP
  | 0x01 => regRowsAIR
  | 0x02 => regRowsCNV
  | 0x03 => regRowsCNV
  | 0x04 => regRowsRFC
  | 0x10 => regRowsSQ
  | 0x11 => regRowsRK
  | 0x12 => regRowsWG
  | 0x13 => regRowsPRT
  | 0x14 => regRowsGPL
  | 0x15 => regRowsMTR
  | 0x16 => regRowsPSU
  | 0x17 => regRowsHK
  | 0x18 => regRowsTH
  | 0x19 => regRowsFLT
  | 0x1A => regRowsINT
  | 0x1B => regRowsCAP
  | 0x1C => regRowsCHL
  | 0x1D => regRowsSEC
  | 0x1E => regRowsPWR
  | 0x1F => regRowsTEN
  | 0x21 => regRowsSUP
  | _ => []

/-- The fields of the register at address `a`; none where no register lies (R6). -/
def regAt (a : Nat) : Option (List FldRow) := (blockRows a).findSome? fun r => r.at a

/-! ## Visibility -/

/-- The square whose resource the address is: its page, its rank sub-block or matrix window, or their staging views. -/
def squareOf (a : Nat) : Option Nat :=
  if 0x1000000 ≤ a ∧ a < 0x1100000 then some ((a - 0x1000000) % 0x80000 / 0x1000)
  else if 0x1100000 ≤ a ∧ a < 0x1200000 then
    let o := (a - 0x1100000) % 0x80000
    let k := o / 0x4000
    let p := o % 0x4000
    if 16 ≤ k then none
    else if 0x100 ≤ p ∧ p < 0x500 then some (8 * k + (p - 0x100) / 0x80)
    else if 0x1000 ≤ p ∧ p < 0x3000 then some (8 * k + (p - 0x1000) / 0x400)
    else none
  else none

/-- Whether the address lies in a staging view (R209). -/
def inStaging (a : Nat) : Bool :=
  [0x04, 0x10, 0x11, 0x12].contains (a / 0x100000) && 0x80000 ≤ a % 0x100000

/-- The queue of a capture sub-page: engine and function (R383). -/
def capQueueOf (a : Nat) : Option (Nat × Nat) :=
  if 0x1B01000 ≤ a ∧ a < 0x1B11000 then
    let p := (a - 0x1B01000) % 0x1000
    if 0x100 ≤ p ∧ p < 0x600 then some ((a - 0x1B01000) / 0x1000, (p - 0x100) / 0x80) else none
  else none

/-- What VF f sees (R355). -/
def Chip.vfSees (c : Chip) (f a : Nat) : Bool :=
  match squareOf a with
  | some n => c.owner n = f && !(inStaging a && decide (0x1000 ≤ (a - 0x1100000) % 0x4000) && decide (0x1100000 ≤ a))
  | none =>
    [0x100028, 0x100038, 0x100040, 0x1300000, 0x1300100 + 8 * f, 0x1300400 + 8 * f, 0x1A00300 + 8 * f,
      0x1B00100 + 0x20 * f, 0x1B00108 + 0x20 * f, 0x1B00110 + 0x20 * f].contains a
    || (0x1301000 + 0x100 * f ≤ a && a < 0x1301100 + 0x100 * f)
    || (0x1401000 + 0x100 * f ≤ a && a < 0x1401100 + 0x100 * f)
    || (0x1F01000 + 0x100 * f ≤ a && a < 0x1F01100 + 0x100 * f)
    || (match capQueueOf a with
        | some (e, g) => g = f && bit (c.ten? (F.TEN_CFG_CAP_ENG f)) e
        | none => false)

/-- Registers whose writes by VF f are access faults although it sees them (R367, R383). -/
def vfRefused (f a : Nat) : Bool :=
  [0x1B00100 + 0x20 * f, 0x1B00108 + 0x20 * f, 0x1B00110 + 0x20 * f].contains a
  || (0x1F01000 ≤ a && a < 0x1F02000 && !([0x80, 0x88, 0xF8].contains (a % 0x100)))

/-- Registers that a VF sees as read-only, so that a write has no effect (R5, R355): those of AIR, the staging views (R209), RK_NR. -/
def vfReadOnly (a : Nat) : Bool :=
  [0x100028, 0x100038, 0x100040].contains a || inStaging a
  || (0x1100000 ≤ a && a < 0x1200000 && 0x100 ≤ (a - 0x1100000) % 0x4000 && (a - 0x1100000) % 0x4000 < 0x500 &&
      ((a - 0x1100000) % 0x4000 - 0x100) % 0x80 = 0x18)

/-- Whether SUP_TEN_DENY denies the cores this address (R340). -/
def Chip.tenDenied (c : Chip) (a : Nat) : Bool :=
  let deny := fun f => 1 ≤ f && f ≤ 8 && c.rdBit F.SUP_TEN_DENY_DENY (f - 1)
  match squareOf a with
  | some n => deny (c.owner n)
  | none =>
    match capQueueOf a with
    | some (_, f) => deny f
    | none => if 0x1B00100 ≤ a ∧ a < 0x1B00240 then deny ((a - 0x1B00100) / 0x20) else false

/-- Whether core `k` may read address `a` (R339). -/
def Chip.coreReads (c : Chip) (k a : Nat) : Bool :=
  let b := a / 0x100000
  if b = 0x1D then false
  else if b = 0x19 then a ≠ 0x1900000 && a ≠ 0x1900040
  else if b = 0x14 then (decide (a < 0x1401000) && a ≠ 0x1400018) || (0x1401900 ≤ a && a < 0x1401A00)
  else if b = 0x1A then
    !(0x1A00300 ≤ a && a < 0x1A00348) && !(0x1A00100 ≤ a && a < 0x1A00200 && (a - 0x1A00100) % 0x40 < 0x10 && (a - 0x1A00100) / 0x40 ≠ k)
  else !c.tenDenied a

/-- Whether core `k` may write address `a` (R339); the capture windows and credits are the PF's (R383). -/
def Chip.coreWrites (c : Chip) (k a : Nat) : Bool :=
  let b := a / 0x100000
  if b = 0x10 ∨ b = 0x11 ∨ b = 0x12 then !c.tenDenied a
  else if b = 0x1B then !c.tenDenied a && !(0x1B00100 ≤ a && a < 0x1B00240)
  else if b = 0x14 then 0x1401900 ≤ a && a < 0x1401A00
  else if b = 0x19 then a ≠ 0x1900000 && a ≠ 0x1900040
  else if b = 0x1A then
    !(0x1A00300 ≤ a && a < 0x1A00348) && !(0x1A00100 ≤ a && a < 0x1A00200 && (a - 0x1A00100) % 0x40 < 0x10 && (a - 0x1A00100) / 0x40 ≠ k)
  else if b = 0x21 then a = 0x2180110 + 0x40 * k || (0x2180100 ≤ a && a < 0x2180200 && (a - 0x2180100) % 0x40 = 0x18)
  else [0x01, 0x02, 0x03, 0x04, 0x16, 0x17, 0x18, 0x1C].contains b

/-- Whether the requester may read the register at `a`. -/
def Chip.mayRead (c : Chip) (q : Requester) (a : Nat) : Bool :=
  match q with
  | .pf => true
  | .vf i => c.vfSees (i.val + 1) a
  | .core k => c.coreReads k.val a

/-- Whether a write of the register at `a` is one that may have an effect (DEDUCED, log 60). -/
def Chip.mayWrite (c : Chip) (q : Requester) (a : Nat) : Bool :=
  match q with
  | .pf => true
  | .vf i => c.vfSees (i.val + 1) a && !vfReadOnly a && !vfRefused (i.val + 1) a
  | .core k => c.coreWrites k.val a

/-- Whether a write of the register at `a` has no effect, and is no fault either: a VF sees it as read-only (R5, R355). -/
def Chip.idleWrite (c : Chip) (q : Requester) (a : Nat) : Bool :=
  match q with
  | .vf i => c.vfSees (i.val + 1) a && vfReadOnly a
  | _ => false

/-! ## Completion -/

/-- The access completes with this data. -/
def Chip.respond (c : Chip) (q : Requester) (data : Nat) : Chip := { c with bus := { req := q, data := data } }

/-- The access by a core raises an exception with this cause (R336, R338, R339); no other requester takes one. -/
def Chip.except (c : Chip) (q : Requester) (cause a : Nat) : Chip :=
  c.when q.isCore fun c => { c with bus := { c.bus with req := q, data := 0, exc := some (cause, a) } }

/-- A refused access: discarded, a read returns 0, and it is recorded; a core's load raises a load access fault (R339, R354). -/
def Chip.refuse (c : Chip) (q : Requester) (isWrite : Bool) (a : Nat) : Chip :=
  ((c.respond q 0).accessFault q 3 isWrite a).when (!isWrite) fun c => c.except q 5 (q.addr a)


/-- Whether VF f exists (R351): VF Enable, NumVFs, and VF 8 only under ARI. -/
def Chip.vfExists (c : Chip) (f : Nat) : Bool :=
  c.ten.vfEnable && decide (1 ≤ f) && decide (f ≤ min c.ten.numVfs (if c.ten.ariHier then 8 else 7))

/-- The function a requester is, none for a core. -/
def reqFunc : Requester → Option Nat
  | .pf => some 0
  | .vf i => some (i.val + 1)
  | .core _ => none

/-- Whether an access by the requester does not reach the registers: a VF that does not exist or is being reset (R364). -/
def Chip.deaf (c : Chip) (q : Requester) : Bool :=
  match q with
  | .vf i => !c.vfExists (i.val + 1) || c.on (F.TEN_VF_STATUS_FLR_BUSY (i.val + 1))
  | _ => false

/-- AER of function `f` records an Unsupported Request Error, and an Advisory Non-Fatal Error (R351) (PRESUMED, log 9). -/
def Ten.unsupported (f : Nat) (x : Ten) : Ten :=
  let set := fun (k i : Nat) (m : SMap Nat) => SMap.put 0 m (8 * f + k) (putBit (SMap.get 0 m (8 * f + k)) i true)
  { x with aer := set 3 13 (set 0 20 x.aer) }

/-- The access completes with Unsupported Request (R2, R364), which its function records. -/
def Chip.unsupported (c : Chip) (q : Requester) : Chip :=
  let c := { c with bus := { req := q, unsupported := true } }
  match reqFunc q with
  | none => c
  | some f => c.when (!c.deaf q) fun c => c.setTen (Ten.unsupported f)

/-- A write to the register at `a` whose effect is `g`: refused where the requester may not make it. -/
def Chip.write (c : Chip) (q : Requester) (a : Nat) (g : Chip → Chip) : Chip :=
  if c.deaf q then c
  else if c.mayWrite q a then g (c.respond q 0) else if c.idleWrite q a then c.respond q 0 else c.refuse q true a

/-- A read of the register at `a` that returns `v` and whose side effect is `g`. -/
def Chip.read (c : Chip) (q : Requester) (a : Nat) (h : Half) (v : Chip → Nat) (g : Chip → Chip) : Chip :=
  if c.deaf q then c.unsupported q
  else if c.mayRead q a then g (c.respond q (h.data (v c))) else c.refuse q false a

/-! ## Field-wise writes (R3, R5, R7) -/

/-- The bits of a field that an access reaches, as a mask over the field. -/
def fldMask (f : Fld) (h : Half) : Nat :=
  (List.range f.wd).foldl (fun m i =>
    if (f.lo + i < 32 && h.hasLo) || (32 ≤ f.lo + i && h.hasHi) then m + 2 ^ i else m) 0

/-- The value a field takes when the bits under `m` are replaced by those of `v`. -/
def mix (w m old v : Nat) : Nat :=
  Nat.lor (Nat.land v m) (Nat.land old (2 ^ w - 1 - m))

/-- The value written to field `f` by an access: `v` holds the full 64-bit register image. -/
def fldNew (f : Fld) (h : Half) (old v : Nat) : Nat := mix f.wd (fldMask f h) old (bits v f.lo f.wd)

/-- Whether the access reaches any bit of the field. -/
def reaches (f : Fld) (h : Half) : Bool := fldMask f h ≠ 0

/-- A write acts on one field by its access code; a reserved encoding leaves an RW field as it was (R5, R7). RWP fields
are staged elsewhere (R8), and WO fields act as their own rows say. -/
def Chip.fieldWrite (c : Chip) (r : FldRow) (h : Half) (v : Nat) : Chip :=
  let old := c.rd r.fld
  let new := fldNew r.fld h old v
  match r.acc with
  | .rw => if r.vmin ≤ new ∧ new ≤ r.vmax then c.wr r.fld new else c
  | .w1c => c.wr r.fld (Nat.land old (2 ^ r.fld.wd - 1 - Nat.land (bits v r.fld.lo r.fld.wd) (fldMask r.fld h)))
  | .w1s => c.wr r.fld (Nat.lor old (Nat.land (bits v r.fld.lo r.fld.wd) (fldMask r.fld h)))
  | .ro | .rc | .wo | .rwp => c

/-- A write acts on every field of the register (R5). -/
def Chip.fieldsWrite (c : Chip) (l : List FldRow) (h : Half) (v : Nat) : Chip :=
  l.foldl (fun c r => c.fieldWrite r h v) c

/-- What a field reads as (R5). -/
def Chip.fieldRead (c : Chip) (r : FldRow) : Nat :=
  match r.acc with
  | .wo => 0
  | _ => c.rd r.fld

/-- The 64-bit word that the stored fields of a register give. -/
def Chip.regWord (c : Chip) (l : List FldRow) : Nat := l.foldl (fun a r => a + c.fieldRead r * 2 ^ r.fld.lo) 0

/-- RC fields that the access reaches clear (R5, R3): to 0, or, where the reset value is another, to it ("smallest since read",
R407). -/
def Chip.rcClear (c : Chip) (l : List FldRow) (h : Half) : Chip :=
  l.foldl (fun c r =>
    match r.acc with
    | .rc => c.wr r.fld (mix r.fld.wd (fldMask r.fld h) (c.rd r.fld) r.fld.rst)
    | _ => c) c

end Sys2Proof.Machine
end

