-- ==== Sys2Proof/Machine/Buffer.lean ====
section
/-!
DEFINITION. What the capture engines take from the signal path (R368, R370, R376, R379): sources, the engine's buffer of 256 KiB, the
blocks that it holds, and the samples that find it full.
-/

namespace Sys2Proof.Machine

/-- Samples per record (R371). -/
def CapDesc.count (d : CapDesc) : Nat :=
  match d.format with
  | 0 => 1016
  | 1 => 508
  | _ => 2032

/-- The streams that get a record in each block (R370, R371): for a raw lane, the lane. -/
def CapDesc.list (d : CapDesc) : List Nat := if d.src = 4 then [d.unit] else (List.range 8).filter fun k => bit d.streams k

/-- The bytes of one sample of one stream (R371). -/
def CapDesc.width (d : CapDesc) : Nat := match d.format with
  | 0 => 4
  | 1 => 8
  | _ => 2

/-- The bytes of one sample instant of a descriptor. -/
def CapDesc.size (d : CapDesc) : Nat := d.width * d.list.length

/-- The engine's buffer (R376), and the samples of a raw lane that fill it. -/
def capBuffer : Nat := 262144
@[inherit_doc capBuffer] def capSnapshot : Nat := capBuffer / 2

/-- The bytes that a streamed descriptor holds in the buffer: its whole blocks, less the records written, and the block that fills. -/
def CapRun.used (r : CapRun) (d : CapDesc) : Nat := (r.blocks.length * d.list.length - r.blk) * 4064 + r.part.rows.length * d.size

/-- CAP_ENG.BUF of engine `e` (R383): its 18 bits do not hold a full buffer, for which they are a free value (DESIGN CHOICE, log 41). -/
def Chip.showBuf (c : Chip) (e used : Nat) : Chip :=
  if used < capBuffer then c.wr (F.CAP_ENG_BUF e) used else (c.wr (F.CAP_ENG_BUF e) (c.free % 2 ^ 18)).tick

/-- One sample instant at the tap of a streamed descriptor, `off` being AT less its count without steps (R370, R379): a sample that finds
the buffer full is lost. With the first that finds room again a new block begins; one that was not full when the loss came is lost with
it, since no record is short and none has a gap inside (DESIGN CHOICE, log 39). -/
def CapRun.take (d : CapDesc) (off : Int) (row : List (Option Cx)) (r : CapRun) : CapRun :=
  if capBuffer < r.used d + d.size then { r with idx := r.idx + 1, missed := r.missed + 1 } else
  let p := if r.missed = 0 then r.part else { lost := r.part.lost + r.part.rows.length + r.missed }
  let p := if p.rows.isEmpty then { p with idx := r.idx, off := off } else p
  let p := { p with rows := row :: p.rows }
  if p.rows.length < d.count then { r with idx := r.idx + 1, missed := 0, part := p }
  else { r with
    idx := r.idx + 1, missed := 0, part := {}
    blocks := r.blocks ++ [{ p with rows := p.rows.reverse, step := decide (off ≠ p.off) }] }

/-- AT less its count without steps. -/
def Chip.atOff (c : Chip) : Int := (c.rd F.AIR_AT_AT : Int) - c.air.mono

/-- Engine `e`, if it streams from square `n`, takes the next `k` sample instants up to the position `pos`; `x` gives what stream `r` shows
at tap `src` in each of them, none while it is absent or gated (R368) (DESIGN CHOICE, log 97). -/
def Chip.capTake (c : Chip) (e n k pos : Nat) (x : Nat → Nat → List (Option Cx)) : Chip :=
  match (c.eng e).cur with
  | none => c
  | some r =>
    match r.desc with
    | none => c
    | some d =>
      if !r.taking ∨ d.src = 4 ∨ d.unit ≠ n then c else
      let cols := d.list.map (x d.src)
      let r := (List.range k).foldl (fun r i => r.take d c.atOff (cols.map fun l => l.getD i (some Cx.zero))) { r with pos := pos }
      (c.setEng e fun y => { y with cur := some r }).showBuf e (r.used d)

/-- The raw lane of engine `e` up to the converter clock `next`, whose samples are `l`, newest first: what is still to come of the snapshot
is filled (R376). -/
def CapRun.fill (r : CapRun) (off : Int) (next : Nat) (l : List Int) : CapRun :=
  let k := min (next - r.pos) (capSnapshot - r.filled)
  let new := (List.range k).map fun i => l.getD (next - 1 - (r.pos + k - 1 - i)) 0
  { r with raw := new ++ r.raw, filled := r.filled + k, pos := next, offs := if k = 0 then r.offs else (r.filled, off) :: r.offs }

/-- AT less its count without steps at sample `i` of a snapshot. -/
def CapRun.offAt (r : CapRun) (i : Nat) : Int := ((r.offs.find? fun p => decide (p.1 ≤ i)).getD (0, 0)).2

/-- Square `n` is no source of the VF that captures it any more: what is left of the element carries DENIED (R374). -/
def Chip.capDeny (c : Chip) (n : Nat) : Chip :=
  c.forEach (List.range 16) fun e c => c.setEng e fun x => { x with cur := x.cur.map fun r =>
    match r.desc with
    | none => r
    | some d => { r with denied := r.denied || (r.run && d.src ≠ 4 && d.unit = n && decide (1 ≤ r.q) && decide (r.q ≤ 8)) } }

end Sys2Proof.Machine
end

