-- ==== Sys2Proof/Machine/Db.lean ====
section
/-!
DEFINITION. Fractions, and decibels by exact comparison: a power ratio is rounded to dB by comparing integer powers, so
the result is the correctly rounded one; the way back, from dB to a linear value, is by integer roots.
-/

namespace Sys2Proof.Machine

/-! ## Fractions -/

/-- num / den in lowest terms; 0 when den is 0. -/
def Frac.mk' (num : Int) (den : Nat) : Frac :=
  if den = 0 then {} else
  let g := Nat.gcd num.natAbs den
  ⟨num / (g : Int), den / g⟩

/-- A whole number. -/
def Frac.ofNat (n : Nat) : Frac := ⟨n, 1⟩
/-- Sum. -/
def Frac.add (a b : Frac) : Frac := Frac.mk' (a.num * b.den + b.num * a.den) (a.den * b.den)
/-- Difference. -/
def Frac.sub (a b : Frac) : Frac := Frac.mk' (a.num * b.den - b.num * a.den) (a.den * b.den)
/-- Quotient by a whole number. -/
def Frac.divN (a : Frac) (n : Nat) : Frac := Frac.mk' a.num (a.den * n)
/-- Whether a ≤ b. -/
def Frac.le (a b : Frac) : Bool := decide (a.num * b.den ≤ b.num * a.den)
/-- The larger. -/
def Frac.max (a b : Frac) : Frac := if a.le b then b else a

/-! ## What the spec leaves open -/

/-- A sum kept in an accumulator of `w` bits (DESIGN CHOICE, log 14). -/
def accum (w : Nat) (i : Int) : Int := if satS w i = i then i else Config.overflow w i

/-- num / den rounded in a direction that the spec leaves open (DESIGN CHOICE, log 13). -/
def rndOpen (key : Nat) (num : Int) (den : Nat) : Int :=
  num / den + (if num % (den : Int) = 0 then 0 else b2n (Config.roundUp key num))

/-! ## Roots and powers -/

/-- Bit-by-bit search for the largest root: `b` bits left, `acc` found. -/
def irootGo (n N : Nat) : Nat → Nat → Nat
  | 0, acc => acc
  | b + 1, acc => irootGo n N b (if (acc + 2 ^ b) ^ n ≤ N then acc + 2 ^ b else acc)

/-- The largest r < 2^b with r^n ≤ N. -/
def iroot (n b N : Nat) : Nat := irootGo n N b 0

/-- The largest r with r² ≤ N. -/
def isqrt (N : Nat) : Nat := iroot 2 (Nat.log2 N / 2 + 1) N

/-! ## From a power ratio to dB -/

/-- 10^(2k − 1) × D ≤ N, for any integer k: the ratio whose 20S-th power is N / D stands at or above k − 1/2 steps of 1/S dB. -/
def dbAtLeast (N D : Nat) (k : Int) : Bool :=
  if 0 < k then decide (10 ^ (2 * k - 1).toNat * D ≤ N) else decide (D ≤ N * 10 ^ (1 - 2 * k).toNat)

/-- Bisection for the largest k that holds, from `lo` (which holds) upward. -/
def dbSearch (N D : Nat) : Nat → Int → Int
  | 0, lo => lo
  | b + 1, lo => dbSearch N D b (if dbAtLeast N D (lo + 2 ^ b) then lo + 2 ^ b else lo)

/-- 10 log10(num / den) in steps of 1/S dB, rounded to nearest; num, den > 0; from −2^16 steps up. -/
def dbRound (S num den : Nat) : Int := dbSearch (num ^ (20 * S)) (den ^ (20 * S)) 17 (-65536)

/-- A power ratio in 0.01 dB. -/
def db100 (num den : Nat) : Int := dbRound 100 num den

/-- A mean |x|² of Q0.19 samples, in units of 2^−38, as Q7.8 dBFS (R123): none below −120.00 dBFS, which reads 0x8000. -/
def dbfs (p : Frac) : Option Int :=
  if p.num ≤ 0 then none else
  if p.num * (10 ^ 12 : Nat) < (p.den * 2 ^ 36 : Nat) then none else
  some (dbRound 256 p.num.toNat (p.den * 2 ^ 36))

/-- The register form of a detector value: 0x8000 when there is none. -/
def dbfsReg (p : Option Frac) : Nat :=
  match p.bind dbfs with
  | none => 0x8000
  | some v => ofS 16 (satS 16 v)

/-! ## From dB to a linear value -/

/-- The scale of `lin`: 10^33 × 2^40. -/
def linScale : Nat := 10 ^ 33 * 2 ^ 40

/-- 10^(v / 1000) × `linScale`, for v in 0.01 dB from −330 dB up: whole decades exactly, the rest by a root (DEDUCED, log 54). -/
def lin (v : Int) : Nat :=
  let w := (v + 33000).toNat
  10 ^ (w / 1000) * iroot 1000 44 (10 ^ (w % 1000) * 2 ^ 40000)

/-- A sum of `lin` values back in 0.01 dB; none when it is 0. -/
def unlin (n : Nat) : Option Int := if n = 0 then none else some (db100 n linScale)

/-- The register form of a power sum: 0x8000 stands for no power (R36). -/
def powReg (n : Nat) : Nat :=
  match unlin n with
  | none => 0x8000
  | some v => ofS 16 (satS 16 v)

/-- The amplitude factor 10^(g/20) for g in 0.01 dB, with `fb` fraction bits, rounded down. -/
def amp (g : Int) (fb : Nat) : Nat :=
  -- 10^(g/2000) = 10^(a − 20) × 10^(b/2000) with g + 40000 = 2000 a + b
  let w := (g + 40000).toNat
  10 ^ (w / 2000) * iroot 2000 44 (10 ^ (w % 2000) * 2 ^ 80000) * 2 ^ fb / (10 ^ 20 * 2 ^ 40)

end Sys2Proof.Machine
end

