-- ==== Sys2Proof/Machine/Wing.lean ====
section
/-!
DEFINITION. Wings and package power (R26, R36, R37): the sums, the limits, and the wing's mute source.
-/

namespace Sys2Proof.Machine

/-- The squares of a wing (R11). -/
def wingSquares (w : Nat) : List Nat := (List.range 32).map fun i => 32 * w + i

/-- The die that judges the side of a wing: the DCD the donor side (UL wings), the SCD the service side (R290). -/
def wingDie (w : Nat) : Nat := if 2 ≤ w then 0 else 1

/-- Lanes of die `d` with ONLINE = 1 (R290). -/
def Chip.onlineCount (c : Chip) (d : Nat) : Nat := (List.range 8).countP fun l => c.on (F.CNV_LANE_ONLINE d l)

/-- Whether the side judged by die `d` is in stepped mode: before the first evaluation the mode follows the lane count
continuously (R286, R290). -/
def Chip.stepped (c : Chip) (d : Nat) : Bool :=
  if c.on F.TH_STATUS_ACTIVE then c.on (if d = 0 then F.TH_STATUS_MODE_D else F.TH_STATUS_MODE_S)
  else decide (4 < c.onlineCount d)

/-- STEP_CUT of wing `w`: before the first evaluation the cut of its mode at full depth (R286, R294). -/
def Chip.stepCut (c : Chip) (w : Nat) : Nat :=
  if c.on F.TH_STATUS_ACTIVE then c.rd (F.WG_THSTEP_STEP_CUT w)
  else if c.stepped (wingDie w) then 5 * c.rd F.TH_CFG_STEP_DB else c.rd F.TH_CFG_CUT_MAX

/-- EFF_LIMIT of wing `w`: TX_BUDGET − STEP_CUT, not below 0x8000 (R36). -/
def Chip.effLimit (c : Chip) (w : Nat) : Int :=
  max (-32768) (c.rdS (F.WG_BUDGET_TX_BUDGET w) - c.stepCut w)

/-- The package limit of the side on which wing `w` transmits: donor for UL wings, service for DL wings (R29, R36). -/
def Chip.pkgLimit (c : Chip) (w : Nat) : Int :=
  if 2 ≤ w then c.rdS F.WG_PKG_LIMIT_DONOR_LIMIT else c.rdS F.WG_PKG_LIMIT_SERVICE_LIMIT

/-- Whether a limit at 0x8000 keeps the wing muted (R37). -/
def Chip.wingLimited (c : Chip) (w : Nat) : Bool := c.effLimit w = -32768 || c.pkgLimit w = -32768

/-- Whether the wing has a datapath fault that is not cleared (R302, R304). -/
def Chip.wingFaulted (c : Chip) (w : Nat) : Bool := c.prt.wingFault.contains w || c.prt.wingHold.contains w

/-- Bring MS_WING of the wing's squares in line with the wing's fault and limits (R26, R37). -/
def Chip.refreshWing (c : Chip) (w : Nat) : Chip :=
  let want := c.wingFaulted w || c.wingLimited w
  c.forEach (wingSquares w) fun n c =>
    if c.on (F.SQ_STATUS_MS_WING (c.leader n)) = want then c else if want then c.setMs .wing n else c.clrMs .wing n

/-- Bring MS_WING of every wing in line. -/
def Chip.refreshWings (c : Chip) : Chip := c.forEach (List.range 4) fun w c => c.refreshWing w

/-- The antenna-referred linear output of square `n` on its transmit lanes with DEST = 1 (R36, R37), on the scale of `lin`:
the fine output detector of each lane through the lane's TX_GAIN. -/
def Chip.sqOut (c : Chip) (n : Nat) : Nat :=
  (List.range 8).foldl (fun a l =>
    if c.dest n l = 1 && bit (c.laneEn n) l then
      let y := (SMap.get {} (c.sq n).det l).yOut
      a + y.num.toNat * lin (c.rdS (F.RFC_CHAIN_TX_GAIN (txChain n l))) / (y.den * 2 ^ 36)
    else a) 0

/-- The summed output of a list of squares; members of a group radiate through their leader. -/
def Chip.sumOut (c : Chip) (l : List Nat) : Nat := l.foldl (fun a n => if c.acts n then a + c.sqOut n else a) 0

/-- Whether every square is enabled among those a tenant owns on one side. -/
def Chip.ownEnabled (c : Chip) (f : Nat) (ul : Bool) : List Nat :=
  allSquares.filter fun n => isUl n = ul && c.owner n = f && c.on (F.SQ_CTRL_ENABLE (c.leader n)) && c.routed n

/-- The update of the wing, package and tenant sums (R37). -/
def Chip.powerSums (c : Chip) : Chip :=
  let c := c.forEach (List.range 4) fun w c =>
    let t := powReg (c.sumOut (wingSquares w))
    let c := c.wr (F.WG_MEAS_TX_SUM w) t
    c.when (t ≠ 0x8000 && decide (c.effLimit w < toS 16 t)) fun c => c.raise (F.WG_MEAS_OVER w)
  let c := c.wr F.WG_PKG_MEAS_DONOR_SUM (powReg (c.sumOut (allSquares.filter isUl)))
  let c := c.wr F.WG_PKG_MEAS_SERVICE_SUM (powReg (c.sumOut (allSquares.filter fun n => !isUl n)))
  c.forEach (List.range 8) fun i c =>
    let c := c.wr (F.TEN_MEAS_DONOR_SUM (i + 1)) (powReg (c.sumOut (c.ownEnabled (i + 1) true)))
    c.wr (F.TEN_MEAS_SERVICE_SUM (i + 1)) (powReg (c.sumOut (c.ownEnabled (i + 1) false)))

/-- POWER_SUM_UPDATE (R37): at each tempo boundary whose tempo number is a multiple of 16. -/
def execPowerSumUpdate (s : State) : Host.Outcome State Fault Refusal :=
  s.onChip fun c => c.when (c.air.onB && c.tempoNum % 16 = 0) Chip.powerSums

/-- WING_PARITY_ERROR (R26): a wing datapath fault mutes the wing's 32 squares; source 400 + w, 1 channeliser, 2 combiner. -/
def Chip.wingParity (c : Chip) (w : Nat) (cause : Nat) : Chip :=
  let c := c.setPrt fun x => { x with wingFault := setIns w x.wingFault }
  (c.faultTimed { src := 400 + w, cause := cause }).refreshWing w

@[inherit_doc Chip.wingParity]
def execWingParityError (wing : Fin 4) (combiner : Bool) (s : State) : Host.Outcome State Fault Refusal :=
  s.onChip fun c => c.wingParity wing (if combiner then 2 else 1)

end Sys2Proof.Machine
end

