-- ==== Sys2Proof/Machine/Slot.lean ====
section
/-!
DEFINITION. What a square's slot comes to (R112, R113, R115, R119, R129, R136): rates, placement, processed streams, tap cost, ramps.
-/

namespace Sys2Proof.Machine

/-- The converter rate of die `d` in Hz: 40 kHz × RATE_K (R88). -/
def Chip.fs (c : Chip) (d : Nat) : Nat := 40000 * c.rd (F.CNV_CLK_RATE_K d)

/-- n of R113. -/
def Chip.subN (c : Chip) (n : Nat) : Nat := c.subLast n + 1 - c.subFirst n

/-- The smallest d with 2^d ≥ n; 7 when n > 64 (R113, SQ_RATE). -/
def decimD (n : Nat) : Nat := ((List.range 7).find? fun d => n ≤ 2 ^ d).getD 7

/-- Slot rate in Hz (R17): 1.2288 × slot bandwidth. -/
def Chip.slotRate (c : Chip) (n : Nat) : Nat := 122880 * c.slotBw n

/-- Placement of the square that leads at `n` (R115), for these carrier centres (10 Hz units) and this sub-band offset. -/
def Chip.placed (c : Chip) (n fcRx fcTx : Nat) (ofs : Int) : Bool :=
  let fs : Int := c.fs (rxDie n)
  let half : Int := 50000 * c.slotBw n
  let sf : Int := c.subFirst n
  let sl : Int := c.subLast n
  let rx : Int := 10 * fcRx
  let tx : Int := 10 * fcTx
  let rm : Int := fs * 2 ^ decimD (c.subN n)
  let r : Int := 512 * c.slotRate n
  decide (c.subN n ≤ 64) &&
  decide ((2 * sf - 1) * fs ≤ (rx - half) * 2048) && decide ((rx + half) * 2048 ≤ (2 * sl + 1) * fs) &&
  decide (r ≤ rm) && decide (rm < 32 * r) &&
  decide (0 ≤ sf + ofs) && decide (sl + ofs ≤ 511) &&
  decide ((2 * (sf + ofs) - 1) * fs ≤ (tx - half) * 2048) && decide ((tx + half) * 2048 ≤ (2 * (sl + ofs) + 1) * fs)

/-- Placement of a square under its active carriers. -/
def Chip.placedNow (c : Chip) (n : Nat) : Bool :=
  c.placed n (c.rd (F.SQ_FREQ_RX_FC_FOLD n)) (c.rd (F.SQ_FREQ_TX_FC_FOLD n)) (c.rdS (F.SQ_FREQ_TX_TX_SUB_OFS n))

/-- Processed streams: the routed receive lanes (R119). -/
def Chip.lanes (c : Chip) (n : Nat) : List Nat := (List.range 8).filter fun k => bit (c.laneEn n) k

/-- P of R136: present paths of the square. -/
def Chip.pathCount (c : Chip) (n : Nat) : Nat :=
  (List.range 64).countP fun p => bit (c.laneEn n) (p / 8) && bit (c.sqw n 4) p

/-- Total taps and TAPBW of the square that leads at `n` (R136). -/
def Chip.tapsOf (c : Chip) (n : Nat) : Nat := (c.lanes n).length * c.firTaps n + c.pathCount n * c.echoTaps n
@[inherit_doc Chip.tapsOf] def Chip.tapBw (c : Chip) (n : Nat) : Nat := c.tapsOf n * c.slotBw n

/-- N of R129: slot samples of a mute ramp. -/
def Chip.rampN (c : Chip) (n : Nat) : Nat := max 2 (128 * c.slotBw n / 1000)

/-- Whether 16 + FIR_TAPS slot samples have passed since `t`, in Tc advanced (R130, R192). -/
def Chip.filled (c : Chip) (n t : Nat) : Bool :=
  decide ((16 + c.firTaps n) * 16000 ≤ (c.air.mono - t) * c.slotBw n) && decide (t ≤ c.air.mono)

end Sys2Proof.Machine
end

