-- ==== Sys2Proof/Machine/Square.lean ====
section
/-!
DEFINITION. Squares (R115–R122): failed placement, what a boundary still brings, the square's own faults (R23, R302), and the
coefficient banks.
-/

namespace Sys2Proof.Machine

/-! ## Placement -/

/-- PLACEMENT_MUTE (R115): an enabled square whose placement fails is muted once its die is in RUN again (STATE 3). -/
def execPlacementMute (sq : Fin 128) (s : State) : Host.Outcome State Fault Refusal :=
  s.onChip fun c =>
    if c.acts sq && c.on (F.SQ_CTRL_ENABLE sq) && !c.placedNow sq && c.air.onB && decide (c.rd (F.CNV_STATUS_STATE (rxDie sq)) = 3) then
      (c.setMs .placement sq).raise (F.SQ_INT_STATUS_PLACEMENT sq)
    else c

/-! ## What a boundary still brings -/

/-- Tenancy has something to do at this boundary, which comes before every plan (R212, R358, R362, R364). -/
def Chip.tenDue (c : Chip) : Bool :=
  (match c.ten.assign with
    | some (_, _, t) => decide (t ≤ c.air.tempi)
    | none => false) ||
  c.ten.waits.any (fun w => decide (w.2.2.2 ≤ c.air.tempi)) || c.ten.flrDue.any fun p => decide (p.2 ≤ c.air.tempi)

/-- Whether something that may change the values of the boundary is still to come at it: tenancy, a plan, a PLAN occurrence. -/
def Chip.toCome (c : Chip) : Bool :=
  c.tenDue || c.gpl.due.any (fun p => decide (p.2 ≤ c.air.tempi)) || c.air.taken.any fun o => o.kind = 3 && o.fire = (c.now : Int)

/-! ## The square's own faults -/

/-- Bring MS_FAULT and MS_GROUP of a group in line with its members' conditions (R23, R24, R159, R304). -/
def Chip.refreshFault (c : Chip) (n : Nat) : Chip :=
  let u := c.leader n
  let bad := fun m => (c.sq m).fParity || !(c.sq m).stab.isEmpty || (c.sq m).sevParity || (c.sq m).sevStab
  let own := bad u
  let oth := (c.group u).any fun m => m ≠ u && bad m
  let c := if own then (if c.on (F.SQ_STATUS_MS_FAULT u) then c else c.setMs .fault u) else c.wr (F.SQ_STATUS_MS_FAULT u) 0
  if oth then (if c.on (F.SQ_STATUS_MS_GROUP u) then c else c.setMs .group u) else c.wr (F.SQ_STATUS_MS_GROUP u) 0

/-- A datapath fault of square `n` (R23, R122, R174): causes 1 datapath, 2 FIR bank, 3 matrix bank; an error of a memory carries the byte
address in it and is a memory read (R308) (DEDUCED, log 105). -/
def Chip.squareParity (c : Chip) (n cause : Nat) (addr : Option Nat := none) : Chip :=
  ((c.setSq n fun q => { q with fParity := true }).faultTimed
    { src := n, cause := cause, access := if addr.isSome then 4 else 0, addr := addr }).refreshFault n

/-- SQUARE_PARITY_ERROR (R23, R122): in the datapath, or in a coefficient of the active bank, which stays wrong until rewritten (DEDUCED, log 68). -/
def execSquareParityError (sq : Fin 128) (inCoef : Option (Fin 384)) (s : State) : Host.Outcome State Fault Refusal :=
  s.onChip fun c =>
    match inCoef with
    | none => c.squareParity sq 1
    | some i =>
      let k := 384 * c.rd (F.SQ_CTRL_FIR_BANK sq) + i
      (c.setSq sq fun q => { q with coefBad := setIns k q.coefBad }).squareParity sq 2 (some (8 * k))

/-- The exit of a square datapath fault (R302), or what a SEVERE hold keeps of it (R304). -/
def Chip.squareExit (c : Chip) (n : Nat) : Chip :=
  let sv := c.severe n
  ((c.wrSrc F.FLT_ACTIVE_ACTIVE n false).setSq n fun q => { q with fParity := false, sevParity := sv }).refreshFault n

/-- The exit of a wing datapath fault (R302, R304). -/
def Chip.wingExit (c : Chip) (w : Nat) : Chip :=
  let sv := c.severe (400 + w)
  ((c.wrSrc F.FLT_ACTIVE_ACTIVE (400 + w) false).setPrt fun x => { x with
    wingFault := setDel w x.wingFault, wingHold := if sv then setIns w x.wingHold else x.wingHold }).refreshWing w

/-- DATAPATH_FAULT_CLEAR (R302): at the first boundary at least one recovery interval after the last parity error. -/
def execDatapathFaultClear (src : Fin 512) (s : State) : Host.Outcome State Fault Refusal :=
  s.onChip fun c =>
    if !c.recovered src then c
    else if src.val < 128 then (if (c.sq src).fParity then c.squareExit src else c)
    else if 400 ≤ src.val ∧ src.val < 404 then (if c.prt.wingFault.contains (src - 400) then c.wingExit (src - 400) else c)
    else c

/-! ## Coefficient banks (R121) -/

/-- Address of SQ_COEF_DATA of square `n`. -/
def aCoefData (n : Nat) : Nat := 0x1000128 + 0x1000 * n

/-- The state of a context's plan: 2 = PENDING, 3 = WAIT_SCHED (R210). -/
def Chip.committed (c : Chip) (x : Nat) : Bool := c.rd (F.GPL_STATUS_STATE x) = 2 || c.rd (F.GPL_STATUS_STATE x) = 3

/-- Whether a committed plan stages field `f` of target `t` (R121, R175). -/
def Chip.locked (c : Chip) (t : Nat) (f : Fld) : Bool :=
  match c.claims.find t with
  | none => false
  | some x => c.committed x && c.shadow.has f.key

/-- SQ_COEF_STATUS.LOCKED (R121). -/
def Chip.coefLocked (c : Chip) (n : Nat) : Bool := c.locked n (F.SQ_CTRL_FIR_BANK n)

/-- The key of coefficient INDEX in the inactive bank. -/
def Chip.coefKey (c : Chip) (n : Nat) : Nat :=
  384 * (1 - c.rd (F.SQ_CTRL_FIR_BANK n)) + c.rd (F.SQ_COEF_ADDR_INDEX n)

/-- INDEX advances after an access to bits [63:32] (R121). -/
def Chip.coefAdvance (c : Chip) (n : Nat) (h : Half) : Chip :=
  c.when (h.hasHi && c.on (F.SQ_COEF_ADDR_AUTOINC n)) fun c =>
    let i := c.rd (F.SQ_COEF_ADDR_INDEX n)
    c.wr (F.SQ_COEF_ADDR_INDEX n) (if 383 ≤ i then 0 else i + 1)

/-- The register image of a coefficient: RE in [17:0], IM in [49:32]. -/
def coefImage (x : Cx) : Nat := ofS 18 x.re + ofS 18 x.im * 2 ^ 32

/-- A write of SQ_COEF_DATA (R121): half by half, new parity with the data. -/
def Chip.coefWrite (c : Chip) (n : Nat) (h : Half) (v : Nat) : Chip :=
  if c.coefLocked n then c.raise (F.SQ_INT_STATUS_COEF_DROP n) else
  let i := c.rd (F.SQ_COEF_ADDR_INDEX n)
  let w := h.image v
  let k := c.coefKey n
  let c := c.when (i < 384) fun c => c.setSq n fun q =>
    let old := SMap.get Cx.zero q.coef k
    let new : Cx := ⟨if h.hasLo then toS 18 (bits w 0 18) else old.re, if h.hasHi then toS 18 (bits w 32 18) else old.im⟩
    { q with coef := SMap.put Cx.zero q.coef k new, coefBad := setDel k q.coefBad }
  c.coefAdvance n h

/-- What a read of SQ_COEF_DATA returns (R121). -/
def Chip.coefRead (c : Chip) (n : Nat) : Nat :=
  if c.rd (F.SQ_COEF_ADDR_INDEX n) < 384 then coefImage (SMap.get Cx.zero (c.sq n).coef (c.coefKey n)) else 0

/-- SQ_COEF_WRITE (R121). -/
def execSqCoefWrite (q : Requester) (sq : Fin 128) (half : Half) (value : Nat) (s : State) : Host.Outcome State Fault Refusal :=
  s.onAccess q fun c => c.write q (aCoefData sq) fun c => c.coefWrite sq half value

/-- SQ_COEF_READ (R121). -/
def execSqCoefRead (q : Requester) (sq : Fin 128) (half : Half) (s : State) : Host.Outcome State Fault Refusal :=
  s.onAccess q fun c => c.read q (aCoefData sq) half (fun c => c.coefRead sq) fun c => c.coefAdvance sq half

end Sys2Proof.Machine
end

