-- ==== Sys2Proof/Machine/Echo.lean ====
section
/-!
DEFINITION. The echo canceller's registers and decisions (R139–R161): coefficient access, the isolation estimate, the
margin, CHECK, the floor, divergence, and the gain that a boundary applies (R126, R127, R155, R170, R187).
-/

namespace Sys2Proof.Machine

/-! ## Coefficient access (R147, R161) -/

/-- Address of SQ_EC_CDATA of square `n`. -/
def aEcData (n : Nat) : Nat := 0x1000248 + 0x1000 * n

/-- The key of the coefficient that SQ_EC_CADDR names. -/
def Chip.ecKey (c : Chip) (n : Nat) : Nat := 64 * c.rd (F.SQ_EC_CADDR_PATH n) + c.rd (F.SQ_EC_CADDR_TAP n)

/-- TAP advances, and PATH after TAP 63 (R147). -/
def Chip.ecAdvance (c : Chip) (n : Nat) (h : Half) : Chip :=
  c.when (h.hasHi && c.on (F.SQ_EC_CADDR_AUTOINC n)) fun c =>
    let t := c.rd (F.SQ_EC_CADDR_TAP n)
    let c := c.wr (F.SQ_EC_CADDR_TAP n) (t + 1)
    c.when (t = 63) fun c => c.wr (F.SQ_EC_CADDR_PATH n) (c.rd (F.SQ_EC_CADDR_PATH n) + 1)

/-- A write of SQ_EC_CDATA (R147): only while EC_EN is 0 or the square is OFF; a member's window discards (R161). -/
def Chip.ecWrite (c : Chip) (n : Nat) (h : Half) (v : Nat) : Chip :=
  if c.isMember n then c
  else if c.on (F.SQ_EC_CTRL_EC_EN n) ∧ c.sqState n ≠ 0 then c.raise (F.SQ_EC_INT_STATUS_COEF_DROP n)
  else
    let w := h.image v
    let k := c.ecKey n
    let c := c.setSq n fun q =>
      let old := SMap.get Cx.zero q.ec k
      { q with
          ec := SMap.put Cx.zero q.ec k ⟨if h.hasLo then toS 24 (bits w 0 24) else old.re, if h.hasHi then toS 24 (bits w 32 24) else old.im⟩ }
    c.ecAdvance n h

/-- What a read of SQ_EC_CDATA returns: RE in [23:0], IM in [55:32]; 0 in a member's window. -/
def Chip.ecRead (c : Chip) (n : Nat) : Nat :=
  if c.isMember n then 0 else
  let x := SMap.get Cx.zero (c.sq n).ec (c.ecKey n)
  ofS 24 x.re + ofS 24 x.im * 2 ^ 32

/-- EC_COEF_WRITE (R147). -/
def execEcCoefWrite (q : Requester) (sq : Fin 128) (half : Half) (value : Nat) (s : State) : Host.Outcome State Fault Refusal :=
  s.onAccess q fun c => c.write q (aEcData sq) fun c => c.ecWrite sq half value

/-- EC_COEF_READ (R147). -/
def execEcCoefRead (q : Requester) (sq : Fin 128) (half : Half) (s : State) : Host.Outcome State Fault Refusal :=
  s.onAccess q fun c => c.read q (aEcData sq) half (fun c => c.ecRead sq) fun c =>
    c.ecAdvance sq half

/-! ## Faults of stability (R157–R159) -/

/-- The estimate is no longer valid: I_EFF and MARGIN read 0x8000 (R153) (DEDUCED, log 102). -/
def Chip.dropEst (c : Chip) (n : Nat) : Chip :=
  (((c.wr (F.SQ_EC_STATUS_EST_VALID n) 0).wr (F.SQ_EC_MARGIN_I_EFF n) 0x8000).wr (F.SQ_EC_MARGIN_MARGIN n) 0x8000).setSq n
    fun q => { q with goodSteps := 0 }

/-- The stability fault of square `n` is raised (R157, R158, R309): the source's event, and the time from which this cause may clear
(R159, R218). With the event of a floor that is raised at the same boundary there is no second one. -/
def Chip.stabRaise (c : Chip) (n cause : Nat) : Chip :=
  let t := c.ceilTempo + c.recov
  let stood := c.air.onB && decide ((c.sq n).stab.find 1 = some t) && decide (cause = 2)
  let c := c.setSq n fun q => { q with stab := SMap.insert cause t q.stab }
  (c.when (!stood) fun c => c.faultTimed { src := 128 + n, cause := cause }).refreshFault n

/-- Receive lanes `rs` of square `n` diverge (R158). -/
def Chip.diverge (c : Chip) (n : Nat) (rs : List Nat) : Chip :=
  if rs.isEmpty then c else
  let c := c.forEach rs fun r c =>
    (c.wrBit (F.SQ_EC_STATUS_DIVERGED n) r true).wr (F.SQ_EC_LANE_DIV n r) 1 |>.setSq n fun q => { q with
      ec := q.ec.filter fun p => p.1 / 512 ≠ r
      ecSat := putBit q.ecSat r false
      lane := SMap.put {} q.lane r { SMap.get {} q.lane r with above := 0 } }
  ((c.raise (F.SQ_EC_INT_STATUS_DIVERGE n)).dropEst n).stabRaise n 2

/-- The floor of R157 is met at a boundary. -/
def Chip.floorFault (c : Chip) (n : Nat) : Chip :=
  ((c.wr (F.SQ_EC_STATUS_FLOOR n) 1).raise (F.SQ_EC_INT_STATUS_FLOOR n)).stabRaise n 1

/-- The diverged marks clear (R148, R159). -/
def Chip.clearDiverged (c : Chip) (n : Nat) : Chip :=
  (c.wr (F.SQ_EC_STATUS_DIVERGED n) 0).forEach (List.range 8) fun r c => c.wr (F.SQ_EC_LANE_DIV n r) 0

/-- STABILITY_FAULT_CLEAR (R159): each fault one recovery interval after it was raised, one of an invalid pair after its end; SEVERE
keeps the mute (R304). -/
def execStabilityFaultClear (sq : Fin 128) (s : State) : Host.Outcome State Fault Refusal :=
  s.onChip fun c =>
    let stays := fun p : Nat × Nat => !c.dueAt p.2 || (p.1 = 255 && c.srcBit F.FLT_PAIR_PAIR (128 + sq))
    let gone := fun k : Nat => (c.sq sq).stab.any fun p => p.1 = k && !stays p
    if (c.sq sq).stab.all stays then c else
    let c := (c.when (gone 1) fun c => c.wr (F.SQ_EC_STATUS_FLOOR sq) 0).when (gone 2) fun c => c.clearDiverged sq
    let c := c.setSq sq fun q => { q with stab := q.stab.filter stays }
    let c := c.when (c.sq sq).stab.isEmpty fun c =>
      let sv := c.severe (128 + sq)
      (c.wrSrc F.FLT_ACTIVE_ACTIVE (128 + sq) false).setSq sq fun q => { q with sevStab := sv }
    c.refreshFault sq

/-- MU_BAND_SWITCH (R145): from the first boundary after a change the canceller takes μ of the temperature band of its receive die. -/
def execMuBandSwitch (sq : Fin 128) (s : State) : Host.Outcome State Fault Refusal :=
  s.onChip fun c => c.when (c.dueAt (c.cv (rxDie sq)).bandAt) fun c => c.wr (F.SQ_EC_STATUS_BAND sq) (c.rd (F.CNV_STATUS_BAND (rxDie sq)))

/-- μ_b of the band in use (R145). -/
def Chip.muB (c : Chip) (n : Nat) : Nat :=
  match c.rd (F.SQ_EC_STATUS_BAND n) with
  | 0 => c.rd (F.SQ_EC_MU_LO_MU0 n)
  | 1 => c.rd (F.SQ_EC_MU_LO_MU1 n)
  | 2 => c.rd (F.SQ_EC_MU_LO_MU2 n)
  | 3 => c.rd (F.SQ_EC_MU_LO_MU3 n)
  | 4 => c.rd (F.SQ_EC_MU_HI_MU4 n)
  | _ => c.rd (F.SQ_EC_MU_HI_MU5 n)

/-! ## The gain of a boundary -/

/-- u1 converted to G in 0.01 dB, saturating to Q15.0 (R166). -/
def uToG (u : Int) : Int := satS 16 (rndDiv (u * 6400) (2 ^ 29))

/-- u2 limited to 0 to 1 and rounded to UQ1.15 (R166). -/
def uToS (u : Int) : Nat := (clampI 0 32768 (rndDiv u (2 ^ 14))).toNat

/-- Bring an Int under a limit that may be absent. -/
def limitTo (g : Int) : Option Int → Int
  | none => g
  | some l => min g l

/-- The limit of R155: none when the estimate is valid and nothing binds before. -/
def Chip.gainCap (c : Chip) (n : Nat) : Int :=
  let q := c.sq n
  if c.on (F.SQ_EC_STATUS_EST_VALID n) && c.on (F.SQ_EC_CTRL_EC_EN n) then
    let cap := q.iEff.getD 0 - ((c.rd (F.SQ_EC_MCFG_TARGET n) : Int) - 300)
    match q.bPrev with
    | none => cap
    | some p => max p cap
  else c.rdS (F.SQ_GAIN_G_MIN n)

/-- The G delivered to R126 before its clamp: G_FIXED, or the law's output under the CHECK descent of R170; a missed
step holds the previous G (R173). -/
def Chip.gainAsked (c : Chip) (n : Nat) : Int × Bool :=
  let q := c.sq n
  if c.on (F.SQ_CTRL_GAIN_MODE n) then (c.rdS (F.SQ_GAIN_G_FIXED n), false)
  else
    let u := if q.bMiss then q.bG else uToG (c.rdS (F.RK_U_U1 (n / 8) (n % 8)))
    if q.bCheck && !q.bMiss then
      let l := max (c.rdS (F.SQ_GAIN_G_MIN n)) (q.bG - c.rd (F.RK_SQCHK_CHECK_STEP (n / 8) (n % 8)))
      (min u l, decide (l < u))
    else (u, false)

/-- The digital gain of stream `k` before its clamp (R127). -/
def Chip.gk (c : Chip) (n k : Nat) (g : Int) : Int :=
  g - c.rdS (F.RFC_CHAIN_TX_GAIN (txChain n k)) + SMap.get 0 c.rxGain (rxChain n k)

/-- The linear factor of a digital gain g_k after its clamp, UQ6.17 (R127). -/
def gainFactor (g : Int) : Nat :=
  let g := clampI (-4800) 3600 g
  amp g 17 + (if g % 2000 = 0 ∧ 0 ≤ g then 0 else b2n (Config.roundUp 1 g))

/-- The factor of stream `k` (8: of G itself) after `age` of the 16 samples of a change (R128). -/
def Glide.factor (g : Glide) (age k : Nat) : Nat :=
  let new := g.new.getD k 0
  if 16 ≤ age then new else (rndOpen 2 ((g.old.getD k 0 : Int) * (16 - age : Nat) + (new : Int) * age) 16).toNat

/-- New factors from a boundary on: a change under way goes on when they are the ones it leads to, and else starts from where it stands
(R128). -/
def Glide.toward (g : Glide) (new : List Nat) : Glide :=
  if new = g.new then g else { old := (List.range 9).map fun k => g.factor g.age k, new := new, age := 0 }

/-- Apply G and s at the boundary at which the machine stands (R126, R127, R128, R145, R155, R170, R187). -/
def Chip.gainStep (c : Chip) (n : Nat) : Chip :=
  let q := c.sq n
  let a := c.gainAsked n
  let g1 := clampI (c.rdS (F.SQ_GAIN_G_MIN n)) (c.rdS (F.SQ_GAIN_G_MAX n)) a.1
  let cap := c.gainCap n
  let g := limitTo (min g1 cap) q.oscLimit
  let clamp := (c.lanes n).any fun k => decide (c.gk n k g < -4800) || decide (3600 < c.gk n k g)
  let c := (c.wrS (F.SQ_GAIN_NOW_G_NOW n) g).wrB (F.SQ_EC_STATUS_CAPPED n) (decide (cap < g1))
  let c := c.wrB (F.SQ_GAIN_NOW_CLAMP n) clamp
  let c := c.wrB (F.RK_SQSTAT_CHECK_DESC (n / 8) (n % 8)) a.2
  let st := if c.on (F.SQ_EC_CTRL_STEP_MODE n) ∨ !(c.rk (n / 8)).uTwo.contains n then 32768
    else if q.bMiss then c.rd (F.SQ_EC_STATUS_STEP_S n) else uToS (c.rdS (F.RK_U_U2 (n / 8) (n % 8)))
  let c := c.wr (F.SQ_EC_STATUS_STEP_S n) st
  c.setSq n fun q => { q with
    glide := q.bGlide.toward (((List.range 8).map fun k => gainFactor (c.gk n k g)) ++ [amp g 40])
    gPrev := if c.sqState n = 2 ∨ c.sqState n = 3 then some g else none }

/-- M = I_eff − G (R154). -/
def Chip.margin (c : Chip) (n : Nat) : Int := (c.sq n).iEff.getD 0 - c.rdS (F.SQ_GAIN_NOW_G_NOW n)

/-- MARGIN at a boundary (R153, R154). -/
def Chip.marginStep (c : Chip) (n : Nat) : Chip :=
  if c.on (F.SQ_EC_STATUS_EST_VALID n) then c.wrS (F.SQ_EC_MARGIN_MARGIN n) (c.margin n) else c.wr (F.SQ_EC_MARGIN_MARGIN n) 0x8000

/-- Gain and margin of square `n` under the present values of the boundary. -/
def Chip.settle (c : Chip) (n : Nat) : Chip := (c.gainStep n).marginStep n

/-- The floor test of a boundary (R157). -/
def Chip.floorTest (c : Chip) (n : Nat) : Chip :=
  c.when (c.on (F.SQ_EC_STATUS_EST_VALID n) && decide (c.margin n < 600) && !c.on (F.SQ_EC_STATUS_FLOOR n)) fun c => c.floorFault n

/-- CHECK at a boundary, from CHECK as it stood before it (R156). -/
def Chip.checkTest (c : Chip) (n : Nat) : Chip :=
  let m := c.margin n
  let t : Int := c.rd (F.SQ_EC_MCFG_TARGET n)
  let was := (c.sq n).chkWas
  let now := if !c.on (F.SQ_EC_STATUS_EST_VALID n) then false else if m < t - 300 then true else if t - 100 ≤ m then false else was
  let c := c.wrB (F.SQ_EC_STATUS_CHECK n) now
  (c.when (now && !was) fun c => c.raise (F.SQ_EC_INT_STATUS_CHECK_SET n)).when (was && !now) fun c =>
    c.raise (F.SQ_EC_INT_STATUS_CHECK_CLR n)

/-- What a boundary decides on a square once its gain and margin are final: CLAMP (R127), the floor and CHECK. -/
def Chip.assess (c : Chip) (n : Nat) : Chip :=
  let c := (c.setSq n fun q => { q with assessDue := false }).when (c.on (F.SQ_GAIN_NOW_CLAMP n)) fun c => c.raise (F.SQ_INT_STATUS_CLAMP n)
  (c.floorTest n).checkTest n

/-- Whether a publication of square `n` is due at the boundary (R152). -/
def Chip.estAt (c : Chip) (n : Nat) : Bool :=
  match (c.sq n).estDue with
  | none => false
  | some t => c.dueAt t

/-- The judgement of square `n`, or its delay until what the boundary still brings has come (DEDUCED, log 106). -/
def Chip.assessOr (c : Chip) (n : Nat) : Chip :=
  if c.toCome || c.estAt n then c.setSq n fun q => { q with assessDue := true } else c.assess n

/-- Every judgement that nothing delays any more. -/
def Chip.assessRest (c : Chip) : Chip :=
  if !c.air.onB || c.toCome then c else c.forEach (allSquares.filter fun n => (c.sq n).assessDue && !c.estAt n) fun n c => c.assess n

/-- Every judgement that the boundary has left. -/
def Chip.assessLeft (c : Chip) : Chip := c.forEach (allSquares.filter fun n => (c.sq n).assessDue) fun n c => c.assess n

/-- Square `n` goes on at a boundary with G_prev = −∞ (R159, R187, R189). -/
def Chip.reenter (c : Chip) (n : Nat) : Chip := ((c.setSq n fun q => { q with bPrev := none }).settle n).assessOr n

/-! ## The isolation estimate (R151–R153) -/

/-- −20 log10 of an amplitude held in units of 2^-60, in 0.01 dB. -/
def isoOf (a : Nat) : Int := if a = 0 then Config.isoOfZero else db100 (2 ^ 120) (a * a)

/-- The antenna-referred magnitude of path (r, t), units of 2^-60, from a squared norm in units of 2^-120. -/
def Chip.antAmp (c : Chip) (n r t : Nat) (sq : Nat) : Nat :=
  isqrt sq * amp (c.rdS (F.RFC_CHAIN_RX_GAIN (rxChain n r)) - c.rdS (F.RFC_CHAIN_TX_GAIN (txChain n t))) 40 / 2 ^ 40

/-- The squared norms of the residual and the coefficients of path `p`, units of 2^-120. -/
def Chip.normRes (c : Chip) (n p : Nat) : Nat :=
  ((List.range (c.echoTaps n)).foldl (fun a i => a + (SMap.get Cx.zero (c.sq n).eps (64 * p + i)).normSq.toNat) 0) / 2 ^ 8
@[inherit_doc Chip.normRes] def Chip.normPhys (c : Chip) (n p : Nat) : Nat :=
  ((List.range (c.echoTaps n)).foldl (fun a i => a + (SMap.get Cx.zero (c.sq n).ec (64 * p + i)).normSq.toNat) 0) * 2 ^ 80

/-- Element (r, t) of A_res or A_phys (R151). -/
def Chip.aElem (c : Chip) (n r t : Nat) (phys : Bool) : Nat :=
  if c.pathOn n r t then c.antAmp n r t (if phys then c.normPhys n (8 * r + t) else c.normRes n (8 * r + t))
  else amp (-(c.rd (F.SQ_EC_MCFG_ASSUME_ISO n) : Int)) 60

/-- The rows and columns of the matrices: routed receive lanes, and transmit lanes with DEST = 1. -/
def Chip.ecRows (c : Chip) (n : Nat) : List Nat := c.lanes n
@[inherit_doc Chip.ecRows] def Chip.ecCols (c : Chip) (n : Nat) : List Nat := (List.range 8).filter fun t => c.dest n t = 1

/-- A matrix as a list of rows. -/
def Chip.aMat (c : Chip) (n : Nat) (phys : Bool) : List (List Nat) :=
  (c.ecRows n).map fun r => (c.ecCols n).map fun t => c.aElem n r t phys

/-- A v. -/
def matVec (a : List (List Nat)) (v : List Nat) : List Nat := a.map fun row => (row.zip v).foldl (fun s p => s + p.1 * p.2) 0

/-- transpose(A) u, with `m` columns. -/
def matTVec (a : List (List Nat)) (u : List Nat) (m : Nat) : List Nat :=
  (List.range m).map fun j => (a.zip u).foldl (fun s p => s + p.1.getD j 0 * p.2) 0

/-- One iteration of the power method (R152); vectors carry 40 fraction bits. -/
def powerIter (a : List (List Nat)) (v : List Nat) : List Nat :=
  let w := matTVec a (matVec a v) v.length
  let m := w.foldl max 0
  if m = 0 then v else w.map fun x => x * 2 ^ 40 / m

/-- Four iterations from `v`; −20 log10 of the σ̂ they give, and the vector to keep. -/
def sigmaIso (a : List (List Nat)) (m : Nat) (v : List Nat) : Int × List Nat :=
  let v0 := if v.length = m then v else List.replicate m (2 ^ 40)
  let v4 := iter (powerIter a) 4 v0
  let sq := fun l : List Nat => l.foldl (fun s x => s + x * x) 0
  let num := sq (matVec a v4)
  let den := sq v4
  (if num = 0 ∨ den = 0 then Config.isoOfZero else db100 (den * 2 ^ 120) num, v4)

/-- The running residual takes the correlations of the step that ended (R151). -/
def Chip.updateEps (c : Chip) (n : Nat) : Chip :=
  let k := c.rd (F.SQ_EC_MCFG_EST_K n)
  c.setSq n fun q => q.corrDen.foldl (fun q p =>
    if p.2 = 0 then q else
    let x := SMap.get Cx.zero q.corr p.1
    let new := x.map fun i => rndDiv (i * 2 ^ 64) p.2
    let old := SMap.get Cx.zero q.eps p.1
    let e := if q.epsInit.contains p.1 then old.add ((new.sub old).map fun i => rndDiv i (2 ^ k)) else new
    { q with eps := SMap.put Cx.zero q.eps p.1 e, epsInit := setIns p.1 q.epsInit }) q

/-- ISO_RES and ISO_PHYS of every present path (R151). -/
def Chip.pathIso (c : Chip) (n : Nat) : List (Nat × Int × Int) :=
  (((c.ecRows n).flatMap fun r => (c.ecCols n).map fun t => 8 * r + t).filter fun p => c.pathOn n (p / 8) (p % 8)).map fun p =>
    (p, isoOf (c.antAmp n (p / 8) (p % 8) (c.normRes n p)), isoOf (c.antAmp n (p / 8) (p % 8) (c.normPhys n p)))

/-- The per-path reports ISO_RES, ISO_PHYS and DEPTH (R149, R151) (DESIGN CHOICE, log 131). -/
def Chip.reportPaths (c : Chip) (n : Nat) (l : List (Nat × Int × Int)) : Chip :=
  l.foldl (fun c p => ((c.wrS (F.SQ_EC_PATH_ISO_RES n p.1) p.2.1).wrS (F.SQ_EC_PATH_ISO_PHYS n p.1) p.2.2).wr
    (F.SQ_EC_PATH_DEPTH n p.1) (satU 16 (p.2.1 - p.2.2).toNat)) c

/-- A mean power as Q7.8 dBFS, the register form. -/
def meanReg (sum cnt : Nat) : Nat := dbfsReg (if cnt = 0 then none else some (Frac.mk' sum cnt))

/-- ERR_PWR exceeds IN_PWR by more than 3.00 dB (R158): (err / in)^10 > 10^3. -/
def over3dB (err inp : Nat) : Bool := decide (inp ^ 10 * 10 ^ 3 < err ^ 10)

/-- Consecutive outer steps in which lane `r` adapted and stood above the ratio of R158, with the step that is published; one without
an adapting sample is skipped. -/
def Chip.stepsAbove (c : Chip) (n r : Nat) : Nat :=
  let l := SMap.get {} (c.sq n).lanePub r
  let a := (SMap.get {} (c.sq n).lane r).above
  if l.cnt = 0 then a else if over3dB l.errSum l.inSum then a + 1 else 0

/-- The reports of lane `r` on the step that is published, and its run above the ratio (R158). -/
def Chip.laneStep (c : Chip) (n r : Nat) : Chip :=
  let l := SMap.get {} (c.sq n).lanePub r
  if l.cnt = 0 then c else
  let i := meanReg l.inSum l.cnt
  let e := meanReg l.errSum l.cnt
  let above := c.stepsAbove n r
  (((c.wr (F.SQ_EC_LANE_IN_PWR n r) i).wr (F.SQ_EC_LANE_ERR_PWR n r) e).wrS (F.SQ_EC_LANE_SUPP n r)
    (if i = 0x8000 ∨ e = 0x8000 then 0 else toS 16 i - toS 16 e)).setSq n fun q => { q with
      lane := SMap.put {} q.lane r { SMap.get {} q.lane r with above := above } }

/-- Lanes with present paths. -/
def Chip.pathLanes (c : Chip) (n : Nat) : List Nat := (c.lanes n).filter fun r => (List.range 8).any fun t => c.pathOn n r t

/-- The sums of the outer step start again. -/
def Sq.newStep (q : Sq) : Sq :=
  { q with
      corr := []
      corrDen := []
      lane := q.lane.map fun p => (p.1, { p.2 with inSum := 0, errSum := 0, cnt := 0, tempi := 0 }) }

/-- The outer work of the isolation estimate on the step that ended, `len` tempi long (R151, R152, R153): the result
waits for the end of the first tempo of the new step. -/
def Chip.estimate (c : Chip) (n len : Nat) : Chip :=
  let any := (c.sq n).lane.any fun p => p.2.cnt ≠ 0
  let good := any && !(c.ecCols n).isEmpty && (c.pathLanes n).all fun r => decide (len ≤ 2 * (SMap.get {} (c.sq n).lane r).tempi)
  let c := c.setSq n fun q => { q with goodSteps := if good then min 2 (q.goodSteps + 1) else 0, lanePub := q.lane }
  let c := if any then (c.updateEps n) else c
  let m := (c.ecCols n).length
  let res := sigmaIso (c.aMat n false) m (c.sq n).vRes
  let phys := sigmaIso (c.aMat n true) m (c.sq n).vPhys
  let est : Est := { iEff := res.1, iPhys := phys.1, paths := c.pathIso n }
  let t := c.air.tempi + 1
  c.setSq n fun q => { q.newStep with
    estNew := if any then some est else none
    estDue := some t
    estMiss := false
    vRes := if any then res.2 else q.vRes
    vPhys := if any then phys.2 else q.vPhys }

/-- An outer step of a square whose canceller is not enabled: no estimate, and nothing of the step stays (R151, R153). -/
def Chip.noEstimate (c : Chip) (n : Nat) : Chip := (c.inc (F.SQ_EC_STATUS_AGE n)).setSq n fun q => { q.newStep with goodSteps := 0 }

end Sys2Proof.Machine
end

