-- ==== Sys2Proof/Machine/Sched.lean ====
section
/-!
DEFINITION. The schedule (R67, R75–R84): arming and its checks, the scanner, and how a taken occurrence leaves the list.
What an occurrence does when it fires stands with the block that it acts on.
-/

namespace Sys2Proof.Machine

/-! ## Symbol positions (R66, R67) -/

/-- The numerology in force: MU and ECP. -/
structure Numer where
  mu : Nat
  ecp : Bool
  deriving DecidableEq, Repr

/-- MU and ECP of AIR_CTRL. -/
def Chip.numer (c : Chip) : Numer := ⟨c.rd F.AIR_CTRL_MU, c.on F.AIR_CTRL_ECP⟩

/-- symbol_start of R67, in Tc from the start of the SFN cycle. -/
def Numer.symbolStart (u : Numer) (n l : Nat) : Nat :=
  let spf := 2 ^ u.mu
  let sub := n / spf
  if u.ecp then sub * 1966080 + n % spf * 491520 + l * 40960 else
  let len := 140288 / 2 ^ u.mu
  let half := 7 * 2 ^ u.mu
  let q := n % spf * 14 + l
  let j := q % half
  sub * 1966080 + q / half * 983040 + (if j = 0 then 0 else 1024 + j * len)

/-- Slots in an SFN cycle. -/
def Numer.cycleSlots (u : Numer) : Nat := 10240 * 2 ^ u.mu

/-- The last symbol of a slot. -/
def Numer.lastSym (u : Numer) : Nat := if u.ecp then 11 else 13

/-- Whether a recurring word 1 keeps R76 under a numerology. -/
def recOk (u : Numer) (w : Nat) : Bool :=
  decide (wPeriod w ≠ 0) && decide (u.cycleSlots % wPeriod w = 0) && decide (wSlot w < wPeriod w) && decide (wSym w ≤ u.lastSym)

/-- The fire time of occurrence `k` of a recurring word 1, `k` counted through all SFN cycles from AT 0 (R76). -/
def recFire (u : Numer) (w : Nat) (k : Int) : Int :=
  let per : Int := u.cycleSlots / wPeriod w
  let i := (k % per).toNat
  k / per * sfnCycle + u.symbolStart (i * wPeriod w + wSlot w) (wSym w) + wOfs w

/-- The first occurrence that fires at or after `t`. -/
def recFrom (u : Numer) (w : Nat) (t : Int) : Int :=
  let slot : Int := 1966080 / 2 ^ u.mu
  let g := (t - wOfs w - 2 * slot) / (slot * wPeriod w) - 1
  (((List.range 6).find? fun i => t ≤ recFire u w (g + (i : Nat))).elim (g + 6) fun i => g + (i : Nat))

/-- TARGET and ARG lie in the ranges of R77 and R99, and a DIR target is the DL half of a routed pair (R78) (DESIGN CHOICE, log 85). -/
def Chip.targetOk (c : Chip) (w : Nat) : Bool :=
  let t := wTarget w
  match wKind w with
  | 1 => decide (t < 48)
  | 2 => decide (t < 64) && decide (wArg w < 3) && c.on (F.SQ_ID_PAIRED t) && c.acts t
  | 3 => true
  | 4 => decide (bits t 0 8 ≠ 0) && decide (1 ≤ bits t 12 4) && decide (bits t 12 4 ≤ 5) && decide (wArg w ≠ 0)
  | 5 => decide (t < 16)
  | 6 => decide (t < 16)
  | 7 => true
  | _ => false

/-- Whether an entry is REJECTED at arming (R78). -/
def Chip.rejected (c : Chip) (w0 w1 : Nat) : Bool :=
  !c.targetOk w0 ||
  (if wRec w0 then !recOk c.numer w1 || (wKind w0 = 3 && (decide (wSym w1 ≠ 0) || decide (wOfs w1 % 4096 ≠ 0)))
   else wKind w0 = 3 && decide (w1 % 4096 ≠ 0))

/-- Arm entry `i` with word 0 bits [31:0] (R78). -/
def Chip.schedArm (c : Chip) (i v : Nat) : Chip :=
  let w0 := Nat.land (v % 2 ^ 32) 0xFFFFFF1F
  let w1 := c.rd (F.AIR_SCHED_W1_WORD i)
  let c := (c.wr (F.AIR_SCHED_W0_WORD i) w0).setAir fun a => { a with armed := SMap.erase i a.armed }
  if wKind w0 = 0 then c
  else if c.rejected w0 w1 then (c.setStat i 6).schedExc 6
  else if wRec w0 = false ∧ w1 < c.now + 10240 then (c.setStat i 3).schedExc 3
  else (c.setStat i 1).setAir fun a => { a with
    armed := SMap.insert i { w0 := w0, w1 := w1, first := c.now + 10240, last := none } a.armed }

/-- SCHED_ARM (R78): a write of word 0 with KIND other than 0. -/
def execSchedArm (q : Requester) (entry : Fin 1024) (value : Nat) (s : State) : Host.Outcome State Fault Refusal :=
  s.onAccess q fun c => c.when (wKind value ≠ 0) fun c => c.write q (0x101000 + 16 * entry) fun c => c.schedArm entry value

/-- SCHED_DISARM (R78): a write of word 0 with KIND 0. -/
def execSchedDisarm (q : Requester) (entry : Fin 1024) (value : Nat) (s : State) : Host.Outcome State Fault Refusal :=
  s.onAccess q fun c => c.when (wKind value = 0) fun c => c.write q (0x101000 + 16 * entry) fun c => c.schedArm entry value

/-- Armed recurring entries are judged again after a change of numerology (R82). -/
def Chip.rejudge (c : Chip) : Chip :=
  c.air.armed.foldl (fun c p =>
    if !wRec p.2.w0 then c
    else if c.rejected p.2.w0 p.2.w1 then (c.retire p.1 6).schedExc 6
    else c.setAir fun a => { a with armed := SMap.insert p.1 { p.2 with first := c.now + 10240, last := none } a.armed }) c

/-! ## The scanner (R79) -/

/-- Put an occurrence in fire order, ties by entry index. -/
def occIns (o : Occ) : List Occ → List Occ
  | [] => [o]
  | p :: l => if p.fire < o.fire ∨ (p.fire = o.fire ∧ p.entry ≤ o.entry) then p :: occIns o l else o :: p :: l

/-- The converter die that an occurrence counts against: 0, 1, or none. -/
def Occ.die (o : Occ) : Option Nat :=
  match o.kind with
  | 1 => if o.target < 16 then some 0 else if o.target < 32 then some 1 else none
  | 4 => some (bits o.target 8 1)
  | _ => none

/-- Whether an occurrence finds a limit of R79 used up. -/
def Chip.overLimit (c : Chip) (o : Occ) : Bool :=
  decide (256 ≤ c.air.taken.length) ||
  (match o.die with
   | none => false
   | some d => decide (64 ≤ c.air.taken.countP fun p => p.die = some d))

/-- Whether AT passes the multiple `f` of 4,096 without a tempo boundary: it lies in the first tempo after a step (R70, R81). -/
def Chip.noBoundary (c : Chip) (f : Int) : Bool :=
  decide ((c.now : Int) < f) && decide ((c.air.mono : Int) + (f - c.now) < c.air.notBefore)

/-- The scanner takes an occurrence, or drops it. A PLAN occurrence at no tempo boundary is SKIPPED (R81) (DEDUCED, log 86). -/
def Chip.takeOcc (c : Chip) (o : Occ) : Chip :=
  let lost := fun (c : Chip) st => (c.when o.abs fun c => c.retire o.entry st).schedExc st
  if o.kind = 3 ∧ (o.fire % 4096 ≠ 0 ∨ c.noBoundary o.fire) then lost c 4
  else if c.overLimit o then lost c 5
  else c.setAir fun a => { a with taken := occIns o a.taken }

/-- The occurrence of entry `i` at `fire`. -/
def Armed.occ (e : Armed) (i : Nat) (fire : Int) : Occ :=
  { fire := fire, entry := i, kind := wKind e.w0, target := wTarget e.w0, arg := wArg e.w0, abs := !wRec e.w0 }

/-- Remember the last occurrence of entry `i` that was taken or missed. -/
def Chip.markOcc (c : Chip) (i : Nat) (e : Armed) (fire : Int) : Chip :=
  c.setAir fun a => { a with armed := SMap.insert i { e with last := some fire } a.armed }

/-- The scanner visits entry `i` (R79, R81); in deep sleep it takes MARK occurrences only (R429). -/
def Chip.visit (c : Chip) (i : Nat) : Chip :=
  match c.air.armed.find i with
  | none => c
  | some e =>
    let lo : Int := c.now + 2048
    let hi : Int := c.now + 10256
    let awake := !c.on F.PWR_SLEEP_STATE || wKind e.w0 = 7
    if !wRec e.w0 then
      if e.last.isSome then c
      else if (e.w1 : Int) < lo then (c.retire i 4).schedExc 4
      else if (e.w1 : Int) < hi && awake then (c.markOcc i e e.w1).takeOcc (e.occ i e.w1)
      else c
    else
      let u := c.numer
      let start := max e.first (match e.last with | none => e.first | some f => f + 1)
      let k0 := recFrom u e.w1 start
      let k1 := max k0 (recFrom u e.w1 lo)
      let held := c.air.taken.countP fun o => o.entry = i && decide (start ≤ o.fire) && decide (o.fire < lo)
      let c := c.schedExc 4 ((k1 - k0).toNat - held)
      let c := c.when (k0 < k1) fun c => c.markOcc i e (lo - 1)
      let fire := recFire u e.w1 k1
      if !(decide (fire < hi) && awake) then c
      else if c.air.taken.any fun o => o.entry = i && o.fire = fire then c.markOcc i e fire
      else (c.markOcc i e fire).takeOcc (e.occ i fire)

/-- SCHED_TAKE (R79): the scanner's visits, in ascending index from where it stands, up to and including this entry. -/
def execSchedTake (entry : Fin 1024) (s : State) : Host.Outcome State Fault Refusal :=
  s.onAir fun c =>
    let n := (entry.val + 1024 - c.air.scanIdx) % 1024 + 1
    let c := c.forEach (List.range n) fun k c => c.visit ((c.air.scanIdx + k) % 1024)
    c.setAir fun a => { a with scanIdx := (entry.val + 1) % 1024 }

/-! ## Occurrences leave the list -/

/-- The T/R occurrences delivered to a converter die are discarded (R84). -/
def Chip.dropTr (c : Chip) (d : Nat) : Chip := c.loseAll 5 fun o => o.kind = 1 && o.die = some d

/-- A step from `old` to `new` (R81): in the span between them nothing fires, absolute entries are SKIPPED and recurring
occurrences are lost; recurring entries go on from their next occurrence after `new`, also after a backward step; a taken PLAN occurrence that comes to
lie inside the first tempo after the step is SKIPPED (DESIGN CHOICE, log 23). -/
def Chip.schedStep (c : Chip) (old new : Nat) : Chip :=
  let span := fun f : Int => decide ((old : Int) < f) && decide (f < new)
  let c := c.setAir fun a => { a with taken := a.taken.filter fun o => !(span o.fire && !o.abs) }
  let c := c.loseAll 4 fun o => span o.fire || (o.kind = 3 && c.noBoundary o.fire)
  c.air.armed.foldl (fun c p =>
    if wRec p.2.w0 then
      c.setAir fun a => { a with
        armed := SMap.insert p.1 { p.2 with first := if new < old then new else p.2.first, last := some ((new : Int) - 1) } a.armed }
    else if p.2.last.isNone && span p.2.w1 then (c.retire p.1 4).schedExc 4
    else c) c

/-- The first occurrence in fire order fires, if it is of this kind and its instant can be now: AT reaches it, an absolute
entry is DONE, and `g` is its effect. -/
def Chip.fire (c : Chip) (kind : Nat) (g : Occ → Chip → Chip) : Chip :=
  let c := c.when c.asleep fun c => c.passSleep
  match c.air.taken with
  | [] => c
  | o :: l =>
    if o.kind ≠ kind ∨ c.canBe o.fire.toNat = false then c else
    let c := (c.reach o.fire.toNat).setAir fun a => { a with taken := l }
    g o (c.when (c.sameArming o) fun c => c.retire o.entry 2)

end Sys2Proof.Machine
end

