-- ==== Sys2Proof/Machine/Cnv.lean ====
section
/-!
DEFINITION. The converter dies and the die bridges (R28, R31–R34, R87–R103, R188, R192, R464).
-/

namespace Sys2Proof.Machine

/-! ## Flits that fail (R34) -/

/-- How many of 16 flits have failed. -/
def failCount (w : Nat) : Nat := (List.range 16).countP fun i => bit w i

/-- A flit has come on a lane of the bridge of die `d`, whole or not. -/
def Chip.flitSeen (c : Chip) (d lane : Nat) (failed : Bool) : Chip :=
  c.setBr d fun b =>
    let w := (2 * SMap.get 0 b.flits lane + b2n failed) % 2 ^ 16
    { b with flits := SMap.put 0 b.flits lane w, crcLoss := b.crcLoss || decide (4 ≤ failCount w) }

/-! ## Values that the die reports (R87) -/

/-- The value of a field at die `d`. -/
def Chip.dieRd (c : Chip) (d : Nat) (f : Fld) : Nat := ((c.cv d).die.find f.key).elim (c.rd f) (·.2)

/-- The die has a new value; the board shows it at the next refresh. -/
def Chip.dieWr (c : Chip) (d : Nat) (f : Fld) (v : Nat) : Chip :=
  c.setCv d fun x => { x with die := SMap.insert f.key (f, v % 2 ^ f.wd) x.die }

/-- CNV_STATUS_REFRESH (R87): a control flit brings the die's values, and the overload counts of the lanes (DEDUCED, log 63). -/
def execCnvStatusRefresh (die : Fin 2) (overloads : List Nat) (s : State) : Host.Outcome State Fault Refusal :=
  s.onChip fun c =>
    if (c.br die).st ≠ 2 ∨ (c.br die).retxUp.isSome then c else
    let c := (c.cv die).die.foldl (fun c p => c.wr p.2.1 p.2.2) c
    let c := (c.setCv die fun x => { x with die := [] }).setBr die fun b => { b with seqUp := (b.seqUp + 1) % 256 }
    let c := c.flitSeen die 16 false
    c.forEach (List.range 8) fun l c =>
      let k := overloads.getD l 0
      if k = 0 then c else
      (c.inc (F.CNV_LANE_OVL_COUNT die l) k).when (c.rd (F.CNV_LANE_OVL_COUNT die l) = 0) fun c =>
        c.raise (F.CNV_INT_STATUS_OVERLOAD die)

/-! ## Lanes, blanks and suspended adaptation (R32, R91, R95, R96, R101) -/

/-- Whether lane `l` of die `d` is online. -/
def Chip.online (c : Chip) (d l : Nat) : Bool := bit (c.cv d).laneOn l

/-- Whether a mixer path of lane `l` uses synthesiser `y`. -/
def Chip.usesSyn (c : Chip) (d l y : Nat) : Bool :=
  decide (c.rd (F.CNV_LANE_LO_SEL d l) = y) && (c.on (F.CNV_LANE_RX_PATH d l) || decide (2 ≤ c.rd (F.CNV_LANE_TX_PATH d l)))

/-- Whether a synthesiser's blank covers lane `l`. -/
def Chip.synBlanked (c : Chip) (d l : Nat) : Bool :=
  c.online d l && [0, 1].any fun y => bit (c.cv d).synBlank y && c.usesSyn d l y

/-- Whether a calibration type blanks receive, and transmit (R100). -/
def calRx (ty : Nat) : Bool := [2, 4, 5].contains ty
@[inherit_doc calRx] def calTx (ty : Nat) : Bool := [3, 5].contains ty

/-- A receive blank on the receive lane with chain index `i`; a transmit blank on the transmit lane. -/
def Chip.rxBlank (c : Chip) (i : Nat) : Bool :=
  c.synBlanked (i / 8) (i % 8) || (match (c.cv (i / 8)).win with
    | none => false
    | some w => calRx w.ty && bit w.lanes (i % 8))
@[inherit_doc Chip.rxBlank] def Chip.txBlank (c : Chip) (i : Nat) : Bool :=
  c.synBlanked (i / 8) (i % 8) || (match (c.cv (i / 8)).win with
    | none => false
    | some w => calTx w.ty && bit w.lanes (i % 8))

/-- Suspend adaptation through tempo count `t`: keys 0–15 receive lanes, 16–31 transmit lanes. -/
def Chip.suspend (c : Chip) (key t : Nat) : Chip :=
  { c with laneSusp := SMap.insert key (max t (SMap.get 0 c.laneSusp key)) c.laneSusp }

/-- A blank of lanes has ended: adaptation resumes after the tempo that follows (R101). -/
def Chip.suspendLanes (c : Chip) (d lanes : Nat) (rx tx : Bool) : Chip :=
  c.forEach ((List.range 8).filter fun l => bit lanes l) fun l c =>
    (c.when rx fun c => c.suspend (8 * d + l) c.ceilTempo).when tx fun c => c.suspend (16 + 8 * d + l) c.ceilTempo

/-- Whether adaptation stands suspended by key. -/
def Chip.suspended (c : Chip) (key : Nat) : Bool :=
  match c.laneSusp.find key with
  | none => false
  | some t => decide (c.air.tempi ≤ t)

/-- Whether the DAC of transmit lane `i` outputs its zero code (R20, R90). -/
def Chip.dacZero (c : Chip) (i : Nat) : Bool :=
  !c.zmd.permit || decide ((c.br (i / 8)).st ≠ 2) || decide (c.rd (F.CNV_STATUS_STATE (i / 8)) ≠ 3) ||
  !c.online (i / 8) (i % 8) || c.txBlank i

/-- Whether the receive samples of lane `i` are replaced by zero (R33, R96, R97, R101). -/
def Chip.rxZero (c : Chip) (i : Nat) : Bool :=
  decide ((c.br (i / 8)).st ≠ 2) || decide (c.rd (F.CNV_STATUS_STATE (i / 8)) ≠ 3) || !c.online (i / 8) (i % 8) || c.rxBlank i

/-! ## RFFE queues with the die (R107) -/

/-- The die whose front end RFFE master `m` serves. -/
def rffeDie (m : Nat) : Nat := m / 3

/-- Whether master `m` runs its queue: enabled, and its die in RUN or STARTCAL (R97, R107). -/
def Chip.rffeRuns (c : Chip) (m : Nat) : Bool :=
  c.on (F.RFC_RFFE_CFG_EN m) && (decide (c.rd (F.CNV_STATUS_STATE (rffeDie m)) = 2) || decide (c.rd (F.CNV_STATUS_STATE (rffeDie m)) = 3))

/-- The next queued command goes on the bus, as soon as there is one. -/
def Chip.rffeGo (c : Chip) (m : Nat) : Chip :=
  c.when (c.rffeRuns m && !(c.rf m).busy && !(c.rf m).cmds.isEmpty) fun c => c.setRf m fun x => { x with busy := true }

/-- The frame in progress completes; every other queued command returns FLUSHED, after the result of that frame, and a queue that becomes
empty by it is done (R107, R111). A full result queue loses the result (DESIGN CHOICE, log 128). -/
def Chip.rffeFlush (c : Chip) (m : Nat) : Chip :=
  let x := c.rf m
  let keep := if x.busy then x.cmds.take 1 else []
  let gone := x.cmds.drop keep.length
  if gone.isEmpty then c else
  let res : List RffeRes := gone.map fun k => { data := 0, parity := false, flushed := true, op := k.op }
  let c := c.wrBit F.RFC_INT_STATUS_FLUSH m true
  if x.busy then c.setRf m fun x => { x with cmds := keep, flushed := x.flushed ++ res } else
  ((c.setRf m fun x => { x with cmds := keep, results := (x.results ++ res).take 32 }).wrBit F.RFC_INT_STATUS_ERR m true).wrBit
    F.RFC_INT_STATUS_DONE m true

/-! ## Calibration windows (R99–R101) -/

/-- Steps completed for type `ty`, and the lanes they were gained on. -/
def Chip.calSteps (c : Chip) (d ty : Nat) : Nat := bits (c.dieRd d (F.CNV_CAL_PROG_STEPS d)) (8 * (ty - 1)) 8
@[inherit_doc Chip.calSteps] def Chip.calMask (c : Chip) (d ty : Nat) : Nat :=
  bits (c.dieRd d (F.CNV_CAL_MASK_LANES d)) (8 * (ty - 1)) 8

/-- Replace byte `ty − 1` of a word. -/
def putByte (w ty v : Nat) : Nat := w - bits w (8 * (ty - 1)) 8 * 2 ^ (8 * (ty - 1)) + v % 256 * 2 ^ (8 * (ty - 1))

/-- Set the progress of a type. -/
def Chip.setSteps (c : Chip) (d ty v : Nat) : Chip :=
  c.dieWr d (F.CNV_CAL_PROG_STEPS d) (putByte (c.dieRd d (F.CNV_CAL_PROG_STEPS d)) ty v)

/-- The window closes, and its blank ends (R101). -/
def Chip.closeWin (c : Chip) (d : Nat) : Chip :=
  match (c.cv d).win with
  | none => c
  | some w =>
    let c := (c.setCv d fun x => { x with win := none }).dieWr d (F.CNV_CAL_STATUS_ACTIVE_TYPE d) 0
    (c.dieWr d (F.CNV_CAL_STATUS_ACTIVE_LANES d) 0).suspendLanes d w.lanes (calRx w.ty) (calTx w.ty)

/-- The die leaves RUN during a window: it closes, and the progress of its type returns to 0 (R101). -/
def Chip.cutWin (c : Chip) (d : Nat) : Chip :=
  match (c.cv d).win with
  | none => c
  | some w => (c.closeWin d).setSteps d w.ty 0

/-! ## Direction mutes (R188) -/

/-- Whether the permit mute of die `d` is raised. -/
def dirPermit (d : Nat) : Fld := if d = 0 then F.PRT_STATUS_DIR_PERMIT_D else F.PRT_STATUS_DIR_PERMIT_S

/-- Bring MS_DIRECTION in line with the raised conditions (R188). -/
def Chip.refreshDir (c : Chip) : Chip :=
  c.forEach (allSquares.filter fun n => !c.isMember n) fun n c =>
    if (isUl n && c.on F.PRT_STATUS_DIR_NR) || c.on (dirPermit (txDie n)) then
      (if c.on (F.SQ_STATUS_MS_DIRECTION n) then c else c.setMs .direction n)
    else c.clrMs .direction n

/-- Interrupt bit `i` of PRT_INT_STATUS: source i + 1 of R204. -/
def Chip.prtInt (c : Chip) (i : Nat) : Chip := c.wrBit F.PRT_INT_STATUS_EVENT i true

/-- The permit mute is raised while PERMIT reads 0 for a die in RUN or SAFE (R188). -/
def Chip.permitEval (c : Chip) (d : Nat) : Chip :=
  let st := c.rd (F.CNV_STATUS_STATE d)
  if (st = 3 ∨ st = 4) ∧ !c.on (F.CNV_STATUS_PERMIT d) ∧ !c.on (dirPermit d) then
    ((c.wr (dirPermit d) 1).refreshDir).prtInt 1
  else c

/-! ## MS_BRIDGE (R28, R192) -/

/-- Whether die `d` has its bridge UP and its state in RUN. -/
def Chip.dieGood (c : Chip) (d : Nat) : Bool := decide ((c.br d).st = 2) && decide (c.rd (F.CNV_STATUS_STATE d) = 3)

/-- Whether every die of a mask is good. -/
def Chip.diesGood (c : Chip) (m : Nat) : Bool := [0, 1].all fun d => !bit m d || c.dieGood d

/-- Note the moment since which the dies that hold MS_BRIDGE on a square have all been good. -/
def Chip.refreshBr (c : Chip) : Chip :=
  c.forEach (allSquares.filter fun n => (c.sq n).brDies ≠ 0) fun n c =>
    c.setSq n fun q => { q with
      brGood := if c.diesGood q.brDies then some (q.brGood.getD c.air.mono) else none }

/-- MS_BRIDGE on every square that uses die `d`: each square transmits on one die and receives from the other (R21, R28). -/
def Chip.bridgeMute (c : Chip) (d : Nat) : Chip :=
  let c := c.forEach allSquares fun n c =>
    (c.setSq n fun q => { q with brDies := putBit q.brDies d true, brGood := none }).setMs .bridge n
  c.prtInt 8

/-- BRIDGE_MUTE_CLEAR (R192): a boundary at which the dies are good and 16 + FIR_TAPS slot samples have passed since. -/
def execBridgeMuteClear (sq : Fin 128) (s : State) : Host.Outcome State Fault Refusal :=
  s.onChip fun c =>
    let u := c.leader sq
    match (c.sq u).brGood with
    | none => c
    | some t =>
      if c.air.onB ∧ (!c.routed u ∨ (16 + c.firTaps u) * 16000 ≤ (c.air.mono - t) * c.slotBw u) then
        (c.forEach (c.group u) fun k c => c.setSq k fun q => { q with brDies := 0, brGood := none }).wr (F.SQ_STATUS_MS_BRIDGE u) 0
      else c

/-! ## The front-end state machine (R97) -/

/-- Whether the supply of die `d` is good (R420). -/
def Chip.supplyOk (c : Chip) (d : Nat) : Bool :=
  c.railBad.all fun r => match r with
    | .vddCnv k => k.val ≠ d
    | .vddaCnv k => k.val ≠ d
    | _ => true

/-- The output masks of die `d` among the timed outputs (R104). -/
def clearDieOuts (m d : Nat) : Nat := m - bits m (16 * d) 16 * 2 ^ (16 * d)

/-- The die takes a state (R97): what leaving the old one brings, and STATE_CHG. -/
def Chip.dieState (c : Chip) (d st : Nat) : Chip :=
  let old := c.rd (F.CNV_STATUS_STATE d)
  if old = st then c else
  let c := c.when (old = 3) fun c => { c.cutWin d with trLive := clearDieOuts c.trLive d }
  let c := c.when ((old = 2 || old = 3) && !(st = 2 || st = 3)) fun c => c.forEach (List.range 3) fun i c => c.rffeFlush (3 * d + i)
  let c := c.when (st = 0 || st = 4) fun c => c.dropTr d
  let c := (((c.wr (F.CNV_STATUS_STATE d) st).raise (F.CNV_INT_STATUS_STATE_CHG d)).permitEval d).refreshBr
  c.forEach (List.range 3) fun i c => c.rffeGo (3 * d + i)

/-- Entry to STARTCAL: the sequence starts from the beginning (R97, R98). -/
def Chip.startCal (c : Chip) (d : Nat) : Chip :=
  (c.setCv d fun x => { x with phase := 0, cut := false }).dieState d 2

/-- Entry to OFF (R97): analog off, so nothing is locked and both synthesisers blank their lanes (R95); CKM_FAIL clears (DESIGN CHOICE, log 129). -/
def Chip.dieOff (c : Chip) (d : Nat) : Chip :=
  let c := ((c.wr (F.CNV_STATUS_CKM_LOCK d) 0).wr (F.CNV_STATUS_CKM_FAIL d) 0).setCv d fun x => { x with ckmTry := false, cut := false, synBlank := 3 }
  let c := (c.dieWr d (F.CNV_STATUS_SYN1_LOCK d) 0).dieWr d (F.CNV_STATUS_SYN2_LOCK d) 0
  (c.faultOver (412 + d)).dieState d 0

/-- A die in OFF starts when POWER_EN = 1, its supply is good, the reference is present and it is not in thermal shutdown (R97) (PRESUMED, log 82). -/
def Chip.dieStart (c : Chip) (d : Nat) : Chip :=
  if c.rd (F.CNV_STATUS_STATE d) = 0 ∧ c.on (F.CNV_CTRL_POWER_EN d) ∧ c.supplyOk d ∧ c.refIn ∧ !(c.cv d).hot then
    (c.setCv d fun x => { x with ckmTry := true }).dieState d 1
  else c

/-- A bridge enters DOWN (R28, R33, R84, R301): with a loss cause, or none when POWER_EN stopped it. -/
def Chip.bridgeDown (c : Chip) (d : Nat) (loss : Option Nat) : Chip :=
  let was := (c.br d).st
  let c := (c.setBr d fun b => { b with st := 0, retxUp := none, retxDn := none, flits := [], crcLoss := false, fresh := b.fresh || loss.isNone }).wr (F.CNV_STATUS_STALE d) 1
  let c := if was = 2 then
      let c := (c.dropTr d).bridgeMute d
      let c := { c with trTaken := clearDieOuts c.trTaken d }
      let st := c.rd (F.CNV_STATUS_STATE d)
      let c := c.when (st = 2) fun c => c.setCv d fun x => { x with cut := true }
      c.when (st = 2 || st = 3) fun c => c.dieState d 4
    else c
  match loss with
  | none => (c.faultOver (406 + d)).refreshBr
  | some k => (c.when (was = 2) fun c => c.faultRise { src := 406 + d, cause := k }).refreshBr

/-- Whether the state allows a cause of R34, in its order: flits that failed, a control flit whose third resend failed too, and a clock
that the die reports unlocked, are the block's own state; missing clock edges come from outside. -/
def Chip.lossMet (c : Chip) (d : Nat) (cause : Fin 4) : Bool :=
  match cause with
  | 0 => (c.br d).crcLoss
  | 1 => (c.br d).retxUp = some 3 || (c.br d).retxDn = some 3
  | 2 => true
  | 3 => !c.on (F.CNV_STATUS_CKM_LOCK d)

/-- BRIDGE_LOSS (R34): causes 1–4 in the order of R34. -/
def execBridgeLoss (die : Fin 2) (cause : Fin 4) (s : State) : Host.Outcome State Fault Refusal :=
  s.onChip fun c => c.when (decide ((c.br die).st = 2) && c.lossMet die cause) fun c => c.bridgeDown die (some (cause + 1))

/-- Whether the bridge of die `d` is held in DOWN: a source whose containment takes it down counts as asserted (R27, R299). -/
def Chip.bridgeBarred (c : Chip) (d : Nat) : Bool := [406 + d, 408, 409 + d, 412 + d].any fun s => c.srcBit F.FLT_PAIR_PAIR s

/-- BRIDGE_TRAIN_START (R33): 1 ms in DOWN, both ends supplied and locked, neither in thermal shutdown. -/
def execBridgeTrainStart (die : Fin 2) (s : State) : Host.Outcome State Fault Refusal :=
  s.onChip fun c =>
    if (c.br die).st = 0 ∧ c.supplyOk die ∧ !(c.cv die).hot ∧ c.on (F.CNV_STATUS_CKM_LOCK die) ∧ !c.bridgeBarred die then
      c.setBr die fun b => { b with st := 1 }
    else c

/-- BRIDGE_TRAIN_TIMEOUT (R33). -/
def execBridgeTrainTimeout (die : Fin 2) (s : State) : Host.Outcome State Fault Refusal :=
  s.onChip fun c => c.when ((c.br die).st = 1) fun c => c.setBr die fun b => { b with st := 0 }

/-- POWER_EN (R97, R464): 0 takes the die to OFF and stops its bridge, 1 starts it. -/
def Chip.powerEn (c : Chip) (d : Nat) (on : Bool) : Chip :=
  let c := c.wrB (F.CNV_CTRL_POWER_EN d) on
  if on then c.dieStart d
  else if c.rd (F.CNV_STATUS_STATE d) = 0 then c
  else (c.dieOff d).bridgeDown d none

/-- RECAL (R97): from RUN or SAFE. -/
def Chip.recal (c : Chip) (d : Nat) : Chip :=
  c.when (c.rd (F.CNV_STATUS_STATE d) = 3 || c.rd (F.CNV_STATUS_STATE d) = 4) fun c => c.startCal d

/-- CKM_LOCK (R97): the CKM locks; in SAFE with the bridge UP the die goes on. -/
def Chip.safeExit (c : Chip) (d : Nat) : Chip :=
  if c.rd (F.CNV_STATUS_STATE d) = 4 ∧ (c.br d).st = 2 ∧ c.on (F.CNV_STATUS_CKM_LOCK d) then
    if (c.cv d).cut then c.startCal d else c.dieState d 3
  else c

@[inherit_doc Chip.safeExit]
def execCkmLock (die : Fin 2) (s : State) : Host.Outcome State Fault Refusal :=
  s.onChip fun c =>
    if (c.cv die).ckmTry ∧ !c.on (F.CNV_STATUS_CKM_LOCK die) then
      let c := (c.wr (F.CNV_STATUS_CKM_LOCK die) 1).setCv die fun x => { x with ckmTry := false }
      (c.faultFall (412 + die) 1).safeExit die
    else c

/-- CNV_CLOCKING_DONE (R88, R97): lock held for 100 µs, bridge UP and equal rates. -/
def execCnvClockingDone (die : Fin 2) (s : State) : Host.Outcome State Fault Refusal :=
  s.onChip fun c =>
    if c.rd (F.CNV_STATUS_STATE die) = 1 ∧ c.on (F.CNV_STATUS_CKM_LOCK die) ∧ (c.br die).st = 2 then
      if c.rd (F.CNV_CLK_RATE_K 0) = c.rd (F.CNV_CLK_RATE_K 1) then c.startCal die
      else (c.raise (F.CNV_INT_STATUS_RATE_MISMATCH 0)).raise (F.CNV_INT_STATUS_RATE_MISMATCH 1)
    else c

/-- CKM_FAIL (R97): 2 ms without lock. -/
def Chip.ckmFail (c : Chip) (d : Nat) : Chip :=
  if (c.cv d).ckmTry ∧ !c.on (F.CNV_STATUS_CKM_LOCK d) then
    ((c.wr (F.CNV_STATUS_CKM_FAIL d) 1).setCv d fun x => { x with ckmTry := false }).faultRise { src := 412 + d, cause := 2 }
  else c

@[inherit_doc Chip.ckmFail]
def execCkmFail (die : Fin 2) (s : State) : Host.Outcome State Fault Refusal := s.onChip fun c => c.ckmFail die

/-- CKM_UNLOCK (R34, R97): the CKM tries again; outside CLOCKING it is a fault; the bridge goes down and with it the die to SAFE. -/
def Chip.ckmUnlock (c : Chip) (d : Nat) : Chip :=
  if !c.on (F.CNV_STATUS_CKM_LOCK d) then c else
  let c := (c.wr (F.CNV_STATUS_CKM_LOCK d) 0).setCv d fun x => { x with ckmTry := true }
  let c := c.when (c.rd (F.CNV_STATUS_STATE d) ≠ 1) fun c => c.faultRise { src := 412 + d, cause := 1 }
  c.when ((c.br d).st ≠ 0) fun c => c.bridgeDown d (some 4)

@[inherit_doc Chip.ckmUnlock]
def execCkmUnlock (die : Fin 2) (s : State) : Host.Outcome State Fault Refusal := s.onChip fun c => c.ckmUnlock die

/-! ## Results of calibration (R98, R100, R102, R103) -/

/-- Sub-converter correction `k` of CNV_SKEW[l][b]. -/
def skewFld (d l b k : Nat) : Fld := ⟨0x202000 + 0x100000 * d + 0x80 * l + 0x10 * b + 8 * (k / 4), 16 * (k % 4), 16, 0⟩

/-- The ADC of lane `l` takes table entry `b`. -/
def Chip.takeSkew (c : Chip) (d l b : Nat) : Chip :=
  c.setCv d fun x => { x with
    skewNow := (List.range 8).foldl (fun m k => SMap.put 0 m (8 * l + k) (c.rd (skewFld d l b k))) x.skewNow }

/-- Result value `i` of lane `l`. -/
def resVal (r : List (List Nat)) (l i : Nat) : Nat := (r.getD l []).getD i 0

/-- A type 2 result: stored in the entry of the current band, which becomes valid, and taken (R98, R103). -/
def Chip.storeSkew (c : Chip) (d l : Nat) (r : List (List Nat)) : Chip :=
  let b := c.rd (F.CNV_STATUS_BAND d)
  let c := c.forEach (List.range 8) fun k c => c.wr (skewFld d l b k) (resVal r l k)
  (c.wrBit (F.CNV_SKEW_VALID_VALID d) (6 * l + b) true).takeSkew d l b

/-- What R102 reports when type 4 (receive) or 5 (transmit) completes on lane `l`; results: RX_REJ, RX gain and phase,
TX_REJ, TX_LOL, TX gain and phase. -/
def Chip.reportIrr (c : Chip) (d l : Nat) (rx : Bool) (r : List (List Nat)) : Chip :=
  let low := resVal r l (if rx then 0 else 3) < c.rd (F.CNV_CAL_CFG_IRR_MIN d)
  let c := if rx then (c.dieWr d (F.CNV_IRR_RX_REJ d l) (resVal r l 0)).dieWr d (F.CNV_IRR_RX_VALID d l) 1
    else ((c.dieWr d (F.CNV_IRR_TX_REJ d l) (resVal r l 3)).dieWr d (F.CNV_IRR_TX_LOL d l) (resVal r l 4)).dieWr d (F.CNV_IRR_TX_VALID d l) 1
  c.when low fun c => c.raise (F.CNV_INT_STATUS_IRR_LOW d)

/-- The quadrature correction of lane `l` is applied. -/
def Chip.applyIq (c : Chip) (d l : Nat) (rx : Bool) (r : List (List Nat)) : Chip :=
  if rx then (c.dieWr d (F.CNV_IQCORR_RX_GAIN d l) (resVal r l 1)).dieWr d (F.CNV_IQCORR_RX_PHASE d l) (resVal r l 2)
  else (c.dieWr d (F.CNV_IQCORR_TX_GAIN d l) (resVal r l 5)).dieWr d (F.CNV_IQCORR_TX_PHASE d l) (resVal r l 6)

/-- SYN_LOCK bit `y` of CNV_STATUS. -/
def synLockFld (d y : Nat) : Fld := if y = 0 then F.CNV_STATUS_SYN1_LOCK d else F.CNV_STATUS_SYN2_LOCK d

/-- Whether lane `l` takes part in phase C: a mixer path with its synthesiser enabled and locked (R98). -/
def Chip.phaseC (c : Chip) (d l : Nat) : Bool :=
  [0, 1].any fun y => c.usesSyn d l y && c.on (F.CNV_SYN_EN d y) && decide (c.dieRd d (synLockFld d y) = 1)

/-- Whether a path of lane `l` is a mixer path: receive, transmit. -/
def Chip.mixRx (c : Chip) (d l : Nat) : Bool := c.on (F.CNV_LANE_RX_PATH d l)
@[inherit_doc Chip.mixRx] def Chip.mixTx (c : Chip) (d l : Nat) : Bool := 2 ≤ c.rd (F.CNV_LANE_TX_PATH d l)

/-- STARTCAL_PHASE_DONE (R98): phase A, B or C completes; RUN after the last (DESIGN CHOICE, log 79). -/
def execStartcalPhaseDone (die : Fin 2) (results : List (List Nat)) (s : State) : Host.Outcome State Fault Refusal :=
  s.onChip fun c =>
    if c.rd (F.CNV_STATUS_STATE die) ≠ 2 then c else
    let lanes := List.range 8
    match (c.cv die).phase with
    | 0 => c.setCv die fun x => { x with phase := 1 }
    | 1 =>
      let c := c.forEach lanes fun l c => c.storeSkew die l results
      let c := c.forEach (lanes.filter fun l => !c.phaseC die l) fun l c =>
        (c.dieWr die (F.CNV_IRR_RX_VALID die l) 0).dieWr die (F.CNV_IRR_TX_VALID die l) 0
      let m := lanes.foldl (fun m l => if c.phaseC die l then m + 2 ^ l else m) 0
      if m ≠ 0 then c.setCv die fun x => { x with phase := 2, lanesC := m } else c.dieState die 3
    | _ =>
      let c := c.forEach (lanes.filter fun l => bit (c.cv die).lanesC l) fun l c =>
        let c := c.when (c.mixRx die l) fun c => (c.reportIrr die l true results).applyIq die l true results
        c.when (c.mixTx die l) fun c => (c.reportIrr die l false results).applyIq die l false results
      c.dieState die 3

/-- Tempi of a step, and steps to complete, by type (R100). -/
def calLen (ty : Nat) : Nat := if ty = 1 ∨ ty = 4 then 8 else 16
@[inherit_doc calLen] def calTotal (ty : Nat) : Nat := if ty = 1 then 32 else if ty = 4 then 36 else 30

/-- CAL_FIRE (R99, R101): a window opens, or is refused. -/
def Chip.calOpen (c : Chip) (o : Occ) : Chip :=
  let d := bits o.target 8 1
  let ty := bits o.target 12 4
  let lanes := bits o.target 0 8
  if c.rd (F.CNV_STATUS_STATE d) ≠ 3 ∨ (c.cv d).win.isSome then
    (c.raise (F.CNV_INT_STATUS_CAL_REFUSED d)).inc (F.CNV_CAL_STATUS_REFUSED d)
  else
    let c := c.setCv d fun x => { x with win := some { ty := ty, lanes := lanes, closeAt := c.air.mono + 4096 * o.arg } }
    let c := (c.dieWr d (F.CNV_CAL_STATUS_ACTIVE_TYPE d) ty).dieWr d (F.CNV_CAL_STATUS_ACTIVE_LANES d) lanes
    c.when (c.calMask d ty ≠ lanes) fun c =>
      (c.setSteps d ty 0).dieWr d (F.CNV_CAL_MASK_LANES d) (putByte (c.dieRd d (F.CNV_CAL_MASK_LANES d)) ty lanes)

@[inherit_doc Chip.calOpen]
def execCalFire (s : State) : Host.Outcome State Fault Refusal := s.onChip fun c => c.fire 4 fun o c => c.calOpen o

/-- Whether a step of the window would be discarded now: no permit, or a lane's synthesiser unlocked (R101). -/
def Chip.calSpoilt (c : Chip) (d : Nat) (w : CalWin) : Bool :=
  decide (3 ≤ w.ty) && (!c.zmd.permit ||
    (List.range 8).any fun l => bit w.lanes l && [0, 1].any fun y => c.usesSyn d l y && decide (c.dieRd d (synLockFld d y) = 0))

/-- Mark the running step of a window to be discarded when the permit or a synthesiser spoils it. -/
def Chip.calSpoil (c : Chip) (d : Nat) : Chip :=
  match (c.cv d).win with
  | some w => if c.calSpoilt d w then c.setCv d fun x => { x with win := some { w with bad := true } } else c
  | none => c

/-- CAL_STEP_START (R100): at a boundary, when the step ends at or before the close. -/
def execCalStepStart (die : Fin 2) (s : State) : Host.Outcome State Fault Refusal :=
  s.onChip fun c =>
    match (c.cv die).win with
    | none => c
    | some w =>
      let e := c.air.mono + 4096 * calLen w.ty
      if c.air.onB ∧ w.step = none ∧ !w.stop ∧ e ≤ w.closeAt then
        c.setCv die fun x => { x with win := some { w with step := some e, bad := c.calSpoilt die w, drops := c.zmd.drops } }
      else c

/-- CAL_STEP_DONE (R100–R102): counted, or discarded; the last step completes the calibration (DESIGN CHOICE, log 80). -/
def execCalStepDone (die : Fin 2) (results : List (List Nat)) (s : State) : Host.Outcome State Fault Refusal :=
  s.onChip fun c =>
    match (c.cv die).win with
    | none => c
    | some w =>
      match w.step with
      | none => c
      | some e =>
        if c.air.mono < e then c else
        let c := c.setCv die fun x => { x with win := some { w with step := none, bad := false } }
        if w.bad || w.stop || (decide (3 ≤ w.ty) && decide (w.drops ≠ c.zmd.drops)) then c else
        let k := c.calSteps die w.ty
        let k := (if calTotal w.ty ≤ k then 0 else k) + 1
        let c := c.setSteps die w.ty k
        if k < calTotal w.ty then c else
        let c := (c.dieWr die (F.CNV_CAL_STATUS_LAST_TYPE die) w.ty).dieWr die (F.CNV_CAL_STATUS_LAST_LANES die) w.lanes
        let c := c.raise (F.CNV_INT_STATUS_CAL_DONE die)
        let c := c.when (w.ty = 4 || w.ty = 5) fun c =>
          c.forEach ((List.range 8).filter fun l => bit w.lanes l) fun l c => c.reportIrr die l (w.ty = 4) results
        c.setCv die fun x => { x with calApply := some (w.ty, w.lanes, results), calDue := c.air.tempi + 1 }

/-- CAL_APPLY (R100): at the next boundary the new corrections are applied. -/
def execCalApply (die : Fin 2) (s : State) : Host.Outcome State Fault Refusal :=
  s.onChip fun c =>
    match (c.cv die).calApply with
    | none => c
    | some (ty, lanes, r) =>
      if c.air.onB = false ∨ c.air.tempi < (c.cv die).calDue then c else
      let c := c.setCv die fun x => { x with calApply := none }
      c.forEach ((List.range 8).filter fun l => bit lanes l) fun l c =>
        if ty = 2 then c.storeSkew die l r else if ty = 4 then c.applyIq die l true r
        else if ty = 5 then c.applyIq die l false r else c

/-- CAL_WINDOW_CLOSE (R99): ARG tempi after the opening. -/
def execCalWindowClose (die : Fin 2) (s : State) : Host.Outcome State Fault Refusal :=
  s.onChip fun c =>
    match (c.cv die).win with
    | none => c
    | some w =>
      let t := c.now + (w.closeAt - c.air.mono)
      if c.canBe t then (c.reach t).closeWin die else c

/-- The temperature band of die `d` changes (R101, R103, R289) (DEDUCED, log 75). -/
def Chip.bandChange (c : Chip) (d b : Nat) : Chip :=
  (c.wr (F.CNV_STATUS_BAND d) b).setCv d fun x => { x with
    skewDue := some (c.air.tempi + 1)
    bandAt := c.air.tempi + 1
    win := x.win.map fun w => { w with stop := true } }

/-- After a band change in a window, the progress of its type returns to 0 (R101). -/
def Chip.bandCut (c : Chip) (d : Nat) : Chip :=
  match (c.cv d).win with
  | none => c
  | some w => c.setSteps d w.ty 0

/-- A band change that is due is taken: with AUTO_SKEW = 1 every ADC takes the entry of the band, or keeps its own (R103). -/
def Chip.bandTake (c : Chip) (d : Nat) : Chip :=
  let b := c.rd (F.CNV_STATUS_BAND d)
  (c.setCv d fun x => { x with skewDue := none }).when (c.on (F.CNV_CTRL_AUTO_SKEW d)) fun c =>
    c.forEach (List.range 8) fun l c =>
      if c.rdBit (F.CNV_SKEW_VALID_VALID d) (6 * l + b) then c.takeSkew d l b else c.raise (F.CNV_INT_STATUS_SKEW_STALE d)

/-- SKEW_BAND_SWITCH (R103, R295): at the boundary host writes act on their ADCs, and the ADCs of a die that runs take the entries
of a new band, or keep theirs and set SKEW_STALE (DEDUCED, log 84). -/
def execSkewBandSwitch (die : Fin 2) (s : State) : Host.Outcome State Fault Refusal :=
  s.onChip fun c =>
    if c.rd (F.CNV_STATUS_STATE die) = 0 then c else
    let due := (c.cv die).skewHost.filter fun p => c.dueAt p.2.2
    let c := due.foldl (fun c p => c.takeSkew die p.1 p.2.1) (c.setCv die fun x => { x with
      skewHost := x.skewHost.filter fun p => !c.dueAt p.2.2 })
    match (c.cv die).skewDue with
    | none => c
    | some t => c.when (c.dueAt t) fun c => c.bandTake die

/-! ## Synthesisers (R94, R95) -/

/-- Whether (N, F) gives an LO in range. -/
def loOk (n f : Nat) : Bool :=
  (decide (9 ≤ n) && decide (n ≤ 38)) || (n = 8 && decide (2315572 ≤ f)) || (n = 39 && decide (f ≤ 1048576))

/-- A write of CNV_SYNs, at the die: any write that reaches N and F retunes while EN = 1 (R94) (DESIGN CHOICE, log 76). -/
def Chip.synWrite (c : Chip) (d y : Nat) (h : Half) (v : Nat) : Chip :=
  let w := h.image v
  let n0 := c.rd (F.CNV_SYN_N d y)
  let f0 := c.rd (F.CNV_SYN_F d y)
  let n1 := fldNew (F.CNV_SYN_N d y) h n0 w
  let f1 := fldNew (F.CNV_SYN_F d y) h f0 w
  let en0 := c.on (F.CNV_SYN_EN d y)
  let en1 := decide (fldNew (F.CNV_SYN_EN d y) h (b2n en0) w = 1)
  let tune := loOk n1 f1 && h.hasLo
  if en0 && tune && (List.range 8).any (fun l => c.online d l && c.usesSyn d l y) then c.raise (F.CNV_INT_STATUS_RETUNE_REFUSED d)
  else
    let c := c.when tune fun c => (c.wr (F.CNV_SYN_N d y) n1).wr (F.CNV_SYN_F d y) f1
    let c := c.wrB (F.CNV_SYN_EN d y) en1
    let c := c.when ((tune && en1) || en0 != en1) fun c => (c.dieWr d (synLockFld d y) 0).calSpoil d
    if en0 && !en1 then (c.faultFall (412 + d) (3 + y)).setCv d fun x => { x with synBlank := putBit x.synBlank y true } else c

/-- SYN_LOCK (R95). -/
def execSynLock (die : Fin 2) (syn : Fin 2) (s : State) : Host.Outcome State Fault Refusal :=
  s.onChip fun c =>
    if c.on (F.CNV_SYN_EN die syn) ∧ c.rd (F.CNV_STATUS_STATE die) ≠ 0 ∧ c.dieRd die (synLockFld die syn) = 0 then
      (c.dieWr die (synLockFld die syn) 1).faultFall (412 + die) (3 + syn)
    else c

/-- SYN_UNLOCK (R95): a loss of lock while enabled. -/
def Chip.synUnlock (c : Chip) (d y : Nat) : Chip :=
  if c.on (F.CNV_SYN_EN d y) ∧ c.dieRd d (synLockFld d y) = 1 then
    let c := (c.dieWr d (synLockFld d y) 0).setCv d fun x => { x with synBlank := putBit x.synBlank y true }
    ((c.raise (F.CNV_INT_STATUS_SYN_UNLOCK d)).faultRise { src := 412 + d, cause := 3 + y }).calSpoil d
  else c

@[inherit_doc Chip.synUnlock]
def execSynUnlock (die : Fin 2) (syn : Fin 2) (s : State) : Host.Outcome State Fault Refusal := s.onChip fun c => c.synUnlock die syn

/-- SYN_BLANK_END (R95): lock held for 100 µs; the canceller sees the close of a blank (R101). -/
def execSynBlankEnd (die : Fin 2) (syn : Fin 2) (s : State) : Host.Outcome State Fault Refusal :=
  s.onChip fun c =>
    if c.on (F.CNV_SYN_EN die syn) ∧ c.dieRd die (synLockFld die syn) = 1 ∧ bit (c.cv die).synBlank syn then
      let lanes := (List.range 8).foldl (fun m l => if c.online die l && c.usesSyn die l syn then m + 2 ^ l else m) 0
      (c.setCv die fun x => { x with synBlank := putBit x.synBlank syn false }).suspendLanes die lanes true true
    else c

/-! ## Lanes (R96) -/

/-- A write of CNV_LANE[l], at the die (DESIGN CHOICE, log 77) (DEDUCED, log 78). -/
def Chip.laneWrite (c : Chip) (d l : Nat) (h : Half) (v : Nat) : Chip :=
  let w := h.image v
  let on0 := c.on (F.CNV_LANE_ONLINE d l)
  let ask := decide (fldNew (F.CNV_LANE_ONLINE d l) h (b2n on0) w = 1)
  let on1 := ask && (on0 || decide (c.rd (F.CNV_STATUS_STATE d) = 3))
  let rx := fldNew (F.CNV_LANE_RX_PATH d l) h (c.rd (F.CNV_LANE_RX_PATH d l)) w
  let rx := if rx = 3 then c.rd (F.CNV_LANE_RX_PATH d l) else rx
  let tx := fldNew (F.CNV_LANE_TX_PATH d l) h (c.rd (F.CNV_LANE_TX_PATH d l)) w
  let lo := fldNew (F.CNV_LANE_LO_SEL d l) h (c.rd (F.CNV_LANE_LO_SEL d l)) w
  let moved := decide (rx ≠ c.rd (F.CNV_LANE_RX_PATH d l)) || decide (tx ≠ c.rd (F.CNV_LANE_TX_PATH d l)) ||
    decide (lo ≠ c.rd (F.CNV_LANE_LO_SEL d l))
  let c := (c.wrB (F.CNV_LANE_ONLINE d l) on1).when (on0 != on1) Chip.refreshWings
  let c := c.when (!on1) fun c => c.setCv d fun x => { x with laneOn := putBit x.laneOn l false, onDue := SMap.erase l x.onDue }
  let c := c.when (on1 && !on0) fun c => c.setCv d fun x => { x with onDue := SMap.insert l (c.air.tempi + 1) x.onDue }
  if on1 then c.when moved fun c => c.raise (F.CNV_INT_STATUS_LANE_REFUSED d)
  else (((c.wr (F.CNV_LANE_RX_PATH d l) rx).wr (F.CNV_LANE_TX_PATH d l) tx).wr (F.CNV_LANE_LO_SEL d l) lo).calSpoil d

/-- LANE_ONLINE (R96): at the next boundary. -/
def execLaneOnline (die : Fin 2) (lane : Fin 8) (s : State) : Host.Outcome State Fault Refusal :=
  s.onChip fun c =>
    match (c.cv die).onDue.find lane with
    | none => c
    | some t => c.when (c.dueAt t) fun c =>
      c.setCv die fun x => { x with laneOn := putBit x.laneOn lane true, onDue := SMap.erase lane x.onDue }

/-! ## Writes to the block (R87) -/

/-- A write to a register found in the map acts field by field (R5). -/
def Chip.regWrite (c : Chip) (a : Nat) (h : Half) (v : Nat) : Chip :=
  match regAt a with
  | none => c
  | some l => c.fieldsWrite l h (h.image v)

/-- A write of CNV_CTRL that reached the die, POWER_EN apart. -/
def Chip.ctrlWrite (c : Chip) (d : Nat) (h : Half) (v : Nat) : Chip :=
  if !h.hasLo then c else
  let c := (c.wrB (F.CNV_CTRL_BG_OG d) (bit v 2)).wrB (F.CNV_CTRL_AUTO_SKEW d) (bit v 3)
  c.when (bit v 1) fun c => c.recal d

/-- A write to a skew table word: one to a valid entry of the current band acts at the next boundary (R103). -/
def Chip.skewWrite (c : Chip) (d a : Nat) (h : Half) (v : Nat) : Chip :=
  let o := a - 0x202000 - 0x100000 * d
  let l := o / 0x80
  let b := o % 0x80 / 0x10
  (c.regWrite a h v).when (b = c.rd (F.CNV_STATUS_BAND d) && c.rdBit (F.CNV_SKEW_VALID_VALID d) (6 * l + b)) fun c =>
    c.setCv d fun x => { x with skewHost := SMap.insert l (b, c.air.tempi + 1) x.skewHost }

/-- A forwarded write acts at the die. -/
def Chip.cnvAct (c : Chip) (d : Nat) (w : CnvWrite) : Chip :=
  let o := w.addr - 0x200000 - 0x100000 * d
  if o = 8 then c.ctrlWrite d w.half w.value
  else if o = 0x20 ∨ o = 0x28 then c.synWrite d ((o - 0x20) / 8) w.half w.value
  else if 0x40 ≤ o ∧ o < 0x80 then c.laneWrite d ((o - 0x40) / 8) w.half w.value
  else if 0x2000 ≤ o then c.skewWrite d w.addr w.half w.value
  else c.regWrite w.addr w.half w.value

/-- A control flit carries a write to the die (R31, R87). -/
def Chip.cnvFlit (c : Chip) (d : Nat) (w : CnvWrite) : Chip :=
  ((c.setBr d fun b => { b with seqDn := (b.seqDn + 1) % 256 }).flitSeen d 17 false).cnvAct d w

/-- Forward a write over the control lane: held while the bridge is not UP, up to 64; one more is discarded (R87). -/
def Chip.cnvForward (c : Chip) (q : Requester) (d : Nat) (w : CnvWrite) : Chip :=
  if (c.br d).st = 2 ∧ (c.br d).retxDn = none then c.cnvFlit d w
  else if (c.cv d).held.length < 64 then c.setCv d fun x => { x with held := x.held ++ [w] }
  else c.accessFault q 2 true w.addr

/-- CNV_CLK (R88): RATE_K and REF_SEL are accepted in OFF only; a difference of rates shows on both dies. -/
def Chip.clkWrite (c : Chip) (d : Nat) (h : Half) (v : Nat) : Chip :=
  if c.rd (F.CNV_STATUS_STATE d) ≠ 0 then c else
  let c := c.regWrite (0x200010 + 0x100000 * d) h v
  c.when (c.rd (F.CNV_CLK_RATE_K 0) ≠ c.rd (F.CNV_CLK_RATE_K 1)) fun c =>
    (c.raise (F.CNV_INT_STATUS_RATE_MISMATCH 0)).raise (F.CNV_INT_STATUS_RATE_MISMATCH 1)

/-- A write to a register of a CNVx block (R87). -/
def Chip.cnvWrite (c : Chip) (q : Requester) (a : Nat) (h : Half) (v : Nat) : Chip :=
  let d := a / 0x100000 - 2
  let o := a % 0x100000
  if o = 8 then (c.when h.hasLo fun c => c.powerEn d (bit v 0)).cnvForward q d ⟨a, h, v⟩
  else if o = 0x10 then c.clkWrite d h v
  else if o = 0x128 ∨ o = 0x130 then c.regWrite a h v
  else if o = 0x20 ∨ o = 0x28 ∨ (0x40 ≤ o ∧ o < 0x80) ∨ o = 0x98 ∨ o = 0x120 ∨ 0x2000 ≤ o then c.cnvForward q d ⟨a, h, v⟩
  else c

/-- CNV_POWER_EN_WRITE (R97, R464). -/
def execCnvPowerEnWrite (q : Requester) (die : Fin 2) (on : Bool) (s : State) : Host.Outcome State Fault Refusal :=
  s.onAccess q fun c => c.write q (0x200008 + 0x100000 * die) fun c => c.powerEn die on

/-- CNV_RECAL (R87, R97): forwarded to the die. -/
def execCnvRecal (q : Requester) (die : Fin 2) (s : State) : Host.Outcome State Fault Refusal :=
  s.onAccess q fun c => c.write q (0x200008 + 0x100000 * die) fun c =>
    c.cnvForward q die ⟨0x200008 + 0x100000 * die, .lo,
      2 + 4 * c.rd (F.CNV_CTRL_BG_OG die) + 8 * c.rd (F.CNV_CTRL_AUTO_SKEW die)⟩

/-- SYN_WRITE (R87, R94). -/
def execSynWrite (q : Requester) (die : Fin 2) (syn : Fin 2) (half : Half) (value : Nat) (s : State) : Host.Outcome State Fault Refusal :=
  s.onAccess q fun c => c.write q (0x200020 + 0x100000 * die + 8 * syn) fun c =>
    c.cnvForward q die ⟨0x200020 + 0x100000 * die + 8 * syn, half, value⟩

/-- CNV_LANE_WRITE (R87, R96). -/
def execCnvLaneWrite (q : Requester) (die : Fin 2) (lane : Fin 8) (half : Half) (value : Nat) (s : State) : Host.Outcome State Fault Refusal :=
  s.onAccess q fun c => c.write q (0x200040 + 0x100000 * die + 8 * lane) fun c =>
    c.cnvForward q die ⟨0x200040 + 0x100000 * die + 8 * lane, half, value⟩

/-- The held writes are delivered in order (R87). -/
def Chip.cnvDeliver (c : Chip) (d : Nat) : Chip :=
  (c.cv d).held.foldl (fun c w => c.cnvFlit d w) (c.setCv d fun x => { x with held := [] })

/-- CONTROL_FLIT_CRC_FAIL (R32): discarded and not acknowledged, so what it carries and what follows it waits; `resent` counts how
often it was sent again already (DEDUCED, log 83). -/
def execControlFlitCrcFail (die : Fin 2) (toBoard : Bool) (resent : Fin 4) (s : State) : Host.Outcome State Fault Refusal :=
  s.onChip fun c =>
    let b := c.br die
    let k := if toBoard then b.retxUp else b.retxDn
    if b.st ≠ 2 ∨ k ≠ (if resent.val = 0 then none else some (resent.val - 1)) then c else
    ((c.faultPulse { src := 404 + die, cause := 2 }).flitSeen die (if toBoard then 16 else 17) true).setBr die fun b =>
      if toBoard then { b with retxUp := some resent } else { b with retxDn := some resent }

/-- CONTROL_FLIT_RETRANSMIT (R32): a resend, one of at most three, arrives whole: the flit toward the board if one waits, else that
toward the die, with the writes that waited behind it. -/
def execControlFlitRetransmit (die : Fin 2) (s : State) : Host.Outcome State Fault Refusal :=
  s.onChip fun c =>
    let again := fun (k : Option Nat) => k.isSome && k ≠ some 3
    if again (c.br die).retxUp then (c.setBr die fun b => { b with retxUp := none }).flitSeen die 16 false
    else if again (c.br die).retxDn then ((c.setBr die fun b => { b with retxDn := none }).flitSeen die 17 false).cnvDeliver die
    else c

/-- BRIDGE_UP (R33, R87, R97): held writes are delivered in order, and a die in SAFE goes on. -/
def execBridgeUp (die : Fin 2) (s : State) : Host.Outcome State Fault Refusal :=
  s.onChip fun c =>
    if (c.br die).st ≠ 1 then c else
    let c := (c.setBr die fun b => { b with st := 2, fresh := false }).wr (F.CNV_STATUS_STALE die) 0
    let c := c.cnvDeliver die
    ((c.faultOver (406 + die)).safeExit die).refreshBr

end Sys2Proof.Machine
end

