-- ==== Sys2Proof/Machine/Crypto.lean ====
section
/-!
DEFINITION. SHA-256 (FIPS 180-4) over bytes and ECDSA verification over P-256 (FIPS 186-5), as R59, R194, R195 and
R413 use them: plain arithmetic on natural numbers.
-/

namespace Sys2Proof.Machine

/-! ## CRC-16 -/

/-- One bit into a CRC-16 with polynomial 0x1021. -/
def crcBit (r : Nat) (b : Bool) : Nat :=
  let s := r * 2 % 2 ^ 16
  if bit r 15 = b then s else s ^^^ 0x1021

/-- CRC-16 over the low `w` bits of `n`, most significant bit first: polynomial 0x1021, initial value 0xFFFF, no final inversion (R31). -/
def crc16 (w n : Nat) : Nat := (List.range w).foldl (fun r i => crcBit r (bit n (w - 1 - i))) 0xFFFF

/-- CRC-16 over bytes, each most significant bit first, with the same polynomial and initial value (R242). -/
def crc16Bytes (l : List Nat) : Nat :=
  l.foldl (fun r x => (List.range 8).foldl (fun r i => crcBit r (bit x (7 - i))) r) 0xFFFF

/-! ## SHA-256 -/

/-- The first `n` numbers from `k` on that no smaller number above 1 divides. -/
def primesFrom (k : Nat) : Nat → Nat → List Nat
  | 0, _ => []
  | _, 0 => []
  | fuel + 1, n + 1 =>
    if (List.range k).all fun d => decide (d < 2) || decide (k % d ≠ 0) then k :: primesFrom (k + 1) fuel n
    else primesFrom (k + 1) fuel (n + 1)

/-- The largest root whose `e`-th power is at most `x`, found bit by bit below bit `b`. -/
def rootBits (e x : Nat) : Nat → Nat → Nat
  | 0, r => r
  | b + 1, r => rootBits e x b (if (r + 2 ^ b) ^ e ≤ x then r + 2 ^ b else r)

/-- The first 32 fraction bits of the `e`-th root of `p`. -/
def rootFrac (e p : Nat) : BitVec 32 := BitVec.ofNat 32 (rootBits e (p * 2 ^ (32 * e)) 40 0)

/-- The primes that the constants of the hash come from: 311 is the 64th. -/
def hashPrimes : List Nat := primesFrom 2 310 64

/-- The hash in progress: the last four values of each of the two feedback words, newest first. In the standard's letters
they are a, b, c, d and e, f, g, h: each step makes one new value of either word and the oldest falls out. -/
structure Digest where
  hi : BitVec 32 × BitVec 32 × BitVec 32 × BitVec 32
  lo : BitVec 32 × BitVec 32 × BitVec 32 × BitVec 32
  deriving DecidableEq, Repr

/-- The exclusive or of a word rotated right by two amounts, and of a third word. -/
def mixed (x : BitVec 32) (i j : Nat) (rest : BitVec 32) : BitVec 32 := x.rotateRight i ^^^ x.rotateRight j ^^^ rest

/-- One step with the sum `kw` of the step's constant and its message word. -/
def Digest.turn (s : Digest) (kw : BitVec 32) : Digest :=
  let (a, b, c, d) := s.hi
  let (e, f, g, h) := s.lo
  let t := kw + h + mixed e 6 11 (e.rotateRight 25) + (g ^^^ (e &&& (f ^^^ g)))
  let m := mixed a 2 13 (a.rotateRight 22) + ((a &&& b) ||| (c &&& (a ||| b)))
  ⟨(t + m, a, b, c), (t + d, e, f, g)⟩

/-- The word sixteen steps on, from the sixteen words of a window, oldest first. -/
def nextWord (w : List (BitVec 32)) : BitVec 32 :=
  let at' := fun i => w.getD i 0
  at' 0 + mixed (at' 1) 7 18 (at' 1 >>> 3) + at' 9 + mixed (at' 14) 17 19 (at' 14 >>> 10)

/-- The steps with the constants `ks`: each takes the oldest word of the window, and the window moves on by one word. -/
def Digest.turns : Digest → List (BitVec 32) → List (BitVec 32) → Digest
  | s, [], _ => s
  | s, k :: ks, w => (s.turn (k + w.getD 0 0)).turns ks (w.drop 1 ++ [nextWord w])

/-- Word by word sum. -/
def Digest.plus (s t : Digest) : Digest :=
  let sum := fun (p q : BitVec 32 × BitVec 32 × BitVec 32 × BitVec 32) => (p.1 + q.1, p.2.1 + q.2.1, p.2.2.1 + q.2.2.1, p.2.2.2 + q.2.2.2)
  ⟨sum s.hi t.hi, sum s.lo t.lo⟩

/-- Absorb a block of sixteen words. -/
def Digest.absorb (s : Digest) (w : List (BitVec 32)) : Digest := s.plus (s.turns (hashPrimes.map (rootFrac 3)) w)

/-- Before any block: the square roots of the first eight primes. -/
def Digest.start : Digest :=
  let r := fun i => rootFrac 2 (hashPrimes.getD i 0)
  ⟨(r 0, r 1, r 2, r 3), (r 4, r 5, r 6, r 7)⟩

/-- The eight words. -/
def Digest.words (s : Digest) : List Nat :=
  [s.hi.1, s.hi.2.1, s.hi.2.2.1, s.hi.2.2.2, s.lo.1, s.lo.2.1, s.lo.2.2.1, s.lo.2.2.2].map (·.toNat)

/-- Four bytes, most significant first, as a word. -/
def beWord (l : List Nat) : Nat := l.foldl (fun a b => a * 256 + b) 0

/-- Cut a list into pieces of `k`, `n` at most. -/
def chunks (k : Nat) : Nat → List Nat → List (List Nat)
  | 0, _ => []
  | n + 1, l => if l.isEmpty then [] else l.take k :: chunks k n (l.drop k)

/-- Padding to whole 64-byte blocks: 0x80, zeros, the length in bits as 8 bytes. -/
def shaPad (l : List Nat) : List Nat :=
  let n := l.length
  let z := (119 - n % 64) % 64
  l ++ [0x80] ++ List.replicate z 0 ++ (List.range 8).map fun i => n * 8 / 256 ^ (7 - i) % 256

/-- The bytes of a number, most significant first. -/
def beBytes (k x : Nat) : List Nat := (List.range k).map fun i => x / 256 ^ (k - 1 - i) % 256

/-- The bytes of a number, least significant first. -/
def leBytes (k x : Nat) : List Nat := (List.range k).map fun i => x / 256 ^ i % 256

/-- The digest of a list of bytes, as 32 bytes (PRESUMED, log 66). -/
def sha256 (l : List Nat) : List Nat :=
  let blocks := (chunks 16 (l.length / 64 + 2) ((chunks 4 (l.length / 4 + 32) (shaPad l)).map beWord))
  (blocks.foldl (fun s b => s.absorb (b.map (BitVec.ofNat 32))) Digest.start).words.flatMap (beBytes 4)

/-! ## CRC-32 -/

/-- One byte into the CRC-32 of IEEE 802.3, reflected: each byte least significant bit first. -/
def crc32Byte (r x : Nat) : Nat :=
  (List.range 8).foldl (fun r _ => if r % 2 = 1 then Nat.xor (r / 2) 0xEDB88320 else r / 2) (Nat.xor r x)

/-- The frame check sequence of IEEE 802.3 over a list of bytes (R386). -/
def crc32 (l : List Nat) : Nat := Nat.xor (l.foldl crc32Byte 0xFFFFFFFF) 0xFFFFFFFF

/-! ## ECDSA over P-256 -/

/-- The field prime of P-256. -/
def p256P : Nat := 2 ^ 256 - 2 ^ 224 + 2 ^ 192 + 2 ^ 96 - 1
/-- The order of the base point. -/
def p256N : Nat := 0xFFFFFFFF00000000FFFFFFFFFFFFFFFFBCE6FAADA7179E84F3B9CAC2FC632551
/-- The curve constant b; a is −3. -/
def p256B : Nat := 0x5AC635D8AA3A93E7B3EBBD55769886BC651D06B0CC53B0F63BCE3C3E27D2604B
/-- The base point. -/
def p256G : Nat × Nat := (0x6B17D1F2E12C4247F8BCE6E563A440F277037D812DEB33A0F4A13945D898C296,
  0x4FE342E2FE1A7F9B8EE7EB4A7C0F9E162BCE33576B315ECECBB6406837BF51F5)

/-- x^e mod m by squaring; `k` bits of e. -/
def powMod (m x e : Nat) : Nat → Nat
  | 0 => 1 % m
  | k + 1 =>
    let h := powMod m x (e / 2) k
    let h2 := h * h % m
    if e % 2 = 1 then h2 * x % m else h2

/-- The inverse modulo a prime. -/
def invMod (m x : Nat) : Nat := powMod m (x % m) (m - 2) 256

/-- The sum of two points; none is the point at infinity. -/
def ecAdd (a b : Option (Nat × Nat)) : Option (Nat × Nat) :=
  match a, b with
  | none, b => b
  | a, none => a
  | some (x1, y1), some (x2, y2) =>
    let p := p256P
    if x1 = x2 ∧ (y1 + y2) % p = 0 then none else
    let l := if x1 = x2 then (3 * x1 * x1 + (p - 3)) * invMod p (2 * y1) % p
      else (y2 + p - y1) * invMod p (x2 + p - x1) % p
    let x3 := (l * l + 2 * p - x1 - x2) % p
    some (x3, (l * (x1 + p - x3) + (p - y1)) % p)

/-- k × a, by doubling; `n` bits of k. -/
def ecMul (a : Option (Nat × Nat)) (k : Nat) : Nat → Option (Nat × Nat)
  | 0 => none
  | n + 1 =>
    let h := ecMul a (k / 2) n
    let d := ecAdd h h
    if k % 2 = 1 then ecAdd d a else d

/-- The public key of the secret key `d`, by its coordinates. -/
def ecPublic (d : Nat) : Nat × Nat := (ecMul (some p256G) d 256).getD (0, 0)

/-- The signature of the digest `e` by the secret key `d`, with the secret numbers that follow from `k`: the first that gives
neither r = 0 nor s = 0. -/
def ecdsaSign (d e k : Nat) : Nat → Nat × Nat
  | 0 => (0, 0)
  | n + 1 =>
    let m := k % (p256N - 1) + 1
    let r := (ecPublic m).1 % p256N
    let s := invMod p256N m * (e + r * d) % p256N
    if r = 0 ∨ s = 0 then ecdsaSign d e (k + 1) n else (r, s)

/-- Whether (x, y) is a point of the curve. -/
def onCurve (x y : Nat) : Bool :=
  decide (x < p256P) && decide (y < p256P) && decide (y * y % p256P = (x * x * x + (p256P - 3) * x + p256B) % p256P)

/-- Whether (r, s) is a valid signature of the digest `e` under the public key (x, y). -/
def ecdsaVerify (e x y r s : Nat) : Bool :=
  if r = 0 ∨ s = 0 ∨ p256N ≤ r ∨ p256N ≤ s then false else
  if !onCurve x y then false else
  let w := invMod p256N s
  match ecAdd (ecMul (some p256G) (e * w % p256N) 256) (ecMul (some (x, y)) (r * w % p256N) 256) with
  | none => false
  | some (x1, _) => x1 % p256N = r

end Sys2Proof.Machine
end

