-- ==== Sys2Proof/Machine/Filter.lean ====
section
/-!
DEFINITION. The fixed filters between a lane and a slot (R112–R118): cosines, the turn of a phase accumulator, and the filters of the
channeliser, the merger, the resampler and the way back. The spec gives what each must do and no coefficient: the coefficients are
free values, and a free filter that does not do it gives way to one that does.
-/

namespace Sys2Proof.Machine

/-! ## Cosines -/

/-- The fraction bits of the arithmetic. -/
def trigBits : Nat := 128

/-- arctan (1 / x). -/
def arctanInv (x : Nat) : Int :=
  (List.range 64).foldl (fun a k => (a : Int) + (if k % 2 = 0 then 1 else -1) * ((2 ^ trigBits / ((2 * k + 1) * x ^ (2 * k + 1)) : Nat) : Int)) 0

/-- π. -/
def piBits : Int := 4 * (4 * arctanInv 5 - arctanInv 239)

/-- The cosine of an angle from 0 to π, by its series: the term, the sum, and the step's number. -/
def cosGo (t2 : Int) : Nat → Nat → Int → Int → Int
  | 0, _, _, sum => sum
  | fuel + 1, k, term, sum =>
    let u := -(term * t2 / 2 ^ trigBits) / (((2 * k + 1) * (2 * k + 2) : Nat) : Int)
    cosGo t2 fuel (k + 1) u (sum + u)
@[inherit_doc cosGo] def cosBits (angle : Int) : Int := cosGo (angle * angle / 2 ^ trigBits) 40 0 (2 ^ trigBits) (2 ^ trigBits)

/-- The cosine of `num` / `den` of a turn. -/
def cosTurn (num den : Nat) : Int :=
  let r := min (num % den) (den - num % den)
  if r = 0 then 2 ^ trigBits else if 4 * r = den then 0 else if 2 * r = den then -(2 ^ trigBits) else cosBits (2 * piBits * r / den)

/-- The ramp factor after `i` of `n` samples, 2^16 = 1: (1 − cos (π i / n)) / 2, exact where the cosine is rational, and else rounded in a
direction that the spec leaves open (R129) (DESIGN CHOICE, log 15) (DEDUCED, log 130). -/
def rampFactor (n i : Nat) : Nat :=
  if i = 0 then 0 else if n ≤ i then 2 ^ 16
  else if 3 * i = n then 2 ^ 14 else if 2 * i = n then 2 ^ 15 else if 3 * i = 2 * n then 3 * 2 ^ 14
  else ((2 ^ trigBits - cosBits (piBits * i / n)) / 2 ^ (trigBits - 15)).toNat + b2n (Config.roundUp 11 (1024 * n + i : Nat))

/-- cos and sin of a 32-bit phase, 30 fraction bits: exact at the quarters, and else one of the two neighbours (R114, R116). -/
def turn (w : Int) : Cx :=
  let part := fun p : Nat => cosTurn p (2 ^ 32) / 2 ^ (trigBits - 30) + if p % 2 ^ 30 = 0 then 0 else b2n (Config.roundUp 12 (min p (2 ^ 32 - p) : Nat))
  ⟨part (ofS 32 w), part (ofS 32 (w - 2 ^ 30))⟩

/-! ## Filters -/

/-- Σ g j for j below `n`. -/
def cxSum (n : Nat) (g : Nat → Cx) : Cx := (List.range n).foldl (fun a j => a.add (g j)) Cx.zero

/-- A filter: its length and its coefficients, 30 fraction bits. -/
structure Fir where
  len : Nat
  tap : Nat → Cx

/-- Σ h j × x j: the sum over the samples that are not 0. -/
def Fir.apply (h : Fir) (x : Nat → Cx) : Cx := cxSum h.len fun j => if x j = Cx.zero then Cx.zero else (h.tap j).mul (x j)

/-- Both parts of a complex sum, divided, rounded and saturated to `w` bits. -/
def narrow (key w den : Nat) (x : Cx) : Cx := x.map fun i => satS w (rndOpen key i den)

/-- The response to a tone that turns by `w` / 2^32 from a sample to the next, 30 fraction bits. -/
def Fir.at (h : Fir) (w : Int) : Cx := (h.apply fun j => turn (-w * j)).map fun i => i / 2 ^ 30

/-- Whether `p` holds from `i` on for `k` numbers. -/
def holdsFrom (p : Nat → Bool) : Nat → Nat → Bool
  | _, 0 => true
  | i, k + 1 => p i && holdsFrom p (i + 1) k

/-- A response of 1 to within 0.01 dB. -/
def flat (x : Cx) : Bool :=
  decide (2 ^ 60000 ≤ 10 * x.normSq ^ 1000) && decide (x.normSq ^ 1000 ≤ 10 * 2 ^ 60000)

/-- A response at least 90 dB below 1. -/
def silent (x : Cx) : Bool := decide (x.normSq * 10 ^ 9 ≤ 2 ^ 60)

/-- The sine of t / den of a turn over its angle: the impulse response of an ideal low-pass, as num / 1 with `trigBits` fraction bits. -/
def sincTurn (t : Int) (den : Nat) : Int :=
  if t = 0 then 2 ^ trigBits else cosTurn ((t - den / 4) % den).toNat den * (2 ^ trigBits * den) / (2 * piBits * t)

/-- The four-term Blackman–Harris window at `i` of `m`. -/
def window (i m : Nat) : Int :=
  (35875 * 2 ^ trigBits - 48829 * cosTurn i m + 14128 * cosTurn (2 * i) m - 1168 * cosTurn (3 * i) m) / 100000

/-- A product of two numbers with `trigBits` fraction bits, with 30. -/
def tapOf (a b : Int) : Int := a * b / 2 ^ (2 * trigBits - 30)

/-! ## The channeliser (R112) -/

/-- The prototype of the 1,024-point bank, one low-pass for every sub-band. The property: flat to ±0.01 dB within half of Δ, and what a
sub-band's rate of 2 Δ aliases into that span at least 90 dB down (R112). -/
def analysisOk (h : Fir) : Bool :=
  decide (0 < h.len) && holdsFrom (fun w => flat (h.at w)) 0 (2 ^ 21 + 1) &&
  holdsFrom (fun w => silent (h.at w)) (3 * 2 ^ 21) (2 ^ 32 - 6 * 2 ^ 21 + 1)

/-- A bank with the property: flat to 0.75 Δ and silent from 1.25 Δ. -/
def analysisModel : Fir := ⟨16385, fun j => ⟨tapOf (sincTurn (j - 8192) 1024 / 512) (window j 16384), 0⟩⟩

/-- The prototype of the front channeliser (R112) (DESIGN CHOICE, log 94). -/
def analysisBank : Fir :=
  let h : Fir := ⟨Config.analysisTaps, fun j => ⟨Config.analysis j, 0⟩⟩
  if analysisOk h then h else analysisModel

/-! ## The merger (R113, R117) -/

/-- The phase word of a tone at `v` − `s` Δ, `v` as a phase word of the lane: seen by a filter at the sub-band's rate × 2^d. -/
def offsetAt (v : Int) (s d : Nat) : Int := (v - s * 2 ^ 22) * 2 ^ (9 - d)

/-- What a tone of the lane at `v` from the first of `n` sub-bands comes to in the merged stream's samples of phase `f`. -/
def mergeGain (h : Fir) (g : Nat → Nat → Fir) (n d : Nat) (f : Nat) (v : Int) : Cx :=
  cxSum n fun s =>
    let u := offsetAt v s d
    ((h.at (v - s * 2 ^ 22)).mul (((g s f).apply fun j => turn (-u * (j * 2 ^ d + f : Nat))).map fun i => i / 2 ^ 30)).map fun i => i / 2 ^ 30

/-- The merged range of `n` sub-bands is joined into one stream: every tone in it comes through with gain 1 to within 0.01 dB, the same
at every phase to 90 dB (R113, R117). -/
def mergeOk (n d : Nat) (g : Nat → Nat → Fir) : Bool :=
  decide (0 < (g 0 0).len) && holdsFrom (fun i =>
    let gain := fun f => mergeGain analysisBank g n d f ((i : Int) - 2 ^ 21)
    flat (gain 0) && holdsFrom (fun f => silent ((gain f).sub (gain 0))) 1 (2 ^ d - 1)) 0 (n * 2 ^ 22 + 1)

/-- The impulse response, at `t` / 2^d of a sub-band's samples, of a band-pass from −`a` to `b` eighths of their rate. -/
def bandPass (a b : Nat) (t : Int) (d : Nat) : Cx :=
  let w := window (t + 20 * 2 ^ d).toNat (40 * 2 ^ d)
  let part := fun e : Nat => cosTurn ((e * t) % (8 * 2 ^ d)).toNat (8 * 2 ^ d)
  let side := fun e : Nat => cosTurn ((e * t - 2 * 2 ^ d) % (8 * 2 ^ d)).toNat (8 * 2 ^ d)
  if t = 0 then ⟨tapOf ((a + b : Nat) * 2 ^ trigBits / 8) w, 0⟩ else
  let turn := fun x : Int => tapOf (x * (2 ^ trigBits * 2 ^ d) / (2 * piBits * t)) w
  ⟨turn (side b + side a), turn (part a - part b)⟩

/-- A merger with the property: between two neighbours each goes over into the other halfway, and the outer ones pass all of Δ. -/
def mergeModel (n d s f : Nat) : Fir :=
  ⟨40, fun j => bandPass (if s = 0 then 3 else 2) (if s + 1 = n then 3 else 2) ((j * 2 ^ d + f : Nat) - (20 * 2 ^ d : Nat)) d⟩

/-- The filter that brings sub-band `s` of `n` into the merged samples of phase `f` (R113) (DESIGN CHOICE, log 94). -/
def mergeBank (n d s f : Nat) : Fir :=
  let g := fun s f : Nat => (⟨Config.mergeTaps, Config.merge n s f⟩ : Fir)
  if mergeOk n d g then g s f else mergeModel n d s f

/-! ## The resampler (R118) -/

/-- A half-band filter out of its coefficients at the odd places on one side, the first of which makes the gain at 0 Hz 1. -/
def halfBand (q : Nat) (a : Nat → Int) : Fir :=
  ⟨4 * q - 1, fun j =>
    let o := (2 * q - 1) - j + (j - (2 * q - 1))
    ⟨if o = 0 then 2 ^ 29 else if o % 2 = 0 then 0
     else if o = 1 then 2 ^ 28 - (List.range (q - 1)).foldl (fun s i => s + a (i + 1)) 0 else a (o / 2), 0⟩⟩

/-- What a half-band stage must do: flat to ±0.01 dB up to the edge of the widest slot, 1 / 2.4576 of half its input rate (R117, R118). -/
def halfOk (h : Fir) : Bool := decide (1 < h.len) && holdsFrom (fun w => flat (h.at w)) 0 (2 ^ 32 * 10000 / 49152 + 1)

/-- The half-band filter of the resampler, 30 fraction bits (R118) (DESIGN CHOICE, log 94). -/
def halfFir : Fir :=
  let h := halfBand Config.halfPairs Config.halfBand
  if halfOk h then h else halfBand 24 fun i => tapOf (sincTurn (2 * i + 1) 4 / 2) (window (2 * i + 49) 96)

/-- The coefficient of x^`l` in the product of the (x − p). -/
def polyCoef : List Int → Nat → Int
  | [], l => if l = 0 then 1 else 0
  | p :: ps, l => (if l = 0 then 0 else polyCoef ps (l - 1)) - p * polyCoef ps l

/-- A cubic Farrow stage: at r / den of a sample after the newest, less the delay, coefficients with 30 fraction bits and den^3. The first
coefficient of each order makes the gain at 0 Hz 1. -/
def farrowFir (len : Nat) (c : Nat → Nat → Int) (r den : Nat) : Fir :=
  ⟨len, fun j => ⟨(List.range 4).foldl (fun a l =>
    let k := if j = 0 then (if l = 0 then 2 ^ 30 else 0) - (List.range (len - 1)).foldl (fun s i => s + c l (i + 1)) 0 else c l j
    a + k * ((r ^ l * den ^ (3 - l) : Nat) : Int)) 0, 0⟩⟩

/-- What a Farrow stage must do: at every sixteenth of a sample, a tone up to the edge of the widest slot keeps its level and its phase,
to 3 % (R117, R118) (DESIGN CHOICE, log 94). -/
def farrowOk (len : Nat) (c : Nat → Nat → Int) : Bool :=
  decide (0 < len) && holdsFrom (fun w =>
    let g := fun r => ((farrowFir len c r 16).at w).map fun i => i / 2 ^ 12
    let near := fun x y : Cx => decide (10000 * (x.sub y).normSq ≤ 9 * 2 ^ 60)
    decide ((g 0).normSq * 10000 ≤ 10609 * 2 ^ 60) && decide (9409 * 2 ^ 60 ≤ (g 0).normSq * 10000) &&
    holdsFrom (fun r => near (g r) (((g 0).mul (turn (w * r / 16 : Nat))).map fun i => i / 2 ^ 30)) 1 15) 0 (2 ^ 32 * 10000 / 24576 + 1)

/-- Places of the cubic through a windowed sinc, in eightieths of a sample. -/
def farrowNodes : List Int := [3, 25, 55, 77]

/-- A Farrow stage with the property: through 48 samples, the cubic that meets a windowed sinc at four places between two samples. -/
def farrowModel (l j : Nat) : Int :=
  farrowNodes.foldl (fun a p =>
    let t : Int := p + 80 * ((j : Int) - 24)
    let rest := farrowNodes.filter (· ≠ p)
    a + tapOf (sincTurn t 160) (window (t + 1920).toNat 3840) * polyCoef rest l * 80 ^ l / rest.foldl (fun m k => m * (p - k)) 1) 0

/-- The Farrow stage at r / den of a sample (R118) (DESIGN CHOICE, log 94). -/
def farrowBank (r den : Nat) : Fir :=
  if farrowOk Config.farrowTaps Config.farrow then farrowFir Config.farrowTaps Config.farrow r den else farrowFir 48 farrowModel r den

/-! ## The way back (R116, R117) -/

/-- What a tone of the merged stream at `v` from the first of `n` sub-bands comes to on the lane. -/
def splitGain (g : Nat → Fir) (h : Fir) (n d : Nat) (v : Int) : Cx :=
  cxSum n fun s => (((g s).at (offsetAt v s d)).mul (h.at (v - s * 2 ^ 22))).map fun i => i / 2 ^ 39

/-- Every tone in the transmit range goes out with gain 1 to within 0.01 dB (R117). -/
def splitOk (n d : Nat) (g : Nat → Fir) (h : Fir) : Bool :=
  decide (0 < (g 0).len) && decide (0 < h.len) && holdsFrom (fun i => flat (splitGain g h n d ((i : Int) - 2 ^ 21))) 0 (n * 2 ^ 22 + 1)

/-- Whether the free split and the free synthesis bank do it for every number of sub-bands. -/
def backOk : Bool :=
  holdsFrom (fun n => splitOk n (Nat.log2 (2 * n - 1)) (fun s => ⟨Config.splitTaps, Config.split n s⟩) ⟨Config.synthTaps, fun j => ⟨Config.synth j, 0⟩⟩) 1 64

/-- The filter of sub-band `s` of `n` out of the merged stream (R116) (DESIGN CHOICE, log 94). -/
def splitBank (n d s : Nat) : Fir :=
  if backOk then ⟨Config.splitTaps, Config.split n s⟩ else
  let m := bandPass (if s = 0 then 3 else 2) (if s + 1 = n then 3 else 2)
  ⟨40 * 2 ^ d + 1, fun j => (m ((j : Int) - (20 * 2 ^ d : Nat)) d).map fun i => i / 2 ^ d⟩

/-- The prototype of the synthesis bank of the back combiner (R116) (DESIGN CHOICE, log 94). -/
def synthBank : Fir :=
  if backOk then ⟨Config.synthTaps, fun j => ⟨Config.synth j, 0⟩⟩ else ⟨16385, fun j => (analysisModel.tap j).scale 512⟩

end Sys2Proof.Machine
end

