-- ==== Sys2Proof/Machine/FrontEnd.lean ====
section
/-!
DEFINITION. The sample lanes and what stands between them and the squares: flits (R31, R32), the front channeliser, merger, frequency
shift and resampler (R112–R114, R118), the same way back to the back combiner and the DACs (R116–R119), and the references that are
taken there (R22).
-/

namespace Sys2Proof.Machine

/-! ## Flits (R31) -/

/-- Bits [127:0] of a flit with their CRC in bits [143:128]. -/
def withCrc (n : Nat) : Nat := n % 2 ^ 128 + crc16 128 (n % 2 ^ 128) * 2 ^ 128

/-- Whether a flit's CRC is right. -/
def flitGood (f : Nat) : Bool := decide (bits f 128 16 = crc16 128 (f % 2 ^ 128))

/-- Eight samples, earliest first, as a sample flit. -/
def sampleFlit (l : List Int) : Nat := withCrc ((List.range 8).foldl (fun a i => a + ofS 16 (l.getD i 0) * 2 ^ (16 * i)) 0)

/-- The eight samples of a flit from an ADC, earliest first: 14 bits each, in bits [15:2] of its field. -/
def flitSamples (f : Nat) : List Int := (List.range 8).map fun i => toS 16 (bits f (16 * i + 2) 14 * 4)

/-- A control flit: its payload of 120 bits and its sequence number (DESIGN CHOICE, log 93). -/
def controlFlit (payload seq : Nat) : Nat := withCrc (payload % 2 ^ 120 + seq % 2 ^ 8 * 2 ^ 120)

/-! ## Histories -/

/-- Sample `t` of a history that holds samples up to `next − 1`, newest first; what it does not hold is 0. -/
def histAt {α : Type} (zero : α) (next : Nat) (l : List α) (t : Nat) : α := if t < next then l.getD (next - 1 - t) zero else zero

/-- Sample `t − j` of a stream that begins at 0. -/
def back {α : Type} (zero : α) (x : Nat → α) (t j : Nat) : α := if j ≤ t then x (t - j) else zero

/-! ## A slot's tuning (R113, R114) -/

/-- Where a slot stands in a lane's spectrum: its first sub-band, how many, its centre FC_FOLD, SPEC_INV, SLOT_BW, and RATE_K. -/
structure Tune where
  first : Nat
  n : Nat
  fc : Nat
  inv : Bool
  bw : Nat
  rate : Nat
  deriving DecidableEq, Repr

/-- d of R113. -/
def Tune.d (t : Tune) : Nat := decimD t.n

/-- h = ⌊log2 ρ⌋ of R118, ρ = fs × 2^d ÷ (512 × slot rate). -/
def Tune.h (t : Tune) : Nat := Nat.log2 (40000 * t.rate * 2 ^ t.d / (512 * 122880 * t.bw))

/-- One converter clock, and one slot sample, in units of 1 / (384 × SLOT_BW) of a converter clock. -/
def Tune.clock (t : Tune) : Nat := 384 * t.bw
@[inherit_doc Tune.clock] def Tune.step (t : Tune) : Nat := 125 * t.rate

/-- The merged sample that is there at position `pos`: one every 512 ÷ 2^d converter clocks. -/
def Tune.mergedAt (t : Tune) (pos : Nat) : Nat := pos * 2 ^ t.d / (512 * t.clock)

/-- The phase step of the 32-bit accumulator at R_m: FC_FOLD less the centre of the merged range (R114) (DEDUCED, log 95). -/
def Tune.word (t : Tune) : Nat :=
  let fs : Int := 40000 * t.rate
  ofS 32 (rndOpen 5 (((20480 * t.fc : Nat) - fs * (2 * t.first + t.n - 1 : Nat)) * 2 ^ 30) (40000 * t.rate * 2 ^ t.d))

/-- The tuning of square `n` on its receive side. -/
def Chip.rxTune (c : Chip) (n : Nat) : Tune where
  first := c.subFirst n
  n := c.subN n
  fc := c.rd (F.SQ_FREQ_RX_FC_FOLD n)
  inv := c.on (F.SQ_FREQ_RX_SPEC_INV n)
  bw := c.slotBw n
  rate := c.rd (F.CNV_CLK_RATE_K (rxDie n))

/-- The tuning of square `n` on its transmit side: its sub-bands moved by TX_SUB_OFS (R116). -/
def Chip.txTune (c : Chip) (n : Nat) : Tune where
  first := ((c.subFirst n : Int) + c.rdS (F.SQ_FREQ_TX_TX_SUB_OFS n)).toNat
  n := c.subN n
  fc := c.rd (F.SQ_FREQ_TX_FC_FOLD n)
  inv := c.on (F.SQ_FREQ_TX_SPEC_INV n)
  bw := c.slotBw n
  rate := c.rd (F.CNV_CLK_RATE_K (txDie n))

/-! ## From a lane to slot samples (R112–R114, R118) -/

/-- A lane's samples: those of the converter clocks below `next`, newest first. -/
structure Wide where
  next : Nat
  samples : List Int

/-- (−1)^(k × m): the turn of sub-band `k` from one of its samples to the next, since 512 clocks are half of the 1,024-point bank. -/
def halfTurn (k m : Nat) : Int := if k * m % 2 = 0 then 1 else -1

/-- Sample `m` of sub-band `k`, at clock 512 m, Q0.17 (R112): the lane turned back by the band's centre k × Δ and filtered. -/
def subBand (x : Wide) (k m : Nat) : Cx :=
  if x.samples.all (· = 0) then Cx.zero else
  narrow 6 18 (2 ^ 60) ((analysisBank.apply fun j =>
    let i := back 0 (histAt 0 x.next x.samples) (512 * m) j
    if i = 0 then Cx.zero else (turn (k * j * 2 ^ 22 : Nat)).scale (4 * i)).scale (halfTurn k m))

/-- The turn from the centre of sub-band `s` of `n` to that of the merged range, at merged sample `p` (R113) (DEDUCED, log 95). -/
def centreTurn (t : Tune) (s p : Nat) : Cx := turn (((2 * s + 1 : Nat) - (t.n : Int)) * (p * 2 ^ (30 - t.d) : Nat))

/-- Sample `p` of the merged stream before its shift, 79 fraction bits (R113). -/
def merged (t : Tune) (x : Wide) (p : Nat) : Cx :=
  cxSum t.n fun s =>
    let y := (mergeBank t.n t.d s (p % 2 ^ t.d)).apply (back Cx.zero (subBand x (t.first + s)) (p / 2 ^ t.d))
    if y = Cx.zero then Cx.zero else (y.mul (centreTurn t s p)).scale 4

/-- The samples of a merged stream that later stages read: five half-band stages and a Farrow stage, and the sub-band split. -/
def mixDepth : Nat := 32 * (halfFir.len + (farrowBank 0 1).len) + (splitBank 64 6 0).len

/-- A merged stream takes its samples up to index `last`, each turned by `g` from its index and phase. -/
def Mix.run (word : Nat) (g : Nat → Nat → Cx) (last : Nat) (m : Mix) : Mix :=
  iter (fun m => { next := m.next + 1, phase := (m.phase + word) % 2 ^ 32, samples := (g m.next m.phase :: m.samples).take mixDepth })
    (last + 1 - m.next) m

/-- A lane's merged stream, shifted so that FC_FOLD lies at 0 Hz and conjugated with SPEC_INV, up to position `pos`, Q0.19 (R114). -/
def Mix.fromLane (t : Tune) (x : Wide) (pos : Nat) (m : Mix) : Mix :=
  m.run t.word (fun p phase =>
    let y := narrow 7 20 (2 ^ 90) ((merged t x p).mul (turn phase).conj)
    if t.inv then y.conj else y) (t.mergedAt pos)

/-- A stream inside the resampler: its samples below `next`, newest first. -/
structure Track where
  next : Nat
  samples : List Cx

/-- Sample `i` of a track. -/
def Track.at (x : Track) (i : Nat) : Cx := histAt Cx.zero x.next x.samples i

/-- A track of the `n` samples below `next` that `g` gives. -/
def Track.ofFn (next n : Nat) (g : Nat → Cx) : Track := ⟨next, (List.range (min n next)).map fun i => g (next - 1 - i)⟩

/-- A half-band decimator (R118) (DESIGN CHOICE, log 94). -/
def halveRate (x : Track) : Track :=
  .ofFn ((x.next + 1) / 2) ((x.samples.length + halfFir.len) / 2 + 1) fun m => narrow 8 20 (2 ^ 30) (halfFir.apply (back Cx.zero x.at (2 * m)))

/-- The cubic Farrow interpolator: `r / den` of a sample after `x 0`, out of it and those before it (R118). -/
def farrow (x : Nat → Cx) (r den : Nat) : Cx := narrow 9 20 (2 ^ 30 * den ^ 3) ((farrowBank r den).apply x)

/-- The slot sample at position `pos` (R118): half-band decimators, then the Farrow interpolator. -/
def resample (t : Tune) (m : Mix) (pos : Nat) : Cx :=
  let x := iter halveRate t.h ⟨m.next, m.samples⟩
  let num := pos * 2 ^ t.d
  let den := 512 * t.clock * 2 ^ t.h
  farrow (back Cx.zero x.at (num / den)) (num % den) den

/-! ## From slot samples to the back combiner (R116, R118) -/

/-- From the entry of a slot sample into echo subtraction to its place at the back combiner: 10 slot samples and 1,024 Tc (R135, R395),
less the 86 clocks from the combiner to the ball (R31, R89) (DEDUCED, log 96). -/
def Tune.lag (t : Tune) : Nat := 10 * t.step + 1024 * t.rate * t.clock / 49152 - 86 * t.clock

/-- The slot samples that a stream to the combiner keeps: for the out-resampler, and for a SAMPLES frame (R393). -/
def outDepth : Nat := 2 * (halfFir.len + (farrowBank 0 1).len) + 128

/-- A slot sample enters a stream to the combiner at position `pos`. -/
def OutPath.push (pos : Nat) (x : Cx) (o : OutPath) : OutPath := { o with pos := pos, samples := (x :: o.samples).take outDepth }

/-- 64 slot samples of silence enter a stream to the combiner. -/
def OutPath.still (t : Tune) (o : OutPath) : OutPath :=
  { o with pos := o.pos + 64 * t.step, samples := (List.replicate 64 Cx.zero ++ o.samples).take outDepth }

/-- Sample `q` at the Farrow stage's rate R_m ÷ 2^h. -/
def OutPath.farrowAt (t : Tune) (o : OutPath) (q : Nat) : Cx :=
  let den := t.step * 2 ^ t.d
  let num := o.pos * 2 ^ t.d - q * 512 * 2 ^ t.h * t.clock
  farrow (fun j => o.samples.getD (ceilDiv num den + j) Cx.zero) (ceilDiv num den * den - num) den

/-- A half-band interpolator, the mirror of `halveRate`. -/
def doubleRate (x : Track) : Track :=
  .ofFn (2 * x.next) (2 * x.samples.length) fun p => narrow 8 20 (2 ^ 29) (halfFir.apply fun j =>
    if (p - j) % 2 = 0 then back Cx.zero (fun i => x.at (i / 2)) p j else Cx.zero)

/-- The out-resampler brings the stream to R_m, and it is conjugated with SPEC_INV and shifted to FC_FOLD (R116). -/
def OutPath.upTo (t : Tune) (o : OutPath) : OutPath :=
  let last := t.mergedAt o.pos
  let y := iter doubleRate t.h (.ofFn (last / 2 ^ t.h + 1) ((last + 1 - o.mix.next) / 2 ^ t.h + halfFir.len + 2) (o.farrowAt t))
  { o with mix := o.mix.run t.word (fun p phase =>
      let y := y.at p
      narrow 7 20 (2 ^ 30) ((if t.inv then y.conj else y).mul (turn phase))) last }

/-- Sample `m` of sub-band `s` of a merged stream, Q0.17 (R116, R117). -/
def splitBand (t : Tune) (x : Mix) (s m : Nat) : Cx :=
  narrow 6 18 (2 ^ 62) ((splitBank t.n t.d s).apply fun j =>
    let y := back Cx.zero (histAt Cx.zero x.next x.samples) (2 ^ t.d * m) j
    if y = Cx.zero then Cx.zero else y.mul (centreTurn t s (2 ^ t.d * m - j)).conj)

/-- Place of sub-band `k` of transmit lane `i` at sub-band time `m` in the back combiner. -/
def combKey (i k m : Nat) : Nat := (16 * m + i) * 512 + k

/-- The back combiner adds a contribution (R116). -/
def Chip.combAdd (c : Chip) (key : Nat) (x : Cx) : Chip :=
  { c with comb := SMap.put Cx.zero c.comb key ((SMap.get Cx.zero c.comb key).add x) }

/-- A stream to the combiner goes on by what its slot samples allow; its new sub-band samples join those of lane `i`. -/
def Chip.contribute (c : Chip) (t : Tune) (i : Nat) (o : OutPath) : Chip × OutPath :=
  let o' := o.upTo t
  let lo := ceilDiv o.mix.next (2 ^ t.d)
  let ms := (List.range (ceilDiv o'.mix.next (2 ^ t.d) - lo)).map (lo + ·)
  (c.forEach ms fun m c => c.forEach (List.range t.n) fun s c => c.combAdd (combKey i (t.first + s) m) (splitBand t o'.mix s m), o')

/-! ## The DACs, and the samples that come and go (R22, R31, R32, R90, R116) -/

/-- The sample that leaves the back combiner on transmit lane `i` in clock `a`: 16 bits, saturating at full scale (R116). -/
def Chip.combined (c : Chip) (i a : Nat) : Int :=
  satS 16 (rndOpen 10 (c.comb.foldl (fun s p =>
    let m := p.1 / 8192
    let k := p.1 % 512
    if p.1 / 512 % 16 = i && decide (512 * m ≤ a) && decide (a < 512 * m + synthBank.len) then
      s + (((synthBank.tap (a - 512 * m)).mul (turn (k * (a - 512 * m) * 2 ^ 22 : Nat))).mul p.2).re * halfTurn k m
    else s) 0) (2 ^ 61))

/-- The clocks that the lanes' histories reach back: a slot sample of the narrowest slot, and the filters. -/
def laneDepth : Nat := 8192 + analysisBank.len + 512 * max 40 Config.mergeTaps

/-- A sample flit from the die fails its CRC (R32): it is counted, and adaptation stops for this tempo and the next. -/
def Chip.sampleFlitFail (c : Chip) (d : Nat) (toBoard : Bool) (l : Nat) : Chip :=
  ((c.faultPulse { src := 404 + d, cause := 1 }).flitSeen d (if toBoard then l else 8 + l) true).when toBoard fun c =>
    c.suspend (8 * d + l) (c.air.tempi + 1)

/-- The samples of one receive lane (die × 8 + lane) out of its flits: zero for a flit that fails, and for a lane that gives none. -/
def Chip.laneSamples (c : Chip) (i : Nat) (flits : List Nat) : List Int :=
  List.replicate (8 * SMap.get 0 c.rxLost i) 0 ++
    flits.flatMap fun f => if flitGood f && !c.rxZero i then flitSamples f else List.replicate 8 0

/-- A bridge on one of whose lanes 4 of 16 flits have failed goes down (R34). -/
def Chip.crcDown (c : Chip) : Chip :=
  c.forEach [0, 1] fun d c => c.when (decide ((c.br d).st = 2) && (c.br d).crcLoss) fun c => c.bridgeDown d (some 1)

/-- The flits of the lanes of both bridges, those toward the die whole unless the die found them failed, in the order in which they
come (R32, R34) (DESIGN CHOICE, log 20). -/
def Chip.laneFlits (c : Chip) (flits : List (List Nat)) (n : Nat) : Chip :=
  c.forEach ((List.range 16).filter fun i => (c.br (i / 8)).st = 2) fun i c =>
    let c := (flits.getD i []).foldl (fun c f =>
      if flitGood f then c.flitSeen (i / 8) (i % 8) false else c.sampleFlitFail (i / 8) true (i % 8)) c
    c.forEach (List.range (n / 8 - SMap.get 0 c.rxLost (16 + i))) fun _ c => c.flitSeen (i / 8) (8 + i % 8) false

/-- What comes on the sixteen receive lanes, and in the same clocks leaves on the transmit lanes (DESIGN CHOICE, log 20). -/
def Chip.laneFlow (c : Chip) (flits : List (List Nat)) : Chip :=
  let c := c.crcDown
  let rx := (List.range 16).map fun i => c.laneSamples i (flits.getD i [])
  let n := rx.foldl (fun a l => max a l.length) 0
  let tx := (List.range 16).map fun i => (List.range n).map fun a => c.combined i (c.smp + a)
  let put := fun (m : SMap (List Int)) (l : List (List Int)) => (List.range 16).foldl (fun m i =>
    let x := l.getD i []
    SMap.put [] m i (((List.replicate (n - x.length) 0 ++ x.reverse) ++ SMap.get [] m i).take laneDepth)) m
  let flit := fun (i : Nat) => sampleFlit (if c.dacZero i then [] else ((tx.getD i []).drop (n - 8)))
  let c := c.laneFlits flits n
  Chip.crcDown { c with
      smp := c.smp + n
      adc := put c.adc rx
      dac := put c.dac tx
      rxLost := []
      dacFlit := if n = 0 then c.dacFlit else (List.range 16).foldl (fun m i => SMap.put 0 m i (flit i)) c.dacFlit
      comb := c.comb.filter fun p => decide (c.smp + n < 512 * (p.1 / 8192) + synthBank.len) }

/-- SAMPLE_FLIT_CRC_FAIL (R32): counted; its eight samples are zero, and on a receive lane adaptation stops for this tempo and the
next. -/
def execSampleFlitCrcFail (die : Fin 2) (toBoard : Bool) (lane : Fin 8) (s : State) : Host.Outcome State Fault Refusal :=
  s.onChip fun c =>
    if (c.br die).st ≠ 2 then c else
    let i := 8 * die.val + lane
    let c := c.sampleFlitFail die toBoard lane
    if toBoard then { c with rxLost := SMap.put 0 c.rxLost i (SMap.get 0 c.rxLost i + 1) }
    else { c with dacFlit := SMap.put 0 c.dacFlit i (sampleFlit []), rxLost := SMap.put 0 c.rxLost (16 + i) (SMap.get 0 c.rxLost (16 + i) + 1) }

/-- The samples of receive lane `i`, and of transmit lane `i` at the back combiner (R22). -/
def Chip.rxWide (c : Chip) (i : Nat) : Wide := ⟨c.smp, SMap.get [] c.adc i⟩
@[inherit_doc Chip.rxWide] def Chip.txWide (c : Chip) (i : Nat) : Wide := ⟨c.smp, SMap.get [] c.dac i⟩

/-- The streams of square `n` start at entry to FILLING (R130): at the present clock, with nothing in their delay lines; the phases go on. -/
def Chip.startStreams (c : Chip) (n : Nat) : Chip :=
  let t := c.rxTune n
  let u := c.txTune n
  let pos := c.smp * t.clock
  let fresh := fun (v : Tune) (at0 : Nat) (m : SMap Mix) => (List.range 8).map fun k =>
    (k, ({ next := v.mergedAt at0 + 1, phase := (SMap.get {} m k).phase } : Mix))
  c.setSq n fun q => { q with
    pos := pos
    blk := []
    blkCnt := 0
    inMix := fresh t pos q.inMix
    refMix := fresh u pos q.refMix
    out := (List.range 8).map fun k =>
      (k, ({ pos := pos + t.lag, mix := { next := u.mergedAt (pos + t.lag) + 1, phase := (SMap.get {} q.out k).mix.phase } } : OutPath)) }

end Sys2Proof.Machine
end

