-- ==== Sys2Proof/Machine/Mute.lean ====
section
/-!
DEFINITION. The states of a square (R129, R130, R132): entry to OFF, to MUTED and to a ramp, and the end of a ramp.
-/

namespace Sys2Proof.Machine

/-- Detector registers of a stream return to "no sample". -/
def Chip.darkDet (c : Chip) (n k : Nat) : Chip :=
  (((c.wr (F.SQ_CDET_CIN n k) 0x8000).wr (F.SQ_CDET_COUT n k) 0x8000).wr (F.SQ_FDET_FIN n k) 0x8000).wr (F.SQ_FDET_FOUT n k) 0x8000

/-- Silence goes into the streams of square `n` to the back combiner. -/
def Chip.silence (c : Chip) (n : Nat) : Chip :=
  let t := c.txTune n
  ((c.lanes n).filter fun r => c.dest n r = 1).foldl (fun c r =>
    let o := SMap.get {} (c.sq n).out r
    let x := c.contribute t (txChain n r) (o.still t)
    x.1.setSq n fun q => { q with out := SMap.put {} q.out r x.2 }) c

/-- The samples at or after the gain stage go on to the back combiner when a square enters OFF, and nothing follows them (R132): the
out-resampler brings forth what it holds, for the times at which it leaves. -/
def Chip.drain (c : Chip) (n : Nat) : Chip := c.forEach (List.range (outDepth / 64 + 1)) fun _ c => c.silence n

/-- Entry to OFF (R130, R132, R153, R168): what has passed the gain stage goes on, delay lines and detectors are cleared, the estimate is no
longer valid, and the rest is kept. -/
def Chip.enterOff (c : Chip) (n : Nat) : Chip :=
  let c := (c.drain n).when (c.sqState n = 4 && (c.sq n).byMute) fun c => c.raise (F.SQ_INT_STATUS_MUTED n)
  let c := ((c.wr (F.SQ_STATUS_STATE n) 0).wr (F.SQ_EC_STATUS_EST_VALID n) 0).wr (F.SQ_EC_STATUS_ADAPTING n) 0
  let c := ((c.wr (F.SQ_EC_MARGIN_I_EFF n) 0x8000).wr (F.SQ_EC_MARGIN_MARGIN n) 0x8000).forEach (List.range 8) fun k c => c.darkDet n k
  let c := (((c.wr (F.SQ_DET_SUM_CIN n) 0x8000).wr (F.SQ_DET_SUM_COUT n) 0x8000).wr (F.SQ_DET_SUM_FIN n) 0x8000).wr
    (F.SQ_DET_SUM_FOUT n) 0x8000
  c.setSq n fun q => { q with
    inMix := q.inMix.map fun p => (p.1, { p.2 with samples := [] }), refMix := q.refMix.map fun p => (p.1, { p.2 with samples := [] })
    firHist := [], refHist := [], det := [], blk := [], blkCnt := 0, ramp := 0, cinMax := none, cinSum := {}, cinCnt := 0, resE := 0, resY := 0,
    onAll := false, goodSteps := 0, iEff := none, oscRun := [], gPrev := none, mOn := false }

/-- Entry to MUTED (R130). -/
def Chip.enterMuted (c : Chip) (n : Nat) : Chip :=
  ((c.wr (F.SQ_STATUS_STATE n) 5).raise (F.SQ_INT_STATUS_MUTED n)).setSq n fun q => { q with ramp := 0, onAll := false }

/-- Entry to RAMP_UP (R129, R130). -/
def Chip.enterRampUp (c : Chip) (n : Nat) : Chip :=
  (c.wr (F.SQ_STATUS_STATE n) 2).setSq n fun q => { q with ramp := 0, onAll := false }

/-- The end of a mute or unmute ramp, once its slot samples have passed (R129, R130). -/
def Chip.rampEnd (c : Chip) (n : Nat) : Chip :=
  if c.sqState n = 2 ∧ c.rampN n ≤ (c.sq n).ramp then
    ((c.wr (F.SQ_STATUS_STATE n) 3).raise (F.SQ_INT_STATUS_ON n)).setSq n fun q => { q with ramp := c.rampN n }
  else if c.sqState n = 4 ∧ (c.sq n).ramp = 0 then
    if c.on (F.SQ_CTRL_ENABLE n) then c.enterMuted n else c.enterOff n
  else c

@[inherit_doc Chip.rampEnd]
def execRampEnd (sq : Fin 128) (s : State) : Host.Outcome State Fault Refusal := s.onChip fun c => c.rampEnd sq

end Sys2Proof.Machine
end

