-- ==== Sys2Proof/Machine/Datapath.lean ====
section
/-!
DEFINITION. The datapath of a square over one coarse block (R112–R128, R133, R140–R146, R151, R158): resampling, echo subtraction,
band FIR, gain and ramp, the way back to the combiner, detectors, adaptation, and the oscillation detector (R185, R186). A block's
results are there when the block ends.
-/

namespace Sys2Proof.Machine

/-! ## What holds for a whole block -/

/-- The DL square that holds the direction of the pair of `n`. -/
def Chip.pairDl (c : Chip) (n : Nat) : Nat := if isUl n then c.rd (F.SQ_ID_PAIR_SQ n) else n

/-- Whether the half `n` passes (R133). -/
def Chip.passes' (c : Chip) (n : Nat) : Bool :=
  !c.on (F.SQ_ID_PAIRED n) || decide ((c.sq (c.pairDl n)).dir = if isUl n then 2 else 1)

/-- Whether the running tempo lies inside a passing interval so far (R160). -/
def Chip.wholePass (c : Chip) (n : Nat) : Bool :=
  !c.on (F.SQ_ID_PAIRED n) || (c.passes' n && decide ((c.sq (c.pairDl n)).dirAt ≤ c.air.tempi))

/-- Whether stream `k` is absent: a receive blank, or the gate (R123). -/
def Chip.absent (c : Chip) (n k : Nat) : Bool := !c.passes' n || c.rxBlank (rxChain n k)

/-- The bulk delay of path `p` (R143). -/
def Chip.delay (c : Chip) (n p : Nat) : Nat :=
  match p % 4 with
  | 0 => c.rd (F.SQ_EC_DELAY_DLY0 n (p / 4))
  | 1 => c.rd (F.SQ_EC_DELAY_DLY1 n (p / 4))
  | 2 => c.rd (F.SQ_EC_DELAY_DLY2 n (p / 4))
  | _ => c.rd (F.SQ_EC_DELAY_DLY3 n (p / 4))

/-- The present paths into lane `r`: path number, transmit lane, bulk delay. -/
def Chip.pathsInto (c : Chip) (n r : Nat) : List (Nat × Nat × Nat) :=
  ((List.range 8).filter fun t => c.pathOn n r t).map fun t => (8 * r + t, t, c.delay n (8 * r + t))

/-- The mean P_r of the previous tempo reaches −80 dBFS per tap (R146): 4 P_r 10^8 ≥ taps × full scale. -/
def powerOk (p : Option Frac) (taps : Nat) : Bool :=
  match p with
  | none => false
  | some f => decide ((taps * 2 ^ 36 * f.den : Nat) ≤ f.num * 10 ^ 8)

/-- Whether the paths into lane `r` adapt (R146). -/
def Chip.adapts (c : Chip) (n r : Nat) : Bool :=
  let ps := c.pathsInto n r
  c.on (F.SQ_EC_CTRL_EC_EN n) && c.on (F.SQ_EC_CTRL_ADAPT_EN n) && (decide (c.sqState n = 2) || decide (c.sqState n = 3)) &&
  !c.absent n r && !c.suspended (rxChain n r) && !ps.isEmpty &&
  (ps.all fun p => !c.txBlank (txChain n p.2.1) && !c.suspended (16 + txChain n p.2.1)) &&
  c.wholePass n && powerOk (SMap.get {} (c.sq n).lane r).pMean (ps.length * c.echoTaps n) &&
  !c.rdBit (F.SQ_EC_STATUS_DIVERGED n) r

/-- One receive lane of a block. -/
structure DpLane where
  r : Nat
  absent : Bool
  zero : Bool
  gated : Bool
  adapt : Bool
  paths : List (Nat × Nat × Nat)
  deriving DecidableEq, Repr

/-- What the samples of a block work with: the lanes, tap counts, the active bank, the canceller's enable and step
(μ_b × s in units of 2^-31), the state, and N of the ramp. -/
structure Dp where
  lanes : List DpLane
  fir : Nat
  echo : Nat
  bank : Nat
  ec : Bool
  mu : Nat
  state : Nat
  n : Nat
  rx : Tune
  tx : Tune
  /-- The eight receive lanes, and the eight transmit lanes at the back combiner. -/
  rxLanes : List Wide
  txLanes : List Wide

/-- The context of a block of square `n`. -/
def Chip.dp (c : Chip) (n : Nat) : Dp where
  lanes := (c.lanes n).map fun r =>
    { r := r, absent := c.absent n r, zero := c.rxZero (rxChain n r), gated := !c.passes' n, adapt := c.adapts n r,
      paths := c.pathsInto n r }
  fir := c.firTaps n
  echo := c.echoTaps n
  bank := c.rd (F.SQ_CTRL_FIR_BANK n)
  ec := c.on (F.SQ_EC_CTRL_EC_EN n)
  mu := c.muB n * c.rd (F.SQ_EC_STATUS_STEP_S n)
  state := c.sqState n
  n := c.rampN n
  rx := c.rxTune n
  tx := c.txTune n
  rxLanes := (List.range 8).map fun k => c.rxWide (rxChain n k)
  txLanes := (List.range 8).map fun t => c.txWide (txChain n t)

/-! ## One slot sample -/

/-- The delayed reference that tap `i` of a path reads (R140). -/
def refAt (q : Sq) (p : Nat × Nat × Nat) (i : Nat) : Cx := (SMap.get [] q.refHist p.2.1).getD (p.2.2 + i) Cx.zero

/-- ŷ_r in units of 2^-39 (R140). -/
def estimateAt (d : Dp) (q : Sq) (l : DpLane) : Cx :=
  let s := l.paths.foldl (fun a p => (List.range d.echo).foldl (fun a i =>
    a.add ((SMap.get Cx.zero q.ec (64 * p.1 + i)).mul (refAt q p i))) a) Cx.zero
  s.map (accum 52)

/-- P_r in units of 2^-38, in 48 bits (R141, R144). -/
def normPower (d : Dp) (q : Sq) (l : DpLane) : Nat :=
  let p := l.paths.foldl (fun a p => (List.range d.echo).foldl (fun a i => a + (refAt q p i).normSq.toNat) a) 0
  if p < 2 ^ 48 then p else (Config.overflow 48 p).toNat % 2 ^ 48

/-- The error sample, Q0.19 (R140, R141, R160). -/
def errorAt (d : Dp) (q : Sq) (l : DpLane) (y : Cx) : Cx :=
  if l.gated then Cx.zero else
  let est := if d.ec then estimateAt d q l else Cx.zero
  ((y.map (· * 2 ^ 20)).sub est).map fun i => satS 20 (rndDiv i (2 ^ 20))

/-- The NLMS update of one coefficient part (R144): μ e conj(x) / (P + δ) in Q3.20. -/
def nlmsStep (d : Dp) (p : Nat) (g : Int) : Int := rndOpen 3 (d.mu * g * 10 ^ 9) (2 ^ 11 * (p * 10 ^ 9 + d.echo * 2 ^ 36))

/-- Every tap of the paths into an adapting lane is updated, and the statistics of R151 and R158 take the sample. -/
def adaptLane (d : Dp) (l : DpLane) (y e : Cx) (q : Sq) : Sq :=
  let p := normPower d q l
  let q := l.paths.foldl (fun q h => (List.range d.echo).foldl (fun q i =>
    let x := refAt q h i
    let k := 64 * h.1 + i
    let g := e.mul x.conj
    let w := (SMap.get Cx.zero q.ec k).add (g.map (nlmsStep d p))
    let w' := w.map (satS 24)
    { q with
        ec := SMap.put Cx.zero q.ec k w'
        ecSat := if w = w' then q.ecSat else putBit q.ecSat l.r true
        corr := SMap.put Cx.zero q.corr k ((SMap.get Cx.zero q.corr k).add g)
        corrDen := SMap.put 0 q.corrDen k (SMap.get 0 q.corrDen k + x.normSq.toNat) }) q) q
  let s := SMap.get {} q.lane l.r
  { q with
      adapted := putBit q.adapted l.r true
      lane := SMap.put {} q.lane l.r { s with
        inSum := s.inSum + y.normSq.toNat
        errSum := s.errSum + e.normSq.toNat
        cnt := s.cnt + 1 } }

/-- The band FIR over the delay line, newest first (R120): 35 fraction bits to Q0.19. -/
def firAt (d : Dp) (q : Sq) (h : List Cx) : Cx :=
  if d.fir = 0 then h.getD 0 Cx.zero else
  ((List.range d.fir).foldl (fun a i => a.add ((SMap.get Cx.zero q.coef (384 * d.bank + i)).mul (h.getD i Cx.zero))) Cx.zero).map
    fun i => rndDiv i (2 ^ 16)

/-- The gain factor of stream `r` in this sample: equal steps over 16 samples (R128). -/
def gainAt (q : Sq) (r : Nat) : Nat := q.glide.factor (q.glide.age + 1) r

/-- One lane's sample through the square: what the detectors see at its two positions, how often FIR and gain stage saturated, and the
sample after resampling, after echo subtraction, after the band FIR and after the gain stage (R368). -/
structure LaneOut where
  r : Nat
  absent : Bool
  inp : Nat
  out : Nat
  firSat : Nat
  gainSat : Nat
  taps : List Cx
  deriving DecidableEq, Repr

/-- A lane processes a sample. -/
def laneSample (d : Dp) (l : DpLane) (x : Cx) (q : Sq) : Sq × LaneOut :=
  let y := if l.zero || l.gated then Cx.zero else x.map (satS 20)
  let e := errorAt d q l y
  let p := normPower d q l
  let q := if l.adapt then adaptLane d l y e q else q
  let s := SMap.get {} q.lane l.r
  let q := { q with
    lane := SMap.put {} q.lane l.r { s with pSum := s.pSum + p, pCnt := s.pCnt + 1 }
    firHist := SMap.put [] q.firHist l.r ((e :: SMap.get [] q.firHist l.r).take 384)
    resE := if l.absent then q.resE else q.resE + e.normSq.toNat
    resY := if l.absent then q.resY else q.resY + y.normSq.toNat }
  let f := firAt d q (SMap.get [] q.firHist l.r)
  let f' := f.map (satS 20)
  let k : Int := gainAt q l.r * rampFactor d.n q.ramp
  let o := f'.map fun i => rndOpen 4 (i * k) (2 ^ 33)
  let o' := o.map (satS 20)
  let q := { q with out := SMap.put {} q.out l.r ((SMap.get {} q.out l.r).push (q.pos + d.rx.lag) o') }
  (q, {
    r := l.r, taps := [y, e, f', o'], absent := l.absent, inp := y.normSq.toNat, out := o'.normSq.toNat
    firSat := b2n (decide (f ≠ f')), gainSat := b2n (decide (o ≠ o')) })

/-- The ramp and the gain transition move on by a sample. -/
def nextSample (d : Dp) (q : Sq) : Sq :=
  { q with
      glide := { q.glide with age := min 16 (q.glide.age + 1) }
      ramp := if d.state = 2 then min d.n (q.ramp + 1) else if d.state = 4 then q.ramp - 1 else if d.state = 3 then d.n else 0 }

/-- The reference of transmit lane `t` takes its next slot sample, by a resampler like the square's own (R22). -/
def refSample (d : Dp) (q : Sq) (t : Nat) : Sq :=
  let m := (SMap.get {} q.refMix t).fromLane d.tx (d.txLanes.getD t ⟨0, []⟩) q.pos
  { q with
      refMix := SMap.put {} q.refMix t m
      refHist := SMap.put [] q.refHist t ((resample d.tx m q.pos :: SMap.get [] q.refHist t).take 4159) }

/-- The next slot sample of stream `r` at the resampler output (R114, R118). -/
def streamSample (d : Dp) (q : Sq) (r : Nat) : Sq × Cx :=
  let m := (SMap.get {} q.inMix r).fromLane d.rx (d.rxLanes.getD r ⟨0, []⟩) q.pos
  ({ q with inMix := SMap.put {} q.inMix r m }, resample d.rx m q.pos)

/-- One slot sample: references first, then every processed stream. -/
def sampleStep (d : Dp) (q : Sq) : Sq × List LaneOut :=
  let q := (List.range 8).foldl (refSample d) { q with pos := q.pos + d.rx.step }
  let r := d.lanes.foldl (fun (a : Sq × List LaneOut) l =>
    let x := streamSample d a.1 l.r
    let b := laneSample d l x.2 x.1
    (b.1, a.2 ++ [b.2])) (q, [])
  (nextSample d r.1, r.2)

/-- All samples of a block. -/
def blockSteps (d : Dp) (n : Nat) (q : Sq) : Sq × List LaneOut :=
  iter (fun a => let b := sampleStep d a.1; (b.1, a.2 ++ b.2)) n (q, [])

/-! ## Detectors (R123–R125) -/

/-- P_c of R124. -/
def Chip.blockLen (c : Chip) (n : Nat) : Nat := max 1 (c.slotBw n / 250)

/-- Sum of one quantity over the samples of stream `r`. -/
def outSum (g : LaneOut → Nat) (r : Nat) (l : List LaneOut) : Nat := l.foldl (fun a o => if o.r = r then a + g o else a) 0

/-- The detectors of one stream take the slot samples that have passed: the fine ones into the running tempo, the coarse ones into the
running block; an absent stream gives them none. -/
def DpLane.detect (l : DpLane) (k : Nat) (o : List LaneOut) (q : Sq) : Sq :=
  if l.absent then q else
  let i := outSum LaneOut.inp l.r o
  let u := outSum LaneOut.out l.r o
  let t := SMap.get {} q.det l.r
  let b := SMap.get {} q.blk l.r
  { q with
    det := SMap.put {} q.det l.r { t with sumIn := t.sumIn + i, sumOut := t.sumOut + u, cnt := t.cnt + k }
    blk := SMap.put {} q.blk l.r { inp := b.inp + i, out := b.out + u, cnt := b.cnt + k } }

/-- The coarse detectors of stream `r` at the end of a block: the means over its samples that were not absent (R123, R124). -/
def Chip.coarseLane (c : Chip) (n r : Nat) : Chip :=
  let b := SMap.get {} (c.sq n).blk r
  let none' := b.cnt = 0
  let ci := if none' then none else some (Frac.mk' b.inp b.cnt)
  let co := if none' then none else some (Frac.mk' b.out b.cnt)
  let c := ((c.wr (F.SQ_CDET_CIN n r) (dbfsReg ci)).wr (F.SQ_CDET_COUT n r) (dbfsReg co)).wrB (F.SQ_CDET_ABSENT n r) none'
  (c.wrBit (F.SQ_STATUS_ABSENT n) r none').setSq n fun q => { q with
    det := SMap.put {} q.det r { SMap.get {} q.det r with cIn := ci, cOut := co } }

/-- Linear sum of the last coarse means over the present streams; none when no stream is present. -/
def aggregate (l : List (Option Frac)) : Option Frac :=
  l.foldl (fun a x => match a, x with
    | none, b => b
    | some p, none => some p
    | some p, some r => some (p.add r)) none

/-- The aggregate coarse input and output of square `n`. -/
def Chip.coarseIn (c : Chip) (n : Nat) : Option Frac := aggregate ((c.lanes n).map fun k => (SMap.get {} (c.sq n).det k).cIn)
@[inherit_doc Chip.coarseIn]
def Chip.coarseOut (c : Chip) (n : Nat) : Option Frac := aggregate ((c.lanes n).map fun k => (SMap.get {} (c.sq n).det k).cOut)

/-- The gain in force at the end of a block in 0.01 dB (R185): G, or the factor on its way to G. -/
def Chip.gainNow (c : Chip) (n : Nat) : Int :=
  let g := c.rdS (F.SQ_GAIN_NOW_G_NOW n)
  let q := c.sq n
  if 16 ≤ q.glide.age then g else
  let f := q.glide.factor q.glide.age 8
  if f = 0 then g else db100 (f * f) (2 ^ 80)

/-! ## Oscillation detector (R185, R186) -/

/-- The trigger's conditions 1 to 3 on the newest and the oldest of nine blocks. -/
def Chip.oscHit (c : Chip) (new old : OscBlk) : Bool :=
  let dOut := new.cout - old.cout
  let dIn := new.cin - old.cin
  let dG := new.gain - old.gain
  decide (6 * 256 < dOut) && decide ((c.rd F.PRT_OSC_CFG_MATCH : Int) * 256 < (dOut - dIn) * 100 - dG * 256) &&
  decide (c.rdS F.PRT_OSC_CFG_ARM_LEVEL ≤ new.cout)

/-- The oscillation mute of square `n` (R186), with the cause and DETAIL that its source reports. -/
def Chip.oscMute (c : Chip) (n cause detail : Nat) : Chip :=
  let c := c.setSq n fun q => { q with oscOn := true, oscIn := true, gDet := c.rdS (F.SQ_GAIN_NOW_G_NOW n), oscRun := [] }
  ((c.setMs .protect n).faultTimed { src := 256 + n, cause := cause, detail := detail }).prtInt 0

/-- The trigger fires on the square that leads at `n` (R186). -/
def Chip.oscTrigger (c : Chip) (n : Nat) (dOut dIn : Int) : Chip :=
  let g := c.rdS (F.SQ_GAIN_NOW_G_NOW n)
  let c := ((c.wr F.PRT_OSC_LOG_SQ n).wrS F.PRT_OSC_LOG_D_OUT dOut).wrS F.PRT_OSC_LOG_D_IN dIn
  let c := c.wrS F.PRT_OSC_LOG_G_DET g
  c.oscMute n 1 (ofS 16 g + ofS 16 (satS 16 dOut) * 2 ^ 16)

/-- An aggregate in dB as the detector takes it, Q7.8 (R185); one below −120.00 dBFS has no stated value. -/
def oscLevel (x : Option Frac) : Int := if dbfsReg x = 0x8000 then Config.oscFloor else toS 16 (dbfsReg x)

/-- The detector takes block k: nine blocks in ON with a stream present in each. -/
def Chip.oscBlock (c : Chip) (n : Nat) : Chip :=
  match c.coarseIn n with
  | none => c.setSq n fun q => { q with oscRun := [] }
  | some _ =>
    if c.sqState n ≠ 3 then c.setSq n fun q => { q with oscRun := [] } else
    let b : OscBlk := { cin := oscLevel (c.coarseIn n), cout := oscLevel (c.coarseOut n), gain := c.gainNow n }
    let run := (b :: (c.sq n).oscRun).take 9
    let c := c.setSq n fun q => { q with oscRun := run }
    match run.drop 8 with
    | [] => c
    | o :: _ => if c.oscHit b o then c.oscTrigger n (b.cout - o.cout) (b.cin - o.cin) else c

/-! ## COARSE_BLOCK -/

/-- Saturation counts of a block (SQ_SAT). -/
def Chip.satCounts (c : Chip) (n : Nat) (o : List LaneOut) : Chip :=
  let g := o.foldl (fun a x => a + x.gainSat) 0
  let f := o.foldl (fun a x => a + x.firSat) 0
  let left := (g ≠ 0 && c.rd (F.SQ_SAT_GAIN_SAT n) = 0) || (f ≠ 0 && c.rd (F.SQ_SAT_FIR_SAT n) = 0)
  ((c.inc (F.SQ_SAT_GAIN_SAT n) g).inc (F.SQ_SAT_FIR_SAT n) f).when left fun c => c.raise (F.SQ_INT_STATUS_SAT n)

/-- What the tempo keeps of a block's aggregate input (R167). -/
def Chip.tempoStats (c : Chip) (n : Nat) : Chip :=
  let i := c.coarseIn n
  c.setSq n fun q => { q with
    cinMax := match q.cinMax, i with
      | a, none => a
      | none, b => b
      | some a, some b => some (a.max b)
    cinSum := match i with
      | none => q.cinSum
      | some b => q.cinSum.add b
    cinCnt := q.cinCnt + b2n i.isSome }

/-- What the square adds to the back combiner: every lane whose DEST is 1 and whose stream is processed (R116, R119). -/
def Chip.combineSq (c : Chip) (n : Nat) (d : Dp) : Chip :=
  (d.lanes.filter fun l => c.dest n l.r = 1).foldl (fun c l =>
    let x := c.contribute d.tx (txChain n l.r) (SMap.get {} (c.sq n).out l.r)
    x.1.setSq n fun q => { q with out := SMap.put {} q.out l.r x.2 }) c

/-- What stream `r` shows at tap `src` in the samples that have passed, none while it is absent or gated (R368). -/
def tapSamples (l : List LaneOut) (src r : Nat) : List (Option Cx) :=
  (l.filter fun o => o.r = r).map fun o => if o.absent then none else some (o.taps.getD src Cx.zero)

/-- Whether square `n` processes samples. -/
def Chip.processes (c : Chip) (n : Nat) : Bool := c.acts n && decide (c.sqState n ≠ 0)

/-- Engine `e` takes what its source brings where no square processes it: the raw lane of its snapshot, and the zero samples of a square
that is OFF (R123, R368, R376) (DESIGN CHOICE, log 97). -/
def Chip.capIdle (c : Chip) (e : Nat) : Chip :=
  match (c.eng e).cur with
  | none => c
  | some r =>
    match r.desc with
    | none => c
    | some d =>
      if d.src = 4 then
        if c.rd (F.CAP_ENG_STATE e) ≠ 3 then c else
        let r := r.fill c.atOff c.smp (SMap.get [] c.adc d.unit)
        (c.setEng e fun x => { x with cur := some r }).showBuf e (2 * r.filled)
      else if c.processes d.unit ∨ !r.taking then c
      else
        let k := (c.smp * r.clock - r.pos) / r.step
        c.capTake e d.unit k (r.pos + k * r.step) fun _ s => List.replicate k (if c.absent d.unit s then none else some Cx.zero)


/-- The next `k` slot samples of square `n` pass, with the bank, gate, gain and state that hold now (R122, R123, R128, R133) (DESIGN CHOICE, log 20). -/
def Chip.pass (c : Chip) (n k : Nat) : Chip :=
  if k = 0 then c else
  let d := c.dp n
  let b := blockSteps d k (c.sq n)
  let tx := d.lanes.any fun l => l.absent && decide (c.dest n l.r ≠ 0)
  let q := d.lanes.foldl (fun q l => l.detect k b.2 q) b.1
  let c := c.setSq n fun _ => { q with blkCnt := q.blkCnt + k, txAll := q.txAll && !tx }
  let c := c.forEach (List.range 16) fun e c => c.capTake e n k q.pos (tapSamples b.2)
  let c := (c.satCounts n b.2).combineSq n d
  let c := c.forEach (d.lanes.filterMap fun l => if l.adapt then some l.r else none) fun r c => c.wrBit (F.SQ_EC_STATUS_ADAPTING n) r true
  c.diverge n ((List.range 8).filter fun r => bit b.1.ecSat r)

/-- The slot samples of square `n` whose time has come, up to the end of its running block. -/
def Chip.arrived (c : Chip) (n : Nat) : Nat :=
  let t := c.rxTune n
  min (c.blockLen n - (c.sq n).blkCnt) ((c.smp * t.clock - (c.sq n).pos) / t.step)

/-- Square `n` processes what has come for it. -/
def Chip.keepUp (c : Chip) (n : Nat) : Chip := if c.processes n then c.pass n (c.arrived n) else c

/-- The other squares process what has come: a sample passes a square when its lanes bring it, whichever block the square is in. -/
def Chip.othersKeepUp (c : Chip) (n : Nat) : Chip := c.forEach (allSquares.filter (· ≠ n)) fun m c => c.keepUp m

/-- The running block of square `n` ends: its coarse samples are there, and the oscillation detector takes them (R124, R185). -/
def Chip.blockEnd (c : Chip) (n : Nat) : Chip :=
  let c := c.forEach (c.lanes n) fun r c => c.coarseLane n r
  let c := (c.wr (F.SQ_DET_SUM_CIN n) (dbfsReg (c.coarseIn n))).wr (F.SQ_DET_SUM_COUT n) (dbfsReg (c.coarseOut n))
  ((c.setSq n fun q => { q with blk := [], blkCnt := 0 }).tempoStats n).oscBlock n

/-- The block of square `n` completes (R124): what it still lacks passes, and it ends. -/
def Chip.squareBlock (c : Chip) (n : Nat) : Chip :=
  if c.processes n then (c.pass n (c.blockLen n - (c.sq n).blkCnt)).blockEnd n else c

/-- COARSE_BLOCK (R124): a block of square `sq` completes; with it come the sample flits that the donor lanes and the service lanes have
brought since the block before, of whichever square, by lane (R31), and every square processes what has come for it, before anything
that comes later acts on it (DESIGN CHOICE, log 20). -/
def execCoarseBlock (sq : Fin 128) (donor service : List (List Nat)) (s : State) : Host.Outcome State Fault Refusal :=
  s.onChip fun c => (c.laneFlow ((List.range 16).map fun i => (if i < 8 then donor else service).getD (i % 8) [])).othersKeepUp sq |>.squareBlock sq |>.forEach (List.range 16) fun e c => c.capIdle e

/-- DIR_FIRE (R77, R133, R160): the pair passes the new direction. -/
def execDirFire (s : State) : Host.Outcome State Fault Refusal :=
  s.onChip fun c => c.fire 2 fun o c => c.setSq o.target fun q => { q with dir := o.arg, dirAt := c.ceilTempo }

end Sys2Proof.Machine
end

