-- ==== Sys2Proof/Machine/Link.lean ====
section
/-!
DEFINITION. Frames that the package puts on its Chain Link ports (R386, R388, R390, R391, R198, R399): the queues that
stops and forwarded commands enter.
-/

namespace Sys2Proof.Machine

/-- Whether port `p` is UP (R387). -/
def Chip.chlUp (c : Chip) (p : Nat) : Bool := c.rd (F.CHL_STATUS_STATE p) = 2

/-- A STOP frame enters the queue of port `p`; a port that is not UP sends it from the next UP (R391, R399). -/
def Chip.queueStop (c : Chip) (p : Nat) (blocks : List Nat) : Chip :=
  c.setPort p fun x => { x with stopQ := x.stopQ ++ [{ cls := 0, blocks := blocks }] }

/-- A CONTROL frame enters the queue of port `p`. -/
def Chip.queueCtl (c : Chip) (p kind : Nat) (slot : Option Nat) (blocks : List Nat) : Chip :=
  c.setPort p fun x => { x with ctlQ := x.ctlQ ++ [{ cls := 1, kind := kind, slot := slot, blocks := blocks }] }

/-- The ports but one: a frame never goes back where it arrived (R198). -/
def otherPorts (from0 : Option Nat) : List Nat := [0, 1].filter fun p => some p ≠ from0

/-- The blocks of a STOP frame (R386): KIND 1 = RESIGN, 2 = PIN. -/
def stopBlocks (kind func counter dev : Nat) (hash : List Nat) : List Nat :=
  [kind + func * 2 ^ 8, counter, dev] ++ (List.range 4).map fun j => hash.getD j 0

/-- A STOP frame leaves from every port but the one it arrived on. -/
def Chip.sendStop (c : Chip) (from0 : Option Nat) (kind func counter dev : Nat) (hash : List Nat) : Chip :=
  c.forEach (otherPorts from0) fun p c => c.queueStop p (stopBlocks kind func counter dev hash)

/-- A RESUME message leaves as a CONTROL frame of kind 1 from every port but the one it arrived on (R198, R386). -/
def Chip.sendResume (c : Chip) (from0 : Option Nat) (words : List Nat) : Chip :=
  c.forEach (otherPorts from0) fun p c => c.queueCtl p 1 none words

end Sys2Proof.Machine
end

