-- ==== Sys2Proof/Machine/Rank.lean ====
section
/-!
DEFINITION. The rank co-processor (R25, R164–R183): the control step, its measurements, the cycle cost and the deadline,
the outer loop, rank faults and the matrix windows.
-/

namespace Sys2Proof.Machine

/-! ## Formats (R165, R166) -/

/-- A value in 0.01 dB as Q2.29 (R166), and whether it saturated (R165). -/
def q29 (v : Int) : Int × Bool :=
  let x := rndDiv (v * 2 ^ 29) 6400
  (satS 32 x, decide (satS 32 x ≠ x))

/-- One rounding from 58 to 29 fraction bits, saturating (R165), and whether it saturated. -/
def fin29 (acc : Int) : Int × Bool :=
  let v := rndDiv acc (2 ^ 29)
  (satS 32 v, decide (satS 32 v ≠ v))

/-- Matrix word `w` of square `s` of rank `k` in a bank, as Q2.29 (R175). -/
def Chip.matWord (c : Chip) (k s bank w : Nat) : Int := toS 32 (SMap.get 0 (c.rk k).mat ((2 * s + bank) * 172 + w))

/-- The field that holds element `i` of x̂ (RK_XHAT). -/
def xFld (k s i : Nat) : Fld := if i % 2 = 0 then F.RK_XHAT_X_LO k s (i / 2) else F.RK_XHAT_X_HI k s (i / 2)

/-- The field that holds y(j + 1). -/
def yFld (k s j : Nat) : Fld :=
  match j with
  | 0 => F.RK_Y01_Y1 k s
  | 1 => F.RK_Y01_Y2 k s
  | 2 => F.RK_Y23_Y3 k s
  | _ => F.RK_Y23_Y4 k s

/-- MEASj of a square. -/
def measFld (k s j : Nat) : Fld :=
  match j with
  | 0 => F.RK_SQCTL_MEAS0 k s
  | 1 => F.RK_SQCTL_MEAS1 k s
  | 2 => F.RK_SQCTL_MEAS2 k s
  | _ => F.RK_SQCTL_MEAS3 k s

/-- A sum of products. -/
def dot (l : List Nat) (g : Nat → Int) : Int := l.foldl (fun a j => a + g j) 0

/-! ## Loop squares and cost (R164, R172) -/

/-- Whether square `n` stands for itself and is enabled. -/
def Chip.enabled (c : Chip) (n : Nat) : Bool := c.acts n && c.on (F.SQ_CTRL_ENABLE n)

/-- A loop square (R164). -/
def Chip.isLoop (c : Chip) (n : Nat) : Bool :=
  c.enabled n && (!c.on (F.SQ_CTRL_GAIN_MODE n) || !c.on (F.SQ_EC_CTRL_STEP_MODE n))

/-- The squares of rank `k`. -/
def rankSquares (k : Nat) : List Nat := (List.range 8).map fun s => 8 * k + s

/-- The loop squares of rank `k`, ascending. -/
def Chip.loops (c : Chip) (k : Nat) : List Nat := (rankSquares k).filter fun n => c.isLoop n

/-- c_in of R172. -/
def Chip.costIn (c : Chip) (n : Nat) : Nat :=
  36 + 3 * c.rd (F.RK_SQCTL_N_STATES (n / 8) (n % 8)) + c.rd (F.RK_SQCTL_N_MEAS (n / 8) (n % 8)) +
    2 * c.rd (F.RK_SQCTL_N_OUT (n / 8) (n % 8))

/-- Set-point work and isolation estimate of square `n` in the first tempo of an outer step (R172). -/
def Chip.costOut (c : Chip) (n : Nat) : Nat :=
  (if c.isLoop n then 40 else 0) +
  (if c.enabled n && c.on (F.SQ_EC_CTRL_EC_EN n) then 108 + 12 * (c.ecRows n).length + 8 * (c.ecCols n).length else 0)

/-- PRED_INNER and PRED_OUTER of rank `k` (R172). -/
def Chip.predInner (c : Chip) (k : Nat) : Nat := (c.loops k).foldl (fun a n => a + c.costIn n) 32
@[inherit_doc Chip.predInner]
def Chip.predOuter (c : Chip) (k : Nat) : Nat := (rankSquares k).foldl (fun a n => a + c.costOut n) (c.predInner k)

/-! ## Measurements (R167, R168) -/

/-- A measurement in Q2.29, none when absent, and whether it saturated. -/
def Chip.measure (c : Chip) (n code : Nat) : Option (Int × Bool) :=
  let q := c.sq n
  let det := fun v : Nat => if v = 0x8000 then none else some (toS 16 v * 2 ^ 15, false)
  match code with
  | 1 => det (dbfsReg q.mMax)
  | 2 => det (dbfsReg q.mMean)
  | 3 => det (c.rd (F.SQ_DET_SUM_FIN n))
  | 4 => det (c.rd (F.SQ_DET_SUM_FOUT n))
  | 5 => if c.on (F.SQ_EC_STATUS_EST_VALID n) then some (q29 (q.iEff.getD 0 - q.mG)) else none
  | 6 =>
    if !c.on (F.SQ_EC_CTRL_EC_EN n) ∨ q.mY = 0 then none
    else if q.mE = 0 then some (-(2 ^ 31), false) else some (q29 (db100 q.mE q.mY))
  | _ => none

/-- The measurements of a loop square are latched at a boundary (R167, R168). -/
def Chip.latchY (c : Chip) (n : Nat) : Chip :=
  let k := n / 8
  let s := n % 8
  let p := c.rd (F.RK_SQCTL_N_MEAS k s)
  let vals := (List.range 4).map fun j =>
    (4 * s + j, if j < p && (c.sq n).mOn then c.measure n (c.rd (measFld k s j)) else none)
  c.setRk k fun r => { r with
    y := vals.foldl (fun m v => match v.2 with
      | none => SMap.erase v.1 m
      | some i => SMap.insert v.1 i.1 m) r.y
    ySat := vals.foldl (fun l v => if v.2.any (·.2) then setIns v.1 l else setDel v.1 l) r.ySat }

/-! ## Set-points and the step (R164, R165, R171, R177) -/

/-- TX_REF of square `n` in 0.01 dB (R177). -/
def Chip.txRef (c : Chip) (n : Nat) : Int :=
  let l := (List.range 8).filter fun t => c.dest n t ≠ 0
  let sum := l.foldl (fun a t => a + lin (c.rdS (F.RFC_CHAIN_TX_GAIN (txChain n t)))) 0
  if sum = 0 then Config.txRefNone else db100 sum (l.length * linScale)

/-- r1 and r2 of square `n` (R177), each with whether it saturated. -/
def Chip.setPoint (c : Chip) (n : Nat) : (Int × Bool) × (Int × Bool) :=
  let ps := c.rdS (F.RK_PSET_POWER_SET (n / 8) (n % 8))
  (if ps = -32768 then (-(2 ^ 31), false) else q29 (ps - c.rd (F.RK_OUTST_RED (n / 8) (n % 8)) - c.txRef n),
   q29 (c.rd (F.SQ_EC_MCFG_TARGET n)))

/-- x̂ as the registers hold it. -/
def Chip.xhat (c : Chip) (n i : Nat) : Int := c.rdS (xFld (n / 8) (n % 8) i)

/-- Element `i` of x̂ takes a value. -/
def Chip.setX (c : Chip) (n i : Nat) (v : Int) : Chip := c.wr (xFld (n / 8) (n % 8) i) (ofS 32 v)

/-- The law u = −K x̂ + N r on the present x̂ and r (R164); `sat`, or whether a result saturated, is reported (R165). -/
def Chip.law (c : Chip) (n : Nat) (sat : Bool) : Chip :=
  let k := n / 8
  let s := n % 8
  let m := c.matWord k s (c.rd (F.RK_SQCTL_MAT_BANK k s))
  let r := c.setPoint n
  let ns := List.range (c.rd (F.RK_SQCTL_N_STATES k s))
  let u := fun i => fin29 (-(dot ns fun j => m (144 + 8 * i + j) * c.xhat n j) + m (160 + 2 * i) * r.1.1 + m (161 + 2 * i) * r.2.1)
  let c := (c.wr (F.RK_R_R1 k s) (ofS 32 r.1.1)).wr (F.RK_R_R2 k s) (ofS 32 r.2.1)
  let c := c.wr (F.RK_U_U1 k s) (ofS 32 (u 0).1)
  let two := decide (c.rd (F.RK_SQCTL_N_OUT k s) = 2)
  let c := (c.when two fun c => c.wr (F.RK_U_U2 k s) (ofS 32 (u 1).1)).setRk k fun x => { x with
    uTwo := if two then setIns n x.uTwo else setDel n x.uTwo }
  let sat := sat || r.1.2 || r.2.2 || (u 0).2 || (two && (u 1).2)
  (c.wrB (F.RK_SQSTAT_SAT k s) sat).when sat fun c => c.raise (F.RK_INT_STATUS_SAT k)

/-- The control step of loop square `n` (R164). -/
def Chip.ctlStep (c : Chip) (n : Nat) : Chip :=
  let k := n / 8
  let s := n % 8
  let m := c.matWord k s (c.rd (F.RK_SQCTL_MAT_BANK k s))
  let ns := List.range (c.rd (F.RK_SQCTL_N_STATES k s))
  let ps := List.range (c.rd (F.RK_SQCTL_N_MEAS k s))
  let qs := List.range (c.rd (F.RK_SQCTL_N_OUT k s))
  let y := fun j => if c.on (F.RK_STATUS_FAULT k) then none else (c.rk k).y.find (4 * s + j)
  let e := fun j => match y j with
    | none => ((0 : Int), false)
    | some v => fin29 (v * 2 ^ 29 - dot ns fun i => m (80 + 8 * j + i) * c.xhat n i)
  let ga := q29 (c.rdS (F.SQ_GAIN_NOW_G_NOW n))
  let ua := fun j => if j = 0 then ga.1 else (c.rd (F.SQ_EC_STATUS_STEP_S n) : Int) * 2 ^ 14
  let x := ns.map fun i => fin29 (dot ns (fun j => m (8 * i + j) * c.xhat n j) + dot qs (fun j => m (64 + 2 * i + j) * ua j) +
    dot ps (fun j => m (112 + 4 * i + j) * (e j).1))
  let sat := ga.2 || (ps.any fun j => (e j).2 || ((y j).isSome && (c.rk k).ySat.contains (4 * s + j))) || x.any fun v => v.2
  let c := c.forEach ns fun i c => c.setX n i (x.getD i (0, false)).1
  let c := c.forEach (List.range 4) fun j c =>
    c.wr (yFld k s j) (match (if j ∈ ps then y j else none) with
      | none => 0x80000000
      | some v => ofS 32 v)
  (c.wr (F.RK_SQSTAT_Y_ABSENT k s) (ps.foldl (fun a j => if (y j).isNone then a + 2 ^ j else a) 0)).law n sat

/-- x̂ takes X0 of the active bank, within its dimension (R174–R176). -/
def Chip.initX (c : Chip) (n : Nat) : Chip :=
  let bank := c.rd (F.RK_SQCTL_MAT_BANK (n / 8) (n % 8))
  c.forEach (List.range (c.rd (F.RK_SQCTL_N_STATES (n / 8) (n % 8)))) fun i c => c.setX n i (c.matWord (n / 8) (n % 8) bank (164 + i))

/-! ## Rank faults (R25, R174) -/

/-- A rank fault is raised: causes 1 FLAGFALL run, 2 memory, 3 array; an error of a memory carries the byte address in it (R308). -/
def Chip.rankFault (c : Chip) (k cause : Nat) (addr : Option Nat := none) : Chip :=
  let c := c.setRk k fun r => { r with errNow := r.errNow || decide (cause ≠ 1) }
  if c.srcBit F.FLT_ACTIVE_ACTIVE (384 + k) then c else
  let c := c.faultTimed { src := 384 + k, cause := cause, access := if addr.isSome then 4 else 0, addr := addr }
  let c := c.setRk k fun r => { r with sevHold := false }
  let c := ((c.wr (F.RK_STATUS_FAULT k) 1).wr (F.RK_STATUS_CAUSE k) cause).raise (F.RK_INT_STATUS_RANK_FAULT k)
  c.setMsAll .rank (rankSquares k)

/-- The fault ends: x̂ from X0, the law on it, whose gain applies under R155 with G_prev = −∞, and MS_RANK clears (R174). -/
def Chip.rankRelease (c : Chip) (k : Nat) : Chip :=
  let c := ((c.wr (F.RK_STATUS_FAULT k) 0).wr (F.RK_STATUS_CAUSE k) 0).raise (F.RK_INT_STATUS_FAULT_CLR k)
  let c := c.setRk k fun r => { r with sevHold := false }
  let c := c.forEach (c.loops k) fun n c =>
    (((c.initX n).law n false).setSq n fun q => { q with bCheck := false, bMiss := false }).reenter n
  c.forEach (rankSquares k) fun n c => c.clrMs .rank n

/-- RANK_FAULT_CLEAR (R174): one recovery interval after the raise, after 8 clean tempi; SEVERE keeps FAULT (R304). -/
def execRankFaultClear (rank : Fin 16) (s : State) : Host.Outcome State Fault Refusal :=
  s.onChip fun c =>
    if c.srcBit F.FLT_ACTIVE_ACTIVE (384 + rank) ∧ c.on (F.RK_STATUS_FAULT rank) ∧ c.recovered (384 + rank) ∧ 8 ≤ (c.rk rank).clean then
      let c := c.wrSrc F.FLT_ACTIVE_ACTIVE (384 + rank) false
      if c.severe (384 + rank) then c.setRk rank fun r => { r with sevHold := true } else c.rankRelease rank
    else c

/-- ARRAY_FAULT (R174). -/
def execArrayFault (rank : Fin 16) (s : State) : Host.Outcome State Fault Refusal := s.onChip fun c => c.rankFault rank 3

/-- RK_MEMORY_ERROR (R174, R175, R308): in the co-processor's memory, at an address that the event does not tell; or in a matrix bank, a
square fault when it is the active one. -/
def execRkMemoryError (rank : Fin 16) (inMatrix : Option (Fin 8 × Fin 2 × Fin 172)) (s : State) : Host.Outcome State Fault Refusal :=
  s.onChip fun c =>
    match inMatrix with
    | none => (c.rankFault rank 2 (some c.free)).tick
    | some (i, bank, w) =>
      let key := (2 * i.val + bank) * 172 + w
      let c := c.setRk rank fun r => { r with matBad := setIns key r.matBad }
      c.when (c.rd (F.RK_SQCTL_MAT_BANK rank i) = bank) fun c => c.squareParity (8 * rank + i) 3 (some (4 * key))

/-- RK_ECC_CORRECTED (R172, R175). -/
def execRkEccCorrected (rank : Fin 16) (s : State) : Host.Outcome State Fault Refusal :=
  s.onChip fun c =>
    let left := c.rd (F.RK_ECC_CORRECTED rank) = 0
    ((c.inc (F.RK_ECC_CORRECTED rank)).when left fun c => c.raise (F.RK_INT_STATUS_ECC_CORR rank)).setRk rank
      fun r => { r with extra := r.extra + 8 }

/-! ## The tempo's work and the deadline (R169, R172, R173) -/

/-- Which items of a list of costs do not finish by the deadline: the first that overruns, and everything behind it. -/
def overruns : Nat → List (Nat × Nat) → List Nat
  | _, [] => []
  | used, (n, cost) :: l => if 3060 < used + cost then n :: l.map (·.1) else overruns (used + cost) l

/-- A set of squares of one rank as a mask over them. -/
def rankMask (l : List Nat) : Nat := (List.range 8).foldl (fun a s => if l.any (fun n => n % 8 = s) then a + 2 ^ s else a) 0

/-- The steps of the tempo, their results and flags (R169–R173): what overruns the deadline is abandoned when `judge`. -/
def Chip.rankWork (c : Chip) (k : Nat) (judge : Bool) : Chip :=
  if (c.rk k).done then c else
  let first := decide (c.rd (F.RK_STATUS_OUTER_PHASE k) = 0)
  let inner := (c.loops k).map fun n => (n, c.costIn n)
  let outer := if first then ((rankSquares k).map fun n => (n, c.costOut n)).filter fun p => p.2 ≠ 0 else []
  let start := 32 + (c.rk k).extra
  let mid := inner.foldl (fun a p => a + p.2) start
  let total := outer.foldl (fun a p => a + p.2) mid
  let missI := if judge then overruns start inner else []
  let missO := if judge then overruns (if missI = [] then mid else 3060 + 1) outer else []
  let c := c.forEach (c.loops k) fun n c => if n ∈ missI then c else c.ctlStep n
  let c := c.forEach missO fun n c => c.setSq n fun q => { q with estMiss := q.estDue.isSome, estNew := none, redNew := none }
  let c := c.wr (F.RK_FLAG_INNER k) (rankMask missI)
  let c := c.when first fun c => c.wr (F.RK_FLAG_OUTER k) (rankMask missO)
  let used := if judge then min 3060 total else total
  let c := (c.wr (F.RK_CYCLES_LAST_USED k) (satU 12 used)).wr (F.RK_CYCLES_MAX_USED k) (max (c.rd (F.RK_CYCLES_MAX_USED k)) (satU 12 used))
  let ff := missI ≠ [] || missO ≠ []
  let c := c.setRk k fun r => { r with done := true, ffNow := ff, missIn := rankMask missI }
  if ff then
    let c := (c.raise (F.RK_INT_STATUS_FLAGFALL k)).inc (F.RK_FLAG_FF_COUNT k)
    let c := c.wr (F.RK_STATUS_FF_RUN k) (min 8 (c.rd (F.RK_STATUS_FF_RUN k) + 1))
    c.when (c.rd (F.RK_STATUS_FF_RUN k) = 8) fun c => c.rankFault k 1
  else c.wr (F.RK_STATUS_FF_RUN k) 0

/-- DEADLINE (R173): 3,060 cc into the tempo. -/
def execDeadline (rank : Fin 16) (s : State) : Host.Outcome State Fault Refusal := s.onChip fun c => c.rankWork rank true

/-- The rank's tempo ends: what it has not done yet is done, the count of clean tempi goes on, and the cycle count of the
next tempo starts (R169, R172, R174). -/
def Chip.rankEnd (c : Chip) (k : Nat) : Chip :=
  let c := c.rankWork k false
  c.setRk k fun r => { r with
    done := false
    ffNow := false
    errNow := false
    extra := 0
    stepLen := r.stepLen + 1
    clean := if r.ffNow || r.errNow then 0 else min 8 (r.clean + 1) }

/-- OUTER_PHASE of the tempo that starts at the boundary, under the OUTER_K in force (R177). -/
def Chip.rankPhase (c : Chip) (k : Nat) : Chip :=
  c.wr (F.RK_STATUS_OUTER_PHASE k) (if c.tempoNum % 2 ^ c.rd (F.RK_CFG_OUTER_K k) = 0 then 0 else min 255 ((c.rk k).phaseB + 1))

/-- The rank's next tempo starts. -/
def Chip.rankStart (c : Chip) (k : Nat) : Chip :=
  (c.setRk k fun r => { r with phaseB := c.rd (F.RK_STATUS_OUTER_PHASE k) }).rankPhase k

/-! ## The outer loop (R177–R180) -/

/-- P_out of the tempo that ended, 0.01 dBm (R179). -/
def Chip.pOut (c : Chip) (n : Nat) : Option Int :=
  let l := (c.lanes n).filter fun t => c.dest n t ≠ 0
  if l.any (fun t => c.rd (F.SQ_FDET_FOUT n t) = 0x8000) ∨ !(c.sq n).txAll then none else
  unlin (l.foldl (fun a t =>
    let y := (SMap.get {} (c.sq n).det t).yOut
    a + y.num.toNat * lin (c.rdS (F.RFC_CHAIN_TX_GAIN (txChain n t))) / (y.den * 2 ^ 36)) 0)

/-- What a boundary adds to the noise-rise test of a UL loop square (R179). -/
def Chip.noiseTempo (c : Chip) (n : Nat) : Chip :=
  if !isUl n || !c.isLoop n then c else
  let k := n / 8
  match c.pOut n with
    | none => c
    | some p =>
      (c.wrS (F.RK_OUTST_P_OUT k (n % 8)) p).setRk k fun r => { r with
        nCur := SMap.insert (n % 8) (min p ((r.nCur.find (n % 8)).getD p)) r.nCur }

/-- The UL squares whose G_NOW stands above G_MIN at a boundary, whether they are loop squares at it or not (R180). -/
def Chip.gainsHigh (c : Chip) : Chip :=
  c.forEach (allSquares.filter fun n => isUl n && decide (c.rdS (F.SQ_GAIN_G_MIN n) < c.rdS (F.SQ_GAIN_NOW_G_NOW n))) fun n c =>
    c.setRk (n / 8) fun r => { r with gHigh := setIns (n % 8) r.gHigh }

/-- The uplink noise-rise mute is raised, unless it stands already (R188). -/
def Chip.noiseRaise (c : Chip) : Chip :=
  if c.on F.PRT_STATUS_DIR_NR then c else
  (((c.wr F.PRT_STATUS_DIR_NR 1).setPrt fun x => { x with nrAt := c.ceilTempo }).refreshDir).prtInt 1

/-- The noise contribution and the exhaustion test of a UL square at the end of an outer step (R179, R180). A step in which it is no
loop square has no power, and is not exhausted. -/
def Chip.noiseStep (c : Chip) (n : Nat) : Chip :=
  if !isUl n then c else
  let k := n / 8
  let s := n % 8
  let loop := c.isLoop n
  let hist := ((if loop then (c.rk k).nCur.find s else none) :: SMap.get [] (c.rk k).nHist s).take 15
  let low := loop && !(c.rk k).gHigh.contains s
  let c := c.setRk k fun r => { r with
    nHist := SMap.put [] r.nHist s hist, nCur := SMap.erase s r.nCur, gHigh := setDel s r.gHigh }
  let seen := (hist.take (c.rd (F.RK_CFG_NR_WIN k))).filterMap id
  let nrc := match seen with
    | [] => none
    | p :: l => some (max (-32767) (satS 16 (l.foldl min p - c.rd (F.RK_NR_PATH_LOSS k s))))
  let c := c.when loop fun c => c.wr (F.RK_OUTST_NRC k s) (match nrc with
    | none => 0x8000
    | some v => ofS 16 v)
  let lim := c.rdS (F.RK_NR_NR_LIMIT k s)
  let exh := low && decide (lim ≠ -32768) && (match nrc with
    | none => false
    | some v => decide (lim < v))
  if exh then
    let c := c.inc (F.RK_OUTST_EXH_RUN k s)
    if c.rd (F.RK_CFG_NR_EXH k) ≤ c.rd (F.RK_OUTST_EXH_RUN k s) ∧ !c.on (F.RK_OUTST_NR_EXHAUSTED k s) then
      ((c.wr (F.RK_OUTST_NR_EXHAUSTED k s) 1).raise (F.RK_INT_STATUS_NR_EXH k)).noiseRaise
    else c
  else (c.wr (F.RK_OUTST_EXH_RUN k s) 0).wr (F.RK_OUTST_NR_EXHAUSTED k s) 0

/-- The sums that apply to square `n`, each with its limit (R178): a sum of 0x8000 is no power; a limit of 0x8000 mutes and
takes no part. A tenant's quota of 0x7FFF is no limit (R361). -/
def Chip.excesses (c : Chip) (n : Nat) : List (Int × Int) :=
  let w := n / 32
  let f := c.owner n
  let pkg := if isUl n then (c.rdS F.WG_PKG_MEAS_DONOR_SUM, c.rdS F.WG_PKG_LIMIT_DONOR_LIMIT)
    else (c.rdS F.WG_PKG_MEAS_SERVICE_SUM, c.rdS F.WG_PKG_LIMIT_SERVICE_LIMIT)
  let quota := if f = 0 then [] else
    [if isUl n then (c.rdS (F.TEN_MEAS_DONOR_SUM f), toS 16 (c.ten? (F.TEN_QUOTA_PWR_DONOR f)))
     else (c.rdS (F.TEN_MEAS_SERVICE_SUM f), toS 16 (c.ten? (F.TEN_QUOTA_PWR_SERVICE f)))].filter fun p => p.2 ≠ 32767
  let nr := if isUl n then [(c.rdS (F.RK_OUTST_NRC (n / 8) (n % 8)), c.rdS (F.RK_NR_NR_LIMIT (n / 8) (n % 8)))] else []
  ([(c.rdS (F.WG_MEAS_TX_SUM w), c.effLimit w), pkg] ++ quota ++ nr).filter fun p => p.2 ≠ -32768

/-- RED after the outer step (R178). -/
def Chip.newRed (c : Chip) (n : Nat) : Nat :=
  let l := c.excesses n
  let red := c.rd (F.RK_OUTST_RED (n / 8) (n % 8))
  let e := l.foldl (fun a p => if p.1 = -32768 then a else max a (p.1 - p.2)) 0
  if 0 < e then min (red + e.toNat) 20000
  else if l.all (fun p => decide (p.1 = -32768) || decide (p.1 + 100 ≤ p.2)) then red - c.rd (F.RK_CFG_RELAX (n / 8))
  else red

/-- What the publication brings: EST_VALID is not raised by a step in which a lane diverges, `whole` (R152, R153). -/
def Chip.takeEst (c : Chip) (n : Nat) (whole : Bool) : Chip :=
  let q := c.sq n
  let c := c.setSq n fun q => { q with estDue := none, estNew := none, estMiss := false }
  match q.estNew with
  | none =>
    let c := c.inc (F.SQ_EC_STATUS_AGE n)
    if q.estMiss then
      let c := c.setSq n fun q => { q with staleSteps := q.staleSteps + 1 }
      c.when (4 ≤ (c.sq n).staleSteps && c.on (F.SQ_EC_STATUS_EST_VALID n)) fun c => (c.dropEst n).raise (F.SQ_EC_INT_STATUS_STALE n)
    else c.setSq n fun q => { q with staleSteps := 0 }
  | some e =>
    let c := c.setSq n fun q => { q with iEff := some e.iEff, iPhys := some e.iPhys, staleSteps := 0 }
    let c := ((c.wr (F.SQ_EC_STATUS_AGE n) 0).wrS (F.SQ_EC_MARGIN_I_PHYS n) e.iPhys).reportPaths n e.paths
    let c := c.when (2 ≤ q.goodSteps && whole && !c.on (F.SQ_EC_STATUS_EST_VALID n)) fun c =>
      (c.wr (F.SQ_EC_STATUS_EST_VALID n) 1).raise (F.SQ_EC_INT_STATUS_VALID n)
    c.when (c.on (F.SQ_EC_STATUS_EST_VALID n)) fun c => c.wrS (F.SQ_EC_MARGIN_I_EFF n) e.iEff

/-- The publication of the isolation estimate at the end of the first tempo of an outer step (R152, R153), with the lanes that diverge
by it, unless the deadline dropped it (R158, R173). A floor that the estimate meets comes before them (R159). -/
def Chip.publish (c : Chip) (n : Nat) : Chip :=
  let lanes := if (c.sq n).estMiss then [] else c.lanes n
  let rs := lanes.filter fun r => 2 ≤ c.stepsAbove n r && !c.rdBit (F.SQ_EC_STATUS_DIVERGED n) r
  let c := (((c.forEach lanes fun r c => c.laneStep n r).takeEst n rs.isEmpty).when (c.enabled n) fun c => c.settle n)
  let c := if rs.isEmpty then c else (((c.when (c.enabled n) fun c => c.floorTest n).diverge n rs).when (c.enabled n) fun c => c.settle n)
  (c.when (c.enabled n) fun c => c.assessOr n).when (c.isLoop n) fun c => c.latchY n

/-- The start of an outer step (R177–R180): what the step that ended gives. -/
def Chip.outerStep (c : Chip) (k : Nat) : Chip :=
  let len := (c.rk k).stepLen
  let t := c.air.tempi
  let c := c.forEach ((rankSquares k).filter c.estAt) fun n c => c.publish n
  let c := c.setRk k fun r => { r with outerAt := some t, stepLen := 0 }
  let c := c.wr (F.RK_STATUS_OUTER_STEPS k) (c.rd (F.RK_STATUS_OUTER_STEPS k) + 1)
  let c := c.forEach ((rankSquares k).filter c.acts) fun n c =>
    if c.enabled n && c.on (F.SQ_EC_CTRL_EC_EN n) then c.estimate n len else c.noEstimate n
  let c := c.forEach (rankSquares k) fun n c => c.noiseStep n
  c.forEach (c.loops k) fun n c => c.setSq n fun q => { q with redNew := some (c.newRed n) }

/-- OUTER_STEP (R177): at the boundary that starts its first tempo. -/
def execOuterStep (rank : Fin 16) (s : State) : Host.Outcome State Fault Refusal :=
  s.onChip fun c =>
    if c.air.onB ∧ c.rd (F.RK_STATUS_OUTER_PHASE rank) = 0 ∧ (c.rk rank).outerAt ≠ some c.air.tempi then c.outerStep rank else c

/-- RED takes what the outer work computed, from the end of the first tempo (R169, R178). -/
def Chip.takeRed (c : Chip) (n : Nat) : Chip :=
  match (c.sq n).redNew with
  | none => c
  | some v => (c.wr (F.RK_OUTST_RED (n / 8) (n % 8)) v).setSq n fun q => { q with redNew := none }

/-- ESTIMATE_PUBLISH (R152): the estimate is in force from the boundary, for its gain, margin and measurements too. -/
def execEstimatePublish (sq : Fin 128) (s : State) : Host.Outcome State Fault Refusal :=
  s.onChip fun c => if c.estAt sq then c.publish sq else c

/-! ## Matrix windows (R175, R182) -/

/-- A write to RK_MAT: word by word into the inactive bank. -/
def Chip.matWrite (c : Chip) (k s w2 : Nat) (h : Half) (v : Nat) : Chip :=
  if c.locked (8 * k + s) (F.RK_SQCTL_MAT_BANK k s) then c.raise (F.RK_INT_STATUS_MAT_DROP k)
  else if c.on (F.RK_CFG_VIEW_ACTIVE k) then c
  else
    let b := (2 * s + (1 - c.rd (F.RK_SQCTL_MAT_BANK k s))) * 172 + 2 * w2
    let w := h.image v
    let put := fun (key x : Nat) (r : Rank) => { r with mat := SMap.put 0 r.mat key x, matBad := setDel key r.matBad }
    c.setRk k fun r =>
      let r := if h.hasLo then put b (bits w 0 32) r else r
      if h.hasHi then put (b + 1) (bits w 32 32) r else r

/-- What RK_MAT reads: the inactive bank, or the active one under VIEW_ACTIVE. -/
def Chip.matRead (c : Chip) (k s w2 : Nat) : Nat :=
  let a := c.rd (F.RK_SQCTL_MAT_BANK k s)
  let b := (2 * s + if c.on (F.RK_CFG_VIEW_ACTIVE k) then a else 1 - a) * 172 + 2 * w2
  SMap.get 0 (c.rk k).mat b + SMap.get 0 (c.rk k).mat (b + 1) * 2 ^ 32

/-- An access to a square sub-block or a matrix window costs the rank one cycle (R172). -/
def Chip.rankAccess (c : Chip) (k : Nat) : Chip := (c.inc (F.RK_ECC_STALLS k)).setRk k fun r => { r with extra := r.extra + 1 }

/-- MATRIX_WRITE (R175). -/
def execMatrixWrite (q : Requester) (rank : Fin 16) (s : Fin 8) (w2 : Fin 86) (half : Half) (value : Nat) (st : State) :
    Host.Outcome State Fault Refusal :=
  st.onAccess q fun c => c.write q (0x1101000 + 0x4000 * rank + 0x400 * s + 8 * w2) fun c =>
    (c.rankAccess rank).matWrite rank s w2 half value

end Sys2Proof.Machine
end

