-- ==== Sys2Proof/Machine/Protect.lean ====
section
/-!
DEFINITION. Network protection (R184–R205): the exits of the oscillation and direction mutes, PROTECT_N, the stop latches,
and the commands of the operators' mailboxes. The detector of R185 is in Datapath.lean, the bridge mute in Cnv.lean.
-/

namespace Sys2Proof.Machine

/-! ## Oscillation exit (R187) -/

/-- MS_PROTECT clears on the square that stands for `n` when no oscillation of it or of its group is left, and it takes the limit
G_det − 6.00 dB (R187, R310). -/
def Chip.oscRelease (c : Chip) (n : Nat) : Chip :=
  let c := c.setSq n fun q => { q with sevOsc := false }
  let u := c.leader n
  if (c.group u).any fun m => (c.sq m).oscOn || (c.sq m).sevOsc then c else
  let lim := ((c.group u).filter fun m => (c.sq m).oscIn).foldl (fun l m => some (limitTo ((c.sq m).gDet - 600) l)) (c.sq u).oscLimit
  let c := c.forEach (c.group u) fun m c => c.setSq m fun q => { q with oscIn := false }
  ((c.setSq u fun q => { q with oscLimit := lim }).clrMs .protect n).reenter u

/-- OSCILLATION_CLEAR (R187, R304): at a boundary one recovery interval after the trigger; SEVERE keeps the mute. -/
def execOscillationClear (sq : Fin 128) (s : State) : Host.Outcome State Fault Refusal :=
  s.onChip fun c =>
    if (c.sq sq).oscOn ∧ c.recovered (256 + sq) then
      let c := (c.wrSrc F.FLT_ACTIVE_ACTIVE (256 + sq) false).setSq sq fun q => { q with oscOn := false }
      if c.severe (256 + sq) then c.setSq sq fun q => { q with sevOsc := true } else c.oscRelease sq
    else c

/-! ## Direction mutes (R188, R189) -/

/-- A direction mute is released: the squares that it leaves go on at the gain of R155, with G_prev = −∞ (R189). -/
def Chip.dirRelease (c : Chip) (f : Fld) : Chip :=
  let was := allSquares.filter fun n => c.enabled n && c.on (F.SQ_STATUS_MS_DIRECTION n)
  let c := ((c.wr f 0).refreshDir).prtInt 1
  c.forEach (was.filter fun n => !c.on (F.SQ_STATUS_MS_DIRECTION n)) fun n c => c.reenter n

/-- NOISE_RISE_RELEASE (R189): DIR_HOLD tempi after the mute was raised. -/
def execNoiseRiseRelease (s : State) : Host.Outcome State Fault Refusal :=
  s.onChip fun c =>
    if c.on F.PRT_STATUS_DIR_NR ∧ c.dueAfter c.prt.nrAt (c.rd F.PRT_DIR_CFG_DIR_HOLD) then
      c.dirRelease F.PRT_STATUS_DIR_NR
    else c

/-- PERMIT_REPORT (R188): the next control flit of a die whose bridge is UP brings a change of its permit. -/
def execPermitReport (die : Fin 2) (present : Bool) (s : State) : Host.Outcome State Fault Refusal :=
  s.onChip fun c =>
    if (c.br die).st ≠ 2 ∨ c.on (F.CNV_STATUS_PERMIT die) = present then c else
    let c := (c.wrB (F.CNV_STATUS_PERMIT die) present).prtInt 2
    let c := c.setPrt fun x => { x with
      permitAt := if present then SMap.insert die c.ceilTempo x.permitAt else SMap.erase die x.permitAt }
    c.permitEval die

/-- PERMIT_MUTE_RELEASE (R189): the permit has been present for 16 tempi (DEDUCED, log 64). -/
def execPermitMuteRelease (die : Fin 2) (s : State) : Host.Outcome State Fault Refusal :=
  s.onChip fun c =>
    match c.prt.permitAt.find die with
    | none => c
    | some t =>
      if c.on (dirPermit die) ∧ c.dueAfter t 16 then c.dirRelease (dirPermit die) else c

/-! ## Stops (R190–R196, R399, R418) -/

/-- Whether the stop latch of function `f` is set (R195). -/
def Chip.stopped (c : Chip) (f : Nat) : Bool :=
  if f = 0 then c.on F.PRT_STATUS_PKG_STOP else c.rdBit F.PRT_STATUS_TEN_STOP (f - 1)

/-- Whether MS_STOP still waits for the boundary after the RESUME of function `f` (R195). -/
def Chip.lingers (c : Chip) (f : Nat) : Bool := decide (c.air.tempi < SMap.get 0 c.prt.stopFree f)

/-- Whether any stop covers square `n`, or has until the boundary to come (R190, R195, R196, R399, R418). -/
def Chip.stopCovers (c : Chip) (n : Nat) : Bool :=
  c.on F.PRT_STATUS_PKG_STOP || c.on F.PRT_STATUS_PIN_STOP || c.on F.CHL_SYS_LINK_STOP || c.on F.SEC_STATUS_JTAG_STOP ||
  (c.owner n ≠ 0 && c.stopped (c.owner n)) || c.lingers 0 || c.lingers (c.owner n)

/-- MS_STOP is set on every square that a stop covers; `clear`: and cleared on every other. -/
def Chip.refreshStop (c : Chip) (clear : Bool) : Chip :=
  c.forEach (allSquares.filter fun n => !c.isMember n) fun n c =>
    if c.stopCovers n then (if c.on (F.SQ_STATUS_MS_STOP n) then c else c.setMs .stop n)
    else if clear then c.clrMs .stop n else c

/-- The latch of function `f` is set, with this key hash, unless it is set already (R195). -/
def Chip.latchSet (c : Chip) (f : Nat) (hash : List Nat) : Chip :=
  if c.stopped f then c else
  let c := if f = 0 then c.wr F.PRT_STATUS_PKG_STOP 1 else c.wrBit F.PRT_STATUS_TEN_STOP (f - 1) true
  let c := c.forEach (List.range 4) fun j c => c.wr (F.PRT_LATCH_HASH_HASH f j) (hash.getD j 0)
  ((c.prtInt 4).bbEvent 0x11 (2 ^ (f + 1))).refreshStop false

/-- The latch of function `f` is cleared; MS_STOP follows at the next boundary (R195). -/
def Chip.latchClear (c : Chip) (f : Nat) : Chip :=
  let c := if f = 0 then c.wr F.PRT_STATUS_PKG_STOP 0 else c.wrBit F.PRT_STATUS_TEN_STOP (f - 1) false
  let c := c.forEach (List.range 4) fun j c => c.wr (F.PRT_LATCH_HASH_HASH f j) 0
  ((c.prtInt 5).bbEvent 0x12 (2 ^ (f + 1))).setPrt fun x => { x with stopFree := SMap.put 0 x.stopFree f (c.air.tempi + 1) }

/-- STOP_RELEASE (R195): at a tempo boundary MS_STOP clears where no stop covers any more. -/
def execStopRelease (s : State) : Host.Outcome State Fault Refusal := s.onChip fun c => c.when c.air.onB fun c => c.refreshStop true

/-- PROTECT_N_LOW (R190): the low level has lasted 150 cc of a running board die; else only the ball is low. -/
def execProtectNLow (s : State) : Host.Outcome State Fault Refusal :=
  s.onPkg fun c =>
    let c := c.setPrt fun x => { x with pinHigh := false, pinAck := none }
    if !c.running then c else
    let c := c.wr F.PRT_STATUS_PIN_LEVEL 0
    if c.on F.PRT_STATUS_PIN_STOP then c else
    let c := (((c.wr F.PRT_STATUS_PIN_STOP 1).prtInt 3).bbEvent 0x11 1).refreshStop false
    c.when (c.on F.PRT_CTRL_PIN_SYSTEM) fun c => c.sendStop none 2 0 0 (c.rd F.PRT_DEVID_DEVICE_ID) []

/-- PROTECT_N_HIGH (R191). -/
def execProtectNHigh (s : State) : Host.Outcome State Fault Refusal :=
  s.onPkg fun c =>
    if c.prt.pinHigh then c else
    (c.setPrt fun x => { x with pinHigh := true, pinHighAt := c.ceilTempo }).when c.running fun c => c.wr F.PRT_STATUS_PIN_LEVEL 1

/-- A write of PIN_ACK, ignored while the ball is low (R191). -/
def Chip.pinAck (c : Chip) : Chip :=
  c.when (c.prt.pinHigh && c.on F.PRT_STATUS_PIN_STOP) fun c => c.setPrt fun x => { x with pinAck := some (c.air.tempi + 1) }

/-- PIN_ACK (R191). -/
def execPinAck (q : Requester) (s : State) : Host.Outcome State Fault Refusal := s.onAccess q fun c => c.write q 0x1300008 Chip.pinAck

/-- PIN_STOP_RELEASE (R191): latched mode after PIN_ACK, level mode after PIN_RELEASE tempi of high level. -/
def execPinStopRelease (s : State) : Host.Outcome State Fault Refusal :=
  s.onChip fun c =>
    let ok := if c.on F.PRT_CTRL_PIN_MODE then c.prt.pinAck.any c.dueAt
      else c.prt.pinHigh && c.dueAfter c.prt.pinHighAt (c.rd F.PRT_CTRL_PIN_RELEASE)
    if c.on F.PRT_STATUS_PIN_STOP ∧ ok then
      let c := (c.wr F.PRT_STATUS_PIN_STOP 0).setPrt fun x => { x with pinAck := none }
      (c.bbEvent 0x12 1).refreshStop true
    else c

/-- Whether ALERT_N is driven low (R203). -/
def Chip.alert (c : Chip) : Bool :=
  (c.rdBit F.PRT_CTRL_ALERT_EN 0 && (c.on F.PRT_STATUS_PKG_STOP || c.on F.PRT_STATUS_TEN_STOP)) ||
  (c.rdBit F.PRT_CTRL_ALERT_EN 1 && c.on F.PRT_STATUS_PIN_STOP) ||
  (c.rdBit F.PRT_CTRL_ALERT_EN 2 && (c.on F.PRT_STATUS_DIR_NR || c.on F.PRT_STATUS_DIR_PERMIT_D || c.on F.PRT_STATUS_DIR_PERMIT_S)) ||
  (c.rdBit F.PRT_CTRL_ALERT_EN 3 && allSquares.any fun n => c.on (F.SQ_STATUS_MS_PROTECT n))

/-! ## Mailboxes (R194, R195, R200) -/

/-- A write to a word of mailbox `f`; one that arrives while it is busy is discarded and counted (R200). -/
def Chip.mboxWrite (c : Chip) (f w : Nat) (h : Half) (v : Nat) : Chip :=
  if c.on (F.PRT_CMD_STATUS_BUSY f) then c.inc (F.PRT_CMD_STATUS_DROPPED f) else
  let x := F.PRT_MBOX_DATA f w
  c.wr x (fldNew x h (c.rd x) (h.image v))

/-- MAILBOX_WRITE (R200). -/
def execMailboxWrite (q : Requester) (f : Fin 9) (w : Fin 20) (half : Half) (value : Nat) (s : State) : Host.Outcome State Fault Refusal :=
  s.onAccess q fun c => c.write q (0x1301000 + 0x100 * f + 8 * w) fun c => c.mboxWrite f w half value

/-- GO submits mailbox `f` (R195, R200). -/
def Chip.mboxGo (c : Chip) (f : Nat) : Chip :=
  if c.on (F.PRT_CMD_STATUS_BUSY f) then c.inc (F.PRT_CMD_STATUS_DROPPED f) else
  (c.wr (F.PRT_CMD_STATUS_BUSY f) 1).setPrt fun x => { x with pendBox := setIns f x.pendBox }

/-- A write of GO of mailbox `f`, `go` when it submits; one that arrives while the mailbox is busy is discarded and counted (R200). -/
def Chip.goWrite (c : Chip) (f : Nat) (go : Bool) : Chip := if go || c.on (F.PRT_CMD_STATUS_BUSY f) then c.mboxGo f else c

/-- MAILBOX_GO (R195). -/
def execMailboxGo (q : Requester) (f : Fin 9) (s : State) : Host.Outcome State Fault Refusal :=
  s.onAccess q fun c => c.write q (0x13010F8 + 0x100 * f) fun c => c.mboxGo f

/-- The mailbox that the free key store takes next (R200). -/
def nextBox (x : Prt) : Option Nat :=
  let vfs := ((List.range 8).map fun i => (x.lastVf + i) % 8 + 1).filter fun f => x.pendBox.contains f
  if x.pendBox.contains 0 && (!x.lastWasPf || vfs.isEmpty) then some 0 else vfs.head?

/-- The digest that key slot `f` holds, as four words; none while empty (R414). -/
def Chip.keySlot (c : Chip) (f : Nat) : Option (List Nat) :=
  if c.rdBit F.SEC_KEY_VALID_VALID f then some ((List.range 4).map fun j => c.rd (F.SEC_KEY_HASH f j)) else none

/-- VERIFY_START (R200, R414, R416): the key store is free and its self-test has ended. -/
def execVerifyStart (s : State) : Host.Outcome State Fault Refusal :=
  s.onChip fun c =>
    if c.prt.verifying.isSome ∨ !c.on F.SEC_STATUS_SELFTEST_DONE then c else
    match nextBox c.prt with
    | none => c
    | some f =>
      (c.wr F.PRT_STATUS_VERIFY_BUSY 1).setPrt fun x => { x with
        pendBox := setDel f x.pendBox, verifying := some f, keyCopy := c.keySlot f, memErr := false,
        lastVf := if f = 0 then x.lastVf else f, lastWasPf := decide (f = 0) }

/-- A command message as its 160 bytes (R194). -/
def Chip.mboxBytes (c : Chip) (f : Nat) : List Nat := (List.range 20).flatMap fun w => leBytes 8 (c.rd (F.PRT_MBOX_DATA f w))

/-- Bytes a to a + k − 1 of a message as a big-endian number. -/
def msgNum (m : List Nat) (a k : Nat) : Nat := beWord ((m.drop a).take k)

/-- The key hash of a message as four words, byte 8j in bits [7:0] of word j (R194, R205). -/
def msgHash (m : List Nat) : List Nat :=
  (chunks 8 4 (sha256 ((m.drop 32).take 64))).map fun l => beWord l.reverse

/-- The checks of R195 in their order, on a message for function `f` against this copy of its key slot: 1 when it passes,
else the code of the first that fails. A memory error ends the message with 6 (R416) (DEDUCED, log 67). -/
def Chip.verdict (c : Chip) (m : List Nat) (f : Nat) (copy : Option (List Nat)) (memErr : Bool) : Nat :=
  let kind := msgNum m 2 1
  let own := c.rd F.PRT_DEVID_DEVICE_ID
  if memErr then 6
  else if msgNum m 0 2 ≠ 1 ∨ (kind ≠ 1 ∧ kind ≠ 2) ∨ 1 < msgNum m 3 1 ∨ msgNum m 4 1 ≠ f ∨ msgNum m 5 3 ≠ 0 ∨ msgNum m 24 8 ≠ 0 then 2
  else if !(msgNum m 16 8 = own || (msgNum m 3 1 = 1 && c.rd F.AIR_CTRL_SOURCE = 3 && some (msgNum m 16 8) = c.chl.master)) then 3
  else if msgNum m 8 8 ≤ c.rd (F.PRT_CTR_COUNTER f) then 4
  else if copy ≠ some (msgHash m) then 5
  else if (if c.on F.SEC_STATUS_KAT_FAIL then kind = 2 else
      !ecdsaVerify (beWord (sha256 (m.take 96))) (msgNum m 32 32) (msgNum m 64 32) (msgNum m 96 32) (msgNum m 128 32)) then 6
  else if kind = 2 ∧ !c.stopped f then 7
  else if kind = 2 ∧ (List.range 4).map (fun j => c.rd (F.PRT_LATCH_HASH_HASH f j)) ≠ msgHash m then 8
  else 1

/-- The result of a message for function `f` is reported (R195, R204, R366). -/
def Chip.verifyReport (c : Chip) (f kind code : Nat) : Chip :=
  let c := ((c.wr (F.PRT_CMD_STATUS_RESULT f) code).wr (F.PRT_CMD_STATUS_LAST_KIND f) kind).prtInt (if code = 1 then 6 else 7)
  if f = 0 then c else if code = 1 then c.raise (F.TEN_VF_INT_STATUS_CMD_DONE f) else c.raise (F.TEN_VF_INT_STATUS_CMD_REJECT f)

/-- The verification of mailbox `f` ends with this code (R200). -/
def Chip.verifyEnd (c : Chip) (f kind code : Nat) : Chip :=
  let c := (c.verifyReport f kind code).wr (F.PRT_CMD_STATUS_BUSY f) 0
  (c.wr F.PRT_STATUS_VERIFY_BUSY 0).setPrt fun x => { x with verifying := none, keyCopy := none, memErr := false }

/-- A COUNTER is accepted for function `f`; PRT_CTR holds the highest (R195, R198). -/
def Chip.acceptCtr (c : Chip) (f n : Nat) : Chip :=
  (c.wr (F.PRT_CTR_COUNTER f) (max n (c.rd (F.PRT_CTR_COUNTER f)))).setPrt fun x => { x with
    accepted := SMap.put [] x.accepted f (setIns n (SMap.get [] x.accepted f)) }

/-- What an accepted message does (R195, R198): RESIGN sets the latch, RESUME clears it. -/
def Chip.accept (c : Chip) (m : List Nat) (f : Nat) : Chip :=
  let c := c.acceptCtr f (msgNum m 8 8)
  if msgNum m 2 1 = 1 then c.latchSet f (msgHash m) else c.latchClear f

/-- The verification of the mailbox in the key store ends, if its outcome is the one that `want` names. -/
def Chip.verified (c : Chip) (want : Nat → Nat → Bool) : Chip :=
  match c.prt.verifying with
  | none => c
  | some f =>
    let m := c.mboxBytes f
    let kind := msgNum m 2 1
    let code := c.verdict m f c.prt.keyCopy c.prt.memErr
    if !want kind code then c else
    let c := c.verifyEnd f kind code
    if code ≠ 1 then c else
    let c := c.accept m f
    if msgNum m 3 1 = 0 then c
    else if kind = 1 then c.sendStop none 1 f (msgNum m 8 8) (c.rd F.PRT_DEVID_DEVICE_ID) (msgHash m)
    else c.sendResume none ((List.range 20).map fun w => c.rd (F.PRT_MBOX_DATA f w))

/-- RESIGN (R195, R198): the message under verification is an accepted RESIGN. -/
def execResign (s : State) : Host.Outcome State Fault Refusal := s.onChip fun c => c.verified fun k r => k = 1 && r = 1

/-- RESUME (R195, R198): the message under verification is an accepted RESUME. -/
def execResume (s : State) : Host.Outcome State Fault Refusal := s.onChip fun c => c.verified fun k r => k = 2 && r = 1

/-- CMD_REJECT (R195): the message under verification fails a check. -/
def execCmdReject (s : State) : Host.Outcome State Fault Refusal := s.onChip fun c => c.verified fun _ r => r ≠ 1

end Sys2Proof.Machine
end

