-- ==== Sys2Proof/Machine/Stage.lean ====
section
/-!
DEFINITION. Staging (R8, R206–R211, R217): targets, shadows and claims, commits, and what drops a context's staging.
-/

namespace Sys2Proof.Machine

/-! ## Targets and staging (R206–R209) -/

/-- The target that the RWP fields of the register at `a` belong to (R206). -/
def targetOf (a : Nat) : Nat :=
  if a < 0x1000000 then 149 + (a - 0x400040) / 8
  else if a < 0x1100000 then (a - 0x1000000) / 0x1000
  else if a < 0x1200000 then
    let k := (a - 0x1100000) / 0x4000
    let p := (a - 0x1100000) % 0x4000
    if p < 0x100 then 128 + k else 8 * k + (p - 0x100) / 0x80
  else if a < 0x1204000 then 144 + (a - 0x1200000) / 0x1000
  else 148

/-- The address in a field's key. -/
def keyAddr (key : Nat) : Nat := key / 64

/-- What the shadow of a field holds: its staged value, or the active one (R207). -/
def Chip.shadowRd (c : Chip) (f : Fld) : Nat := (c.shadow.find f.key).getD (c.rd f)

/-- The active value of field `f` of target `t` is about to change: the shadow of a claimed target keeps its own copy (R207). -/
def Chip.keepShadow (c : Chip) (f : Fld) (t : Nat) : Chip :=
  if (c.claims.find t).isSome && !c.shadow.has f.key then { c with shadow := SMap.insert f.key (c.rd f) c.shadow } else c

/-- The targets that context `x` claims, ascending (R208). -/
def Chip.claimsOf (c : Chip) (x : Nat) : List Nat := (c.claims.filter fun p => p.2 = x).map (·.1)

/-- A staging or commit attempt of context `x` is dropped and counted (R208, R210). -/
def Chip.stageDrop (c : Chip) (x : Nat) : Chip := (c.inc (F.GPL_DROPS_STAGE_DROP x)).raise (F.GPL_CTX_INT_STATUS_STAGE_DROP x)
@[inherit_doc Chip.stageDrop]
def Chip.commitDrop (c : Chip) (x : Nat) : Chip := (c.inc (F.GPL_DROPS_COMMIT_DROP x)).raise (F.GPL_CTX_INT_STATUS_COMMIT_DROP x)

/-- The fields of a register that an access reaches and that are staged. -/
def rwpRows (l : List FldRow) (h : Half) : List FldRow := l.filter fun r => r.acc = .rwp && reaches r.fld h

/-- The staged values of a write: a reserved encoding keeps the shadow (R7, R8). -/
def Chip.stageFields (c : Chip) (l : List FldRow) (h : Half) (v : Nat) : Chip :=
  l.foldl (fun c r =>
    let new := fldNew r.fld h (c.shadowRd r.fld) v
    { c with shadow := SMap.insert r.fld.key (if r.vmin ≤ new ∧ new ≤ r.vmax then new else c.shadowRd r.fld) c.shadow }) c

/-- Target `t` is claimed for context `x`, whose plan is then STAGING unless it stands FAILED (R208, R216). -/
def Chip.claim (c : Chip) (x t : Nat) : Chip :=
  let c := { c with claims := SMap.insert t x c.claims }
  let st := c.rd (F.GPL_STATUS_STATE x)
  if st = 0 ∨ st = 4 ∨ st = 6 then c.wr (F.GPL_STATUS_STATE x) 1 else c

/-- A write to a register that holds RWP fields (R8, R208); its other fields act at once. -/
def Chip.stageWrite (c : Chip) (q : Requester) (a : Nat) (h : Half) (v : Nat) : Chip :=
  let rows := (regAt a).getD []
  let w := h.image v
  let c := c.fieldsWrite rows h w
  let rs := rwpRows rows h
  let t := targetOf a
  let x := q.ctx
  if rs.isEmpty then c
  else if c.committed x ∨ ((c.claims.find t).getD x) ≠ x then c.stageDrop x
  else ((c.claim x t).stageFields rs h w).setGpl fun g => { g with badShadow := setDel a g.badShadow }

/-- Whether the address is a rank's sub-block or matrix window (R172). -/
def rankOf (a : Nat) : Option Nat :=
  if 0x1100000 ≤ a ∧ a < 0x1140000 ∧ 0x100 ≤ (a - 0x1100000) % 0x4000 then some ((a - 0x1100000) / 0x4000) else none

/-- STAGE_WRITE (R208). -/
def execStageWrite (q : Requester) (addr : Nat) (half : Half) (value : Nat) (s : State) : Host.Outcome State Fault Refusal :=
  s.onAccess q fun c => c.write q addr fun c =>
    let c := match rankOf addr with
      | none => c
      | some k => c.rankAccess k
    c.stageWrite q addr half value

/-! ## Dropping staging (R217) -/

/-- The claims of context `x` end and its staged values go. -/
def Chip.unclaim (c : Chip) (x : Nat) : Chip :=
  let mine := fun a => c.claims.find (targetOf a) = some x
  { c with
    shadow := c.shadow.filter fun p => !mine (keyAddr p.1)
    claims := c.claims.filter fun p => p.2 ≠ x
    gpl := { c.gpl with badShadow := c.gpl.badShadow.filter fun a => !mine a } }

/-- Context `x` loses its staging; a plan that has not reached its boundary is withdrawn (R217). -/
def Chip.dropNow (c : Chip) (x : Nat) : Chip :=
  let st := c.rd (F.GPL_STATUS_STATE x)
  let c := c.unclaim x
  let c := c.setGpl fun g => { g with due := g.due.filter fun p => p.1 ≠ x }
  if st = 2 ∨ st = 3 then
    (((c.wr (F.GPL_STATUS_STATE x) 6).wr (F.GPL_STATUS_REASON x) 14).wr (F.GPL_STATUS_TARGET x) 0xFF).raise (F.GPL_CTX_INT_STATUS_ABORTED x)
  else if st = 1 ∨ st = 5 then c.wr (F.GPL_STATUS_STATE x) 0
  else c

/-- Whether the plan of context `x` waits for a PLAN occurrence of the boundary at which the block stands. -/
def Chip.schedHere (c : Chip) (x : Nat) : Bool :=
  c.rd (F.GPL_STATUS_STATE x) = 3 && c.air.taken.any fun o =>
    o.kind = 3 && o.fire = (c.now : Int) && o.target = c.rd (F.GPL_STATUS_PLAN_ID x)

/-- Whether scheduled plans have this boundary, so that the other plans that are due have the next one (R211). -/
def Chip.schedFirst (c : Chip) : Bool := c.gpl.schedAt = some c.air.tempi || (List.range 10).any c.schedHere

/-- Whether the boundary at which the block stands is that of the plan of context `x`, which has not been taken yet. -/
def Chip.planHere (c : Chip) (x : Nat) : Bool :=
  c.air.onB && (c.schedHere x || (!c.schedFirst && c.gpl.due.any fun p => p.1 = x && decide (p.2 ≤ c.air.tempi)))

/-- An action drops the staging of context `x`: one that comes when the boundary of the plan has begun finds the plan applied (R217). -/
def Chip.dropCtx (c : Chip) (x : Nat) : Chip :=
  if c.planHere x then c.setGpl fun g => { g with late := setIns x g.late } else c.dropNow x

/-- The drops that have waited for the plan of context `x`. -/
def Chip.dropLate (c : Chip) (x : Nat) : Chip :=
  if c.gpl.late.contains x then (c.setGpl fun g => { g with late := setDel x g.late }).dropNow x else c

/-- Address of GPL_COMMIT of context `x`. -/
def aCommit (x : Nat) : Nat := 0x1401000 + 0x100 * x

/-- The commit of context `x` (R210, R211). -/
def Chip.commit (c : Chip) (x planId mode : Nat) : Chip :=
  let c := (c.wr (F.GPL_STATUS_STATE x) (if mode = 1 then 3 else 2)).wr (F.GPL_STATUS_PLAN_ID x) planId
  let c := c.wr (F.GPL_STATUS_TARGETS x) (c.claimsOf x).length
  c.when (mode ≠ 1) fun c => c.setGpl fun g => { g with
    -- 64 cc are 262,144 / 3,125 Tc
    due := g.due ++ [(x, c.air.tempi + if 262144 ≤ (c.nextBoundary - c.now) * 3125 then 1 else 2)] }

/-- A write of GPL_COMMIT of context `x` (R210, R217): the lower half commits, DISCARD in the upper half drops the staging. -/
def Chip.commitWrite (c : Chip) (q : Requester) (x : Nat) (h : Half) (v : Nat) : Chip :=
  let w := h.image v
  let disc := bit w 32
  if q.ctx ≠ x then c.when h.hasLo fun c => c.commitDrop x else
  let c := c.when h.hasLo fun c =>
    if c.committed x ∨ (bit w 16 ∧ q.isVf) ∨ disc then c.commitDrop x else c.commit x (bits w 0 16) (bits w 16 1)
  c.when disc fun c => c.dropCtx x

/-- The data of a commit. -/
def commitImage (planId mode : Nat) (discard : Bool) : Nat := planId % 2 ^ 16 + mode * 2 ^ 16 + b2n discard * 2 ^ 32

/-- PLAN_COMMIT (R210): MODE 0, with DISCARD when the same write sets it. -/
def execPlanCommit (q : Requester) (planId : Nat) (discard : Bool) (s : State) : Host.Outcome State Fault Refusal :=
  s.onAccess q fun c => c.write q (aCommit q.ctx) fun c => c.commitWrite q q.ctx (if discard then .full else .lo) (commitImage planId 0 discard)

/-- PLAN_COMMIT_SCHED (R211): MODE 1. -/
def execPlanCommitSched (q : Requester) (planId : Nat) (discard : Bool) (s : State) : Host.Outcome State Fault Refusal :=
  s.onAccess q fun c => c.write q (aCommit q.ctx) fun c => c.commitWrite q q.ctx (if discard then .full else .lo) (commitImage planId 1 discard)

/-- PLAN_DISCARD (R217): a write of bits [63:32] with DISCARD. -/
def execPlanDiscard (q : Requester) (s : State) : Host.Outcome State Fault Refusal :=
  s.onAccess q fun c => c.write q (aCommit q.ctx) fun c => c.commitWrite q q.ctx .hi 1

/-- A write of GPL_RELEASE.CTX: 1–9 drop that context's staging (R217, R223). -/
def Chip.releaseCtx (c : Chip) (q : Requester) (x : Nat) : Chip := c.when (q.isPf && decide (1 ≤ x) && decide (x ≤ 9)) fun c => c.dropCtx x

/-- PLAN_RELEASE (R217). -/
def execPlanRelease (q : Requester) (ctx : Nat) (s : State) : Host.Outcome State Fault Refusal :=
  s.onAccess q fun c => c.write q 0x1400018 fun c => c.releaseCtx q (ctx % 16)

end Sys2Proof.Machine
end

