-- ==== Sys2Proof/Machine/Image.lean ====
section
/-!
DEFINITION. The Urold image (R41–R61): the loader, resolution into routed squares and wing shares, the hash, readback.
-/

namespace Sys2Proof.Machine

/-- Address of TOP_IMG_CTRL, TOP_IMG_PORT and TOP_STRUCT_DATA (R60). -/
def aImgCtrl : Nat := 0x8
@[inherit_doc aImgCtrl] def aImgPort : Nat := 0x28
@[inherit_doc aImgCtrl] def aStructData : Nat := 0x38

/-! ## Resolution (R48–R50) -/

/-- SQS_EXIST holds 0b01. -/
def Chip.exists' (c : Chip) (n : Nat) : Bool := bits (c.sqw n 15) 0 2 = 1
/-- SQS_BOND.BOND_SIZE and BOND_POS. -/
def Chip.bsize (c : Chip) (n : Nat) : Nat := bits (c.sqw n 5) 0 3
@[inherit_doc Chip.bsize] def Chip.bpos (c : Chip) (n : Nat) : Nat := bits (c.sqw n 5) 4 2
/-- SQS_PAIR.PAIR_EN and PAIR_SQ. -/
def Chip.pairEn (c : Chip) (n : Nat) : Bool := bit (c.sqw n 6) 0
@[inherit_doc Chip.pairEn] def Chip.pairSq (c : Chip) (n : Nat) : Nat := bits (c.sqw n 6) 8 7

/-- The slot, crossbar and tap checks of R48 on the words of square `n`, for a slot of up to `size` squares. -/
def Chip.slotOk (c : Chip) (n size : Nat) : Bool :=
  c.exists' n && decide (14 ≤ c.slotBw n) && decide (c.slotBw n ≤ 1000 * size) && decide (c.subFirst n ≤ c.subLast n) &&
  decide (c.laneEn n ≠ 0) && decide (bits (c.sqw n 2) 0 16 ≠ 0) && decide (c.firTaps n ≤ 384) && decide (c.echoTaps n ≤ 64)

/-- The leader that the stored words of `n` name. -/
def Chip.wLeader (c : Chip) (n : Nat) : Nat := if c.bsize n ≤ 1 then n else n - c.bpos n

/-- Every check of R48 but pairing and streams, for the square or group that `n` belongs to. -/
def Chip.unitOk (c : Chip) (n : Nat) : Bool :=
  let s := c.bsize n
  if s ≤ 1 then c.slotOk n 1 else if 4 < s then false else
  decide (c.bpos n ≤ n) &&
  (let l := n - c.bpos n
   decide (l % 4 + s ≤ 4) && decide (n < l + s) && c.slotOk l s &&
   (List.range s).all fun i => c.exists' (l + i) && decide (c.bsize (l + i) = s) && decide (c.bpos (l + i) = i))

/-- The pairing check for a square that leads itself or its group. -/
def Chip.pairOk (c : Chip) (u : Nat) : Bool :=
  !c.pairEn u ||
  (let p := c.pairSq u
   decide (isUl p ≠ isUl u) && c.pairEn p && decide (c.pairSq p = u) && c.unitOk p &&
   ((decide (c.bsize u ≤ 1) && decide (c.bsize p ≤ 1)) ||
    (decide (c.bsize u = c.bsize p) && decide (c.bpos u = 0) && decide (c.bpos p = 0))))

/-- Every check but the stream check. -/
def Chip.passes (c : Chip) (n : Nat) : Bool := c.unitOk n && c.pairOk (c.wLeader n)

/-- Whether a lane of `u` names Chain Link port `p` (2 = A, 3 = B). -/
def Chip.usesPort (c : Chip) (u p : Nat) : Bool := (List.range 8).any fun t => c.dest u t = p

/-- Whether `u` shares a port and a stream with another passing square. -/
def Chip.dupStream (c : Chip) (ok : List Nat) (u : Nat) : Bool :=
  ok.any fun v => v ≠ u && decide (c.stream u = c.stream v) && [2, 3].any fun p => c.usesPort u p && c.usesPort v p

/-- The routed squares (R48). -/
def Chip.routedSet (c : Chip) : List Nat :=
  let ok := allSquares.filter c.passes
  let heads := ok.filter fun n => c.wLeader n = n
  allSquares.filter fun n =>
    ok.contains n &&
    (let u := c.wLeader n
     !c.dupStream heads u && !(c.pairEn u && c.dupStream heads (c.pairSq u)))

/-- The resolved share of wing `w` (R50). -/
def Chip.share (c : Chip) (w : Nat) : Nat :=
  let one := fun v => let x := bits (c.word (0x800 + v)) 0 11; if 1200 < x then 0 else x
  let pair := one (w / 2 * 2) + one (w / 2 * 2 + 1)
  if 1200 < pair then 0 else one w

/-- Write what resolution says of square `n`: routed or not, its group and its pair (R134). -/
def Chip.resolveSq (c : Chip) (r : List Nat) (n : Nat) : Chip :=
  let yes := r.contains n
  let u := c.wLeader n
  let s := if yes && decide (2 ≤ c.bsize n) then c.bsize n else 0
  let p := yes && c.pairEn u
  let partner := if p then c.pairSq u else 0
  let c := (c.setRouted n yes).wrB (F.SQ_ID_ROUTED n) yes
  let c := ((c.wr (F.SQ_ID_BOND_SIZE n) s).wr (F.SQ_ID_BOND_POS n) (if s = 0 then 0 else n - u)).wrB (F.SQ_ID_PAIRED n) p
  let c := c.when (s ≠ 0 && n ≠ u) fun c => c.capDeny n
  ((c.wr (F.SQ_ID_PAIR_SQ n) partner).wr (F.SQ_STATUS_STATE n) 0).setSq n fun q => { q with dir := 0, gPrev := none }

/-- Whether square `n` has an oscillation that is not cleared (R187, R304). -/
def Chip.oscHeld (c : Chip) (n : Nat) : Bool := (c.sq n).oscOn || (c.sq n).sevOsc

/-- The mute sources when groups form or dissolve (R23, R24, R134): a square that no leader stands for any more has those that it showed,
and a leader takes those of its members; faults and oscillations go with the square that has them (DEDUCED, log 132). -/
def Chip.regroup (c old : Chip) : Chip :=
  let l : List Ms := [.rank, .wing, .bridge, .hold, .direction, .stop, .placement]
  let c := c.forEach (allSquares.filter old.isMember) fun n c =>
    l.foldl (fun c m => c.wrB (m.fld n) (old.on (m.fld (old.leader n)))) c
  c.forEach (allSquares.filter fun n => !c.isMember n && (decide (2 ≤ c.bondSize n) || decide (2 ≤ old.bondSize n))) fun n c =>
    let c := l.foldl (fun c m => c.wrB (m.fld n) ((c.group n).any fun k => c.on (m.fld k))) c
    let c := c.setSq n fun q => { q with brDies := (c.group n).foldl (fun a k => Nat.lor a (c.sq k).brDies) 0 }
    (c.wrB ((Ms.protect).fld n) ((c.group n).any c.oscHeld)).refreshFault n

/-- Square `n` belongs to `func` from now on (R357). -/
def Chip.setOwner (c : Chip) (n func : Nat) : Chip :=
  let f := F.TEN_OWNER_OWNER (n / 16)
  let old := c.owner n
  let told := fun f (c : Chip) => c.when (decide (1 ≤ f) && decide (f ≤ 8) && old ≠ func) fun c => c.raise (F.TEN_VF_INT_STATUS_OWNER_CHG f)
  (told func (told old (c.wr f (c.rd f - old * 16 ^ (n % 16) + func * 16 ^ (n % 16))))).when (old ≠ func) fun c => c.capDeny n

/-- The square whose owner is square `n`'s after resolution (R357): the leader of its group, and of a routed pair the half with the
lower number (DESIGN CHOICE, log 99). -/
def Chip.ownerHead (c : Chip) (n : Nat) : Nat :=
  let l := c.leader n
  if c.on (F.SQ_ID_PAIRED l) then min l (c.rd (F.SQ_ID_PAIR_SQ l)) else l

/-- A resolution that makes groups and pairs gives each one owner (R357). -/
def Chip.resolveOwners (c : Chip) : Chip :=
  c.forEach (allSquares.filter fun n => c.owner n ≠ c.owner (c.ownerHead n)) fun n d => d.setOwner n (c.owner (c.ownerHead n))

/-- Unroute every square and zero the shares (R57). -/
def Chip.unroute (c : Chip) : Chip :=
  (c.forEach allSquares fun n c => c.resolveSq [] n).forEach (List.range 4) fun w c => c.wr (F.WG_SHARE_SHARE_MHZ w) 0

/-! ## Loading -/

/-- Whether a structure index is reserved (R41, R42). -/
def structReserved (i : Nat) : Bool :=
  if i < 0x800 then 8 ≤ i % 16 && i % 16 ≤ 14 else !(i ≤ 0x803 || i = 0x810)

/-- A load starts (R53, R55, R59): acts in IDLE; held while an erasure runs. A hash that still runs is abandoned (DESIGN CHOICE, log 72). -/
def Chip.imgStart (c : Chip) : Chip :=
  if c.img.erasing then c.setImg fun x => { x with heldStart := true }
  else if c.rd F.TOP_IMG_STATUS_STATE ≠ 0 then c else
  let kib := c.rd F.TOP_IMG_FLASH_MAX_KIB
  let c := ((c.wr F.TOP_IMG_STATUS_STATE 1).wr F.TOP_IMG_STATUS_HASH_VALID 0).wr F.TOP_IMG_STATUS_HASH_BUSY 0
  c.setImg fun x => { x with
      phase := .header, buf := [], heldLo := none, flashLeft := (if kib = 0 then 4096 else kib) * 1024,
      flashAddr := c.rd F.TOP_IMG_FLASH_BASE, flashMode := c.rd F.TOP_IMG_FLASH_MODE,
      flashDummy := c.rd F.TOP_IMG_FLASH_DUMMY }

/-- The load ends with this CAUSE (R46); what is left in the port buffer is dropped (R54). -/
def Chip.imgEnd (c : Chip) (cause : Nat) : Chip :=
  let drop := c.rd F.TOP_IMG_CTRL_SOURCE = 0 && (!c.img.buf.isEmpty || c.img.heldLo.isSome)
  let c := (c.wr F.TOP_IMG_STATUS_STATE (if cause = 1 then 2 else 3)).wr F.TOP_IMG_STATUS_CAUSE cause
  let c := c.when drop fun c => c.raise F.TOP_IMG_STATUS_PORT_DROP
  c.setImg fun x => { x with phase := .header, buf := [], heldLo := none, resolving := true }

/-- ABORT ends a running load (R46). -/
def Chip.imgAbort (c : Chip) : Chip := if c.rd F.TOP_IMG_STATUS_STATE = 1 then c.imgEnd 5 else c

/-- HASH_REQ (R59): ignored while loading or hashing, held while an erasure runs. -/
def Chip.hashReq (c : Chip) : Chip :=
  if c.img.erasing then c.setImg fun x => { x with heldHash := true }
  else if c.rd F.TOP_IMG_STATUS_STATE = 1 ∨ c.on F.TOP_IMG_STATUS_HASH_BUSY then c
  else c.wr F.TOP_IMG_STATUS_HASH_BUSY 1

/-- CLEAR acts (R57) unless a plan has been applied since the load (DESIGN CHOICE, log 125). -/
def Chip.clearNow (c : Chip) : Chip :=
  if c.on F.TOP_IMG_STATUS_PLANNED then c else
  let c := ((((c.wr F.TOP_IMG_STATUS_STATE 0).wr F.TOP_IMG_STATUS_CAUSE 0).wr F.TOP_IMG_STATUS_RESOLVED 0).wr
    F.TOP_IMG_STATUS_HASH_BUSY 0).wr F.TOP_IMG_STATUS_HASH_VALID 0
  let c := ((c.wr F.TOP_IMG_COUNT_WORDS 0).wr F.TOP_IMG_COUNT_WRITES 0).wr F.TOP_IMG_COUNT_DISCARDED 0
  let c := c.forEach (List.range 4) fun j c => (c.wr (F.TOP_HASH_DIGEST_LO j) 0).wr (F.TOP_HASH_DIGEST_HI j) 0
  (c.unroute.regroup c).setImg fun x => { x with
      phase := .header, buf := [], heldLo := none, resolving := false, erasing := true, heldStart := false,
      heldHash := false }

/-- CLEAR (R57): where the boundary of a plan has begun, the plan goes first, and CLEAR finds PLANNED as it leaves it (R58) (DESIGN CHOICE, log 91). -/
def Chip.imgClear (c : Chip) : Chip :=
  if (List.range 10).any c.planHere then c.setImg fun x => { x with clearLate := true } else c.clearNow

/-- A CLEAR that has waited for the plans of its boundary acts. -/
def Chip.clearLate (c : Chip) : Chip := if c.img.clearLate then (c.setImg fun x => { x with clearLate := false }).clearNow else c
@[inherit_doc Chip.clearLate]
def Chip.clearRest (c : Chip) : Chip := if (List.range 10).any c.planHere then c else c.clearLate

/-- The header fields of a stream word (R44). -/
def hdrType (w : Nat) : Nat := bits w 0 8
@[inherit_doc hdrType] def hdrCount (w : Nat) : Nat := bits w 8 13
@[inherit_doc hdrType] def hdrTarget (w : Nat) : Nat := bits w 32 12

/-- Consume the next stream word, if the loader waits for a header and the word satisfies `p`; WORDS counts it and saturates (DESIGN CHOICE, log 90). -/
def Chip.takeHeader (c : Chip) (p : Nat → Bool) (g : Nat → Chip → Chip) : Chip :=
  match c.img.phase, c.img.buf with
  | .header, w :: l =>
    if c.rd F.TOP_IMG_STATUS_STATE = 1 && p w then
      g w ((c.inc F.TOP_IMG_COUNT_WORDS).setImg fun x => { x with buf := l })
    else c
  | _, _ => c

/-- Whether a WRITE header has a valid COUNT. -/
def countOk (w : Nat) : Bool := 1 ≤ hdrCount w && hdrCount w ≤ 4096

/-- The loader consumes a WRITE header (R44). -/
def Chip.imgWriteHeader (c : Chip) : Chip :=
  c.takeHeader (fun w => hdrType w = 1 && countOk w) fun w c =>
    c.setImg fun x => { x with phase := .data (hdrCount w) (hdrTarget w) }

/-- The loader consumes an END header (R46): CAUSE 1. -/
def Chip.imgEndRecord (c : Chip) : Chip := c.takeHeader (fun w => hdrType w = 0x0E) fun _ c => c.imgEnd 1

/-- The loader consumes a header that stops the load (R46): CAUSE 2 for another TYPE, CAUSE 3 for an invalid COUNT. -/
def Chip.imgBadHeader (c : Chip) : Chip :=
  c.takeHeader (fun w => hdrType w ≠ 0x0E && !(hdrType w = 1 && countOk w)) fun w c => c.imgEnd (if hdrType w = 1 then 3 else 2)

/-- The loader consumes a data word (R45): stored at its index, or discarded when the index is reserved or beyond 0xFFF. -/
def Chip.imgDataWord (c : Chip) : Chip :=
  match c.img.phase, c.img.buf with
  | .data left i, w :: l =>
    if c.rd F.TOP_IMG_STATUS_STATE ≠ 1 then c else
    let keep := decide (i ≤ 0xFFF) && !structReserved i
    let c := (c.inc F.TOP_IMG_COUNT_WORDS).inc (if keep then F.TOP_IMG_COUNT_WRITES else F.TOP_IMG_COUNT_DISCARDED)
    c.setImg fun x => { x with
        buf := l, phase := if left ≤ 1 then .header else .data (left - 1) (i + 1),
        space := if keep then SMap.put 0 x.space i w else x.space }
  | _, _ => c

/-- The loader consumes one word, whatever it is. -/
def Chip.imgConsume (c : Chip) : Chip :=
  match c.img.phase, c.img.buf with
  | .data _ _, _ => c.imgDataWord
  | .header, [] => c
  | .header, w :: _ =>
    if hdrType w = 0x0E then c.imgEndRecord else if hdrType w = 1 && countOk w then c.imgWriteHeader else c.imgBadHeader

/-- A stream word is delivered to the loader. -/
def Chip.imgDeliver (c : Chip) (w : Nat) : Chip := c.setImg fun x => { x with buf := x.buf ++ [w] }

/-- A write that completes a word finds the port's 64 words full (R54): the link is held back until the loader consumes one (DEDUCED, log 92). -/
def Chip.imgRoom (c : Chip) (h : Half) : Chip := c.when (h.hasHi && decide (64 ≤ c.img.buf.length)) Chip.imgConsume

/-- A write of TOP_IMG_PORT (R54). -/
def Chip.imgPort (c : Chip) (h : Half) (v : Nat) : Chip :=
  let c := c.imgRoom h
  if c.rd F.TOP_IMG_STATUS_STATE ≠ 1 ∨ c.rd F.TOP_IMG_CTRL_SOURCE ≠ 0 then c.raise F.TOP_IMG_STATUS_PORT_DROP else
  match h, c.img.heldLo with
  | .full, none => c.imgDeliver (v % 2 ^ 64)
  | .full, some _ => ((c.raise F.TOP_IMG_STATUS_PORT_DROP).setImg fun x => { x with heldLo := none }).imgDeliver (v % 2 ^ 64)
  | .lo, _ => c.setImg fun x => { x with heldLo := some (v % 2 ^ 32) }
  | .hi, none => c.raise F.TOP_IMG_STATUS_PORT_DROP
  | .hi, some l => (c.setImg fun x => { x with heldLo := none }).imgDeliver (l + v % 2 ^ 32 * 2 ^ 32)

/-- IMG_START (R53), by a write of TOP_IMG_CTRL. -/
def execImgStart (q : Requester) (s : State) : Host.Outcome State Fault Refusal :=
  s.onAccess q fun c => c.write q aImgCtrl Chip.imgStart

/-- IMG_ABORT (R46). -/
def execImgAbort (q : Requester) (s : State) : Host.Outcome State Fault Refusal :=
  s.onAccess q fun c => c.write q aImgCtrl Chip.imgAbort

/-- IMG_CLEAR (R57). -/
def execImgClear (q : Requester) (s : State) : Host.Outcome State Fault Refusal :=
  s.onAccess q fun c => c.write q aImgCtrl Chip.imgClear

/-- HASH_REQ (R59). -/
def execHashReq (q : Requester) (s : State) : Host.Outcome State Fault Refusal :=
  s.onAccess q fun c => c.write q aImgCtrl Chip.hashReq

/-- IMG_PORT_WRITE (R54). -/
def execImgPortWrite (q : Requester) (half : Half) (value : Nat) (s : State) : Host.Outcome State Fault Refusal :=
  s.onAccess q fun c => c.write q aImgPort fun c => c.imgPort half value

/-- CLEAR_ERASE_DONE (R57): the stored words are erased, and a held START or HASH_REQ acts. -/
def execClearEraseDone (s : State) : Host.Outcome State Fault Refusal :=
  s.onChip fun c =>
    if !c.img.erasing then c else
    let st := c.img.heldStart
    let hs := c.img.heldHash
    let c := c.setImg fun x => { x with space := [], erasing := false, heldStart := false, heldHash := false }
    (c.when st Chip.imgStart).when hs Chip.hashReq

/-- FLASH_BURST_DONE (R55): up to 256 bytes arrive, inside the range sampled at the start (DEDUCED, log 69). -/
def execFlashBurstDone (words : List Nat) (s : State) : Host.Outcome State Fault Refusal :=
  s.onChip fun c =>
    if c.rd F.TOP_IMG_STATUS_STATE = 1 ∧ c.rd F.TOP_IMG_CTRL_SOURCE = 1 then
      let n := min 32 (c.img.flashLeft / 8)
      c.setImg fun x => { x with
          buf := x.buf ++ (words.take n).map (· % 2 ^ 64), flashLeft := x.flashLeft - 8 * n,
          flashAddr := x.flashAddr + 8 * n }
    else c

/-- IMAGE_WRITE_HEADER (R44). -/
def execImageWriteHeader (s : State) : Host.Outcome State Fault Refusal := s.onChip Chip.imgWriteHeader

/-- IMAGE_END_RECORD (R46): CAUSE 1. -/
def execImageEndRecord (s : State) : Host.Outcome State Fault Refusal := s.onChip Chip.imgEndRecord

/-- IMAGE_BAD_HEADER (R46): CAUSE 2 for another TYPE, CAUSE 3 for an invalid COUNT. -/
def execImageBadHeader (s : State) : Host.Outcome State Fault Refusal := s.onChip Chip.imgBadHeader

/-- IMAGE_DATA_WORD (R45): stored at its index, or discarded when the index is reserved or beyond 0xFFF. -/
def execImageDataWord (s : State) : Host.Outcome State Fault Refusal := s.onChip Chip.imgDataWord

/-- FLASH_RANGE_EXHAUSTED (R46): CAUSE 4. -/
def execFlashRangeExhausted (s : State) : Host.Outcome State Fault Refusal :=
  s.onChip fun c =>
    if c.rd F.TOP_IMG_STATUS_STATE = 1 ∧ c.rd F.TOP_IMG_CTRL_SOURCE = 1 ∧ c.img.flashLeft < 8 ∧ c.img.buf = [] then c.imgEnd 4
    else c

/-- RESOLUTION_DONE (R48): routed squares, shares, RESOLVED; the hash starts. -/
def execResolutionDone (s : State) : Host.Outcome State Fault Refusal :=
  s.onChip fun c =>
    if !c.img.resolving then c else
    let r := c.routedSet
    let old := c
    let c := (c.forEach allSquares fun n c => c.resolveSq r n).regroup old
    let c := c.forEach (List.range 4) fun w c => c.wr (F.WG_SHARE_SHARE_MHZ w) (c.share w)
    let c := ((c.wr F.TOP_IMG_STATUS_RESOLVED 1).wr F.TOP_IMG_STATUS_HASH_BUSY 1).setImg fun x => { x with resolving := false }
    (c.resolveOwners.refreshHold).refreshStop false

/-- The 32,768 bytes of the structure space (R59). -/
def Chip.spaceBytes (c : Chip) : List Nat := (List.range 4096).flatMap fun i => leBytes 8 (c.word i)

/-- HASH_DONE (R59): the digest is written and HASH_VALID is set. No hash ends before the resolution that starts it. -/
def execHashDone (s : State) : Host.Outcome State Fault Refusal :=
  s.onChip fun c =>
    if !c.on F.TOP_IMG_STATUS_HASH_BUSY ∨ c.img.resolving then c else
    let d := sha256 c.spaceBytes
    let half := fun k => (d.drop (4 * k)).take 4 |>.reverse |> beWord
    let c := c.forEach (List.range 4) fun j c =>
      (c.wr (F.TOP_HASH_DIGEST_LO j) (half (2 * j))).wr (F.TOP_HASH_DIGEST_HI j) (half (2 * j + 1))
    (c.wr F.TOP_IMG_STATUS_HASH_BUSY 0).wr F.TOP_IMG_STATUS_HASH_VALID 1

/-- The side effect of a read of TOP_STRUCT_DATA (R60). -/
def Chip.structAdvance (c : Chip) (h : Half) : Chip :=
  c.when (h.hasHi && c.on F.TOP_STRUCT_ADDR_AUTOINC) fun c =>
    c.wr F.TOP_STRUCT_ADDR_INDEX (c.rd F.TOP_STRUCT_ADDR_INDEX + 1)

/-- STRUCT_DATA_READ (R60). -/
def execStructDataRead (q : Requester) (half : Half) (s : State) : Host.Outcome State Fault Refusal :=
  s.onAccess q fun c => c.read q aStructData half (fun c => c.word (c.rd F.TOP_STRUCT_ADDR_INDEX)) fun c => c.structAdvance half

end Sys2Proof.Machine
end

