-- ==== Sys2Proof/Machine/Plan.lean ====
section
/-!
DEFINITION. Gain plans (R212–R217, R221, R223): the checks in their order, application, and withdrawals.
-/

namespace Sys2Proof.Machine

/-! ## Checks (R213–R215) -/

/-- The value of a field of target `t` that the plan of context `x` leaves. -/
def Chip.after (c : Chip) (x t : Nat) (f : Fld) : Nat := if c.claims.find t = some x then c.shadowRd f else c.rd f

/-- ENABLE of square `n` after the plan. -/
def Chip.enAfter (c : Chip) (x n : Nat) : Bool := c.after x n (F.SQ_CTRL_ENABLE n) ≠ 0

/-- Whether a bank that the plan makes active holds an error (R122, R175). -/
def Chip.bankErr (c : Chip) (x n : Nat) : Bool :=
  let fb := c.after x n (F.SQ_CTRL_FIR_BANK n)
  let mb := c.after x n (F.RK_SQCTL_MAT_BANK (n / 8) (n % 8))
  (fb ≠ c.rd (F.SQ_CTRL_FIR_BANK n) && c.gpl.badFir.contains (2 * n + fb)) ||
  (mb ≠ c.rd (F.RK_SQCTL_MAT_BANK (n / 8) (n % 8)) && c.gpl.badMat.contains (2 * n + mb))

/-- Whether the slot configuration of square `n` fails (R115, R126, R157). -/
def Chip.slotBad (c : Chip) (x n : Nat) : Bool :=
  let v := c.after x n
  let t := v (F.SQ_EC_MCFG_TARGET n)
  let rx := F.SQ_FREQ_RX_FC_FOLD n
  let tx := F.SQ_FREQ_TX_FC_FOLD n
  let staged := c.claims.find n = some x && c.shadow.any fun p => keyAddr p.1 = rx.addr || keyAddr p.1 = tx.addr
  decide (t < 900) || decide (6000 < t) ||
  (c.enAfter x n &&
    (decide (toS 16 (v (F.SQ_GAIN_G_MAX n)) < toS 16 (v (F.SQ_GAIN_G_MIN n))) ||
     ((!c.on (F.SQ_CTRL_ENABLE n) || staged) && !c.placed n (v rx) (v tx) (toS 10 (v (F.SQ_FREQ_TX_TX_SUB_OFS n))))))

/-- Whether a folded range lies within an allow-list entry of tenant `f` that covers the side, 1 donor or 2 service (R359);
the range is in 100 Hz units doubled, so that half a slot is whole. -/
def Chip.allowed (c : Chip) (f fc bw side : Nat) : Bool :=
  (List.range 8).any fun e =>
    bit (c.ten? (F.TEN_ALLOW_SIDE f e)) (side - 1) &&
    decide ((c.ten? (F.TEN_ALLOW_LO f e) : Int) * 1000 ≤ (fc : Int) - 5000 * bw) &&
    decide ((fc : Int) + 5000 * bw ≤ (c.ten? (F.TEN_ALLOW_HI f e) : Int) * 1000)

/-- Whether square `n` with these carriers lies inside its owner's allow-list (R359). -/
def Chip.allowOk (c : Chip) (n fcRx fcTx : Nat) : Bool :=
  let f := c.owner n
  c.allowed f fcRx (c.slotBw n) (if isUl n then 2 else 1) && c.allowed f fcTx (c.slotBw n) (if isUl n then 1 else 2)

/-- The first test of R214 that fails on target `t`; 0 when none does. -/
def Chip.targetTest (c : Chip) (x t : Nat) : Nat :=
  if t < 128 then
    let en := c.enAfter x t
    if 1 ≤ x ∧ x ≤ 8 ∧ c.owner t ≠ x then 4
    else if c.isMember t then 5
    else if en ∧ !c.routed t then 6
    else if c.gpl.faulted.contains t ∨ c.bankErr x t then 7
    else if c.gpl.protectd.contains t then 8
    else if c.slotBad x t then 9
    else if en ∧ c.owner t ≠ 0 ∧
      !c.allowOk t (c.after x t (F.SQ_FREQ_RX_FC_FOLD t)) (c.after x t (F.SQ_FREQ_TX_FC_FOLD t)) then 10
    else 0
  else if t < 144 then (if c.gpl.badRank.contains (t - 128) then 7 else 0)
  else if t < 148 then (if c.gpl.badWing.contains (t - 144) then 7 else 0)
  else 0

/-- The enabled squares of tenant `f`, groups by their leaders, under an ENABLE (R360). -/
def Chip.quotaSet (c : Chip) (f : Nat) (en : Nat → Bool) : List Nat := allSquares.filter fun n => c.owner n = f && c.acts n && en n

/-- How many squares `l` counts against a quota: a group counts its members (R360). -/
def Chip.quotaCount (c : Chip) (l : List Nat) : Nat := l.foldl (fun a n => a + max 1 (c.bondSize n)) 0

/-- Whether the power quota of one side of tenant `f` is exceeded by the squares `l` with these POWER_SETs (R215, R360) (DEDUCED, log 65). -/
def Chip.sideOver (c : Chip) (f : Nat) (ul : Bool) (l : List Nat) (ps : Nat → Nat) : Bool :=
  let q := if ul then c.ten? (F.TEN_QUOTA_PWR_DONOR f) else c.ten? (F.TEN_QUOTA_PWR_SERVICE f)
  let l := l.filter fun n => isUl n = ul
  if q = 0x7FFF then false
  else if q = 0x8000 then !l.isEmpty
  else decide (lin (toS 16 q) < l.foldl (fun a n => if ps n = 0x8000 then a else a + lin (toS 16 (ps n))) 0)

/-- Whether tenant `f` exceeds a quota with these squares enabled, POWER_SETs and gain modes (R215, R360). -/
def Chip.quotaBad (c : Chip) (f : Nat) (en : Nat → Bool) (ps mode : Nat → Nat) : Bool :=
  let mine := c.quotaSet f en
  decide (min 128 (c.ten? (F.TEN_QUOTA_SQUARES f)) < c.quotaCount mine) ||
  c.sideOver f true mine ps || c.sideOver f false mine ps || mine.any fun n => mode n ≠ 0

/-- QUOTA of R215 after the plan of context `x`. -/
def Chip.quotaAfter (c : Chip) (x f : Nat) : Bool :=
  c.quotaBad f (c.enAfter x) (fun n => c.after x n (F.RK_PSET_POWER_SET (n / 8) (n % 8))) fun n => c.after x n (F.SQ_CTRL_GAIN_MODE n)

/-- Whether square `n` is charged after the plan (R132, R136): enabled after it or up to it, or still charged. -/
def Chip.charged (c : Chip) (x n : Nat) : Bool :=
  c.acts n && (c.enAfter x n || c.on (F.SQ_CTRL_ENABLE n) || (match (c.sq n).chargedTo with
    | none => false
    | some t => decide (c.air.tempi ≤ t)))

/-- The lowest-numbered square target of the plan in a set, else another target. -/
def attrib (l : List Nat) (p : Nat → Bool) (other : Nat) : Nat := (l.find? fun t => t < 128 && p t).getD other

/-- The checks of R213 on the plan of context `x`: the reason and target of the first that fails. -/
def Chip.check (c : Chip) (x : Nat) : Option (Nat × Nat) :=
  let ts := c.claimsOf x
  if !c.gpl.imgOk then some (2, 0xFF) else
  match ts.find? fun t => c.gpl.badStage.any fun a => targetOf a = t with
  | some t => some (3, t)
  | none =>
    match ts.findSome? fun t => if c.targetTest x t = 0 then none else some (c.targetTest x t, t) with
    | some r => some r
    | none =>
      match ts.find? fun t => t < 128 && c.owner t ≠ 0 && c.quotaAfter x (c.owner t) with
      | some t => some (11, t)
      | none =>
        let ch := allSquares.filter fun n => c.charged x n
        match (List.range 16).findSome? fun k =>
            if 12500000 < (ch.filter fun n => n / 8 = k).foldl (fun a n => a + c.tapBw n) 0 then
              some (12, attrib ts (fun t => t / 8 = k) (128 + k)) else none with
        | some r => some r
        | none =>
          (List.range 4).findSome? fun w =>
            if 10 * c.rd (F.WG_SHARE_SHARE_MHZ w) < (ch.filter fun n => n / 32 = w).foldl (fun a n => a + c.slotBw n) 0 then
              some (13, attrib ts (fun t => t / 32 = w) (144 + w)) else none

/-! ## Application (R176, R213, R216) -/

/-- CLEAR of R148. -/
def Chip.ecClear (c : Chip) (n : Nat) : Chip :=
  let c := (c.setSq n fun q => { q with
    ec := [], eps := [], epsInit := [], vRes := [], vPhys := [], iEff := none, iPhys := none, estNew := none, ecSat := 0 }).dropEst n
  let c := (c.wr (F.SQ_EC_MARGIN_I_PHYS n) 0x8000).clearDiverged n
  c.forEach (List.range 64) fun p c =>
    ((c.wr (F.SQ_EC_PATH_DEPTH n p) 0).wr (F.SQ_EC_PATH_ISO_RES n p) 0x8000).wr (F.SQ_EC_PATH_ISO_PHYS n p) 0x8000

/-- A change of ENABLE takes effect at the boundary (R130, R132, R176). -/
def Chip.applyEnable (c : Chip) (n : Nat) (was : Bool) : Chip :=
  if c.on (F.SQ_CTRL_ENABLE n) then
    if c.sqState n = 0 ∧ c.acts n then
      (((c.wr (F.SQ_STATUS_STATE n) 1).startStreams n).setSq n fun q => { q with fillAt := c.air.mono, onAll := false }).initX n
    else c
  else
    let c := c.when was fun c => c.setSq n fun q => { q with chargedTo := some c.air.tempi }
    if c.sqState n = 1 ∨ c.sqState n = 5 then c.enterOff n else c.startMute n

/-- What a plan does to a square that is its target, beside the values: `was` and `bank` are ENABLE and MAT_BANK before it. -/
def Chip.applySquare (c : Chip) (n : Nat) (was : Bool) (bank : Nat) : Chip :=
  let k := n / 8
  let s := n % 8
  let c := c.setSq n fun q => { q with oscLimit := none }
  let c := c.when (c.on (F.SQ_EC_CTRL_CLEAR n)) fun c => (c.ecClear n).wr (F.SQ_EC_CTRL_CLEAR n) 0
  let c := c.when (!c.on (F.SQ_EC_CTRL_EC_EN n)) fun c => c.dropEst n
  let c := c.when (c.rd (F.RK_SQCTL_MAT_BANK k s) ≠ bank) fun c =>
    c.forEach ((List.range 8).filter fun i => c.rd (F.RK_SQCTL_N_STATES k s) ≤ i) fun i c => c.setX n i 0
  let c := c.when (c.on (F.RK_SQCTL_X_INIT k s)) fun c => (c.initX n).wr (F.RK_SQCTL_X_INIT k s) 0
  c.applyEnable n was

/-- The gains, margins and latched measurements of a boundary under the present values (R154–R157, R169). -/
def Chip.gainsNow (c : Chip) : Chip :=
  c.forEach (allSquares.filter fun n => c.enabled n) fun n c =>
    ((c.settle n).when (c.isLoop n) fun c => c.latchY n).setSq n fun q => { q with assessDue := true }

/-- What every applied plan brings once its values are active: the targets' own effects, the RX_GAIN latch (R127), placement
mutes (R202), wing limits (R37), PLANNED (R57), and the gains of the boundary. -/
def Chip.planEffects (c : Chip) (old : Chip) (ts : List Nat) : Chip :=
  let c := c.wr F.TOP_IMG_STATUS_PLANNED 1
  let c := { c with rxGain := (List.range 16).foldl (fun m l => SMap.put 0 m l (c.rdS (F.RFC_CHAIN_RX_GAIN l))) [] }
  let c := ts.foldl (fun c t =>
    if t < 128 then c.applySquare t (old.on (F.SQ_CTRL_ENABLE t)) (old.rd (F.RK_SQCTL_MAT_BANK (t / 8) (t % 8)))
    else if t < 144 then c.rankPhase (t - 128) else c) c
  let c := c.forEach (allSquares.filter fun n => c.on (F.SQ_STATUS_MS_PLACEMENT n)) fun n c =>
    if c.placedNow n then c.clrMs .placement n else c
  (c.refreshWings).gainsNow

/-- GPL_LAST and the count of applied plans (R223). -/
def Chip.gplLast (c : Chip) (planId ctx : Nat) : Chip :=
  (((c.wr F.GPL_LAST_PLAN_ID planId).wr F.GPL_LAST_CTX ctx).wr F.GPL_LAST_TEMPO (c.now / 4096)).inc F.GPL_COUNT_APPLIED

/-- Every shadow value of the targets of context `x` becomes active. -/
def Chip.activate (c : Chip) (x : Nat) : Chip :=
  c.shadow.foldl (fun d p =>
    if c.claims.find (targetOf (keyAddr p.1)) = some x then
      match (regAt (keyAddr p.1)).bind fun l => l.find? fun r => r.fld.key = p.1 with
      | none => d
      | some r => d.wr r.fld p.2
    else d) c

/-- The plan of context `x` is checked, and applied whole or failed (R213, R216). -/
def Chip.takePlan (c : Chip) (x : Nat) : Chip :=
  let c := (c.wr (F.GPL_DONE_AT_AT x) c.now).setGpl fun g => { g with due := g.due.filter fun p => p.1 ≠ x }
  match c.check x with
  | some (reason, t) =>
    let c := ((c.wr (F.GPL_STATUS_STATE x) 5).wr (F.GPL_STATUS_REASON x) reason).wr (F.GPL_STATUS_TARGET x) t
    (c.inc F.GPL_COUNT_FAILED).raise (F.GPL_CTX_INT_STATUS_FAILED x)
  | none =>
    let ts := c.claimsOf x
    let d := ((c.activate x).unclaim x).planEffects c ts
    let d := d.gplLast (c.rd (F.GPL_STATUS_PLAN_ID x)) x
    let d := ((d.wr (F.GPL_STATUS_STATE x) 4).wr (F.GPL_STATUS_REASON x) 1).wr (F.GPL_STATUS_TARGET x) 0xFF
    d.raise (F.GPL_CTX_INT_STATUS_APPLIED x)

/-- The plan of context `x` is taken at its boundary, and then what would have dropped it (R217). -/
def Chip.runPlan (c : Chip) (x : Nat) : Chip := (c.takePlan x).dropLate x

/-- A withdrawal (R212, R362, R364): ENABLE = 0 on squares that stand for themselves; it claims nothing and cannot fail. -/
def Chip.withdraw (c : Chip) (ns : List Nat) : Chip :=
  if ns.isEmpty then c else
  let d := c.forEach ns fun n c => (c.keepShadow (F.SQ_CTRL_ENABLE n) n).wr (F.SQ_CTRL_ENABLE n) 0
  ((d.planEffects c ns).gplLast 0 15).raise F.GPL_INT_STATUS_WITHDRAW

/-- PLAN_APPLY (R211, R212): at its boundary, after the scheduled plans of the boundary and the commits before it. -/
def execPlanApply (ctx : Fin 10) (s : State) : Host.Outcome State Fault Refusal :=
  s.onChip fun c =>
    let sched := c.schedFirst ∨ c.air.taken.any (fun o => o.kind = 3 && o.fire = (c.now : Int))
    match c.gpl.due.find? fun p => decide (p.2 ≤ c.air.tempi) with
    | none => c
    | some p => if c.air.onB ∧ ¬sched ∧ !c.tenDue ∧ p.1 = ctx then (c.runPlan ctx).assessRest.clearRest else c

/-- PLAN_FIRE (R77, R211, R212): every PLAN occurrence of the boundary; the plans that wait for one are applied in ascending
context. An occurrence whose boundary has passed is SKIPPED (R81) (DESIGN CHOICE, log 87). -/
def execPlanFire (s : State) : Host.Outcome State Fault Refusal :=
  s.onChip fun c => Chip.clearRest <| Chip.assessRest <|
    match c.air.taken with
    | [] => c
    | o :: _ =>
      if o.kind ≠ 3 then c
      else if o.fire < (c.now : Int) then c.loseAll 4 fun p => p.kind = 3 && p.fire = o.fire
      else if !c.air.onB ∨ c.tenDue ∨ o.fire ≠ (c.now : Int) then c
      else
        let mine := fun p : Occ => p.kind = 3 && p.fire = o.fire
        let os := c.air.taken.filter mine
        let c := c.setAir fun a => { a with taken := a.taken.filter fun p => !mine p }
        let c := os.foldl (fun c p => c.when (c.sameArming p) fun c => c.retire p.entry 2) c
        let wait := fun (p : Occ) (x : Nat) => c.rd (F.GPL_STATUS_STATE x) = 3 && c.rd (F.GPL_STATUS_PLAN_ID x) = p.target
        let xs := (List.range 10).filter fun x => os.any fun p => wait p x
        let c := c.when (os.any fun p => (List.range 10).all fun x => !wait p x) fun c => c.raise F.GPL_INT_STATUS_ORPHAN
        let c := c.when (!xs.isEmpty) fun c => c.setGpl fun g => { g with schedAt := some c.air.tempi }
        c.forEach xs fun x c => c.runPlan x

/-- Whether something that takes ENABLE of square `n` away waits at this boundary: tenancy, a plan due now, or the plan of a PLAN
occurrence (R132, R212). -/
def Chip.leaving (c : Chip) (n : Nat) : Bool :=
  c.tenDue || (match c.claims.find n with
    | none => false
    | some x => decide (c.shadow.find (F.SQ_CTRL_ENABLE n).key = some 0) && c.planHere x)

/-- UNMUTE_START (R130, R132): at a boundary with no mute source active and no ENABLE = 0 to come. -/
def execUnmuteStart (sq : Fin 128) (s : State) : Host.Outcome State Fault Refusal :=
  s.onChip fun c => if c.sqState sq = 5 ∧ c.air.onB ∧ !c.muted sq ∧ !c.leaving sq then c.enterRampUp sq else c

/-- FILL_DONE (R130): at the first boundary after the fill time; an ENABLE = 0 that comes at that boundary goes first, and takes the
square to OFF. -/
def execFillDone (sq : Fin 128) (s : State) : Host.Outcome State Fault Refusal :=
  s.onChip fun c =>
    if c.sqState sq = 1 ∧ c.air.onB ∧ c.filled sq (c.sq sq).fillAt ∧ !c.leaving sq then
      if c.muted sq then c.enterMuted sq else c.enterRampUp sq
    else c

/-- The state of the last core cycle before the boundary, as the checks see it (R202, R213); a plan that the boundary before did not take
after all is dropped by what came at it (R217). -/
def Chip.gplSnap (c : Chip) : Chip :=
  let c := (c.forEach c.gpl.late fun x c => c.dropLate x).clearLate
  let st := c.rd F.TOP_IMG_STATUS_STATE
  let bad := fun (l : List Nat) len => l.foldl (fun a k => setIns (k / len) a) []
  let ms := fun (l : List Ms) n => l.any fun m => c.on (m.fld n)
  c.setGpl fun g => { g with
    faulted := allSquares.filter fun n => ms [.fault, .group, .rank] n || (c.on (F.SQ_STATUS_MS_WING n) && c.wingFaulted (n / 32))
    protectd := allSquares.filter fun n => ms [.protect, .stop, .bridge] n
    badRank := (List.range 16).filter fun k => c.on (F.RK_STATUS_FAULT k)
    badWing := (List.range 4).filter fun w => c.wingFaulted w
    badFir := allSquares.flatMap fun n => (bad (c.sq n).coefBad 384).map (2 * n + ·)
    badMat := (List.range 16).flatMap fun k => (bad (c.rk k).matBad 172).map (16 * k + ·)
    badStage := g.badShadow
    imgOk := st ≠ 0 && st ≠ 1 && c.on F.TOP_IMG_STATUS_RESOLVED }

/-- GPL_RECOV.SQUARES (R221). -/
def Chip.inRecovery (c : Chip) : Nat :=
  allSquares.countP fun n => [Ms.fault, .group, .rank, .protect, .bridge].any (fun m => c.on (m.fld (c.leader n))) ||
    (c.on (F.SQ_STATUS_MS_WING (c.leader n)) && c.wingFaulted (n / 32))

end Sys2Proof.Machine
end

