-- ==== Sys2Proof/Machine/Air.lean ====
section
/-!
DEFINITION. The Air Timeline (R62–R74, R85): lock sources, the step, trim and slewing, the timeline's states and its
hold, the two timing outputs, and the latch of AIR_POS.
-/

namespace Sys2Proof.Machine

/-! ## Effective state and hold (R73, R74) -/

/-- The effective state: 0 = ACQUIRE, 1 = LOCKED, 2 = HOLDOVER, 3 = LOST (R74). -/
def Chip.effState (c : Chip) : Nat :=
  let own := c.rd F.AIR_STATUS_STATE
  if c.rd F.AIR_CTRL_SOURCE ≠ 3 then own else
  let m := c.rd F.AIR_STATUS_MASTER_STATE
  if own = 0 ∨ m = 0 then 0 else if own = 3 ∨ m = 3 then 3 else if own = 2 ∨ m = 2 then 2 else 1

/-- Whether the hold applies: the effective state is ACQUIRE or LOST (R73). -/
def Chip.holdDue (c : Chip) : Bool := c.effState = 0 || c.effState = 3

/-- The hold comes with the state that brings it (R73). -/
def Chip.holdEval (c : Chip) : Chip := c.when c.holdDue fun c => (c.wr F.AIR_STATUS_HELD 1).refreshHold

/-- HOLD_RELEASE (R73): at a tempo boundary, once the effective state has left ACQUIRE and LOST (DESIGN CHOICE, log 126). -/
def execHoldRelease (s : State) : Host.Outcome State Fault Refusal :=
  s.onAir fun c =>
    if c.air.onB && c.on F.AIR_STATUS_HELD && !c.holdDue then
      (c.wr F.AIR_STATUS_HELD 0).forEach allSquares fun n c => c.clrMs .hold n
    else c

/-! ## Slewing and states -/

/-- The remaining error, in 2^-8 Tc (R71). -/
def Chip.remaining (c : Chip) : Int :=
  match c.air.lastDet with
  | none => 0
  | some d => d.err - 256 * c.air.slewed

/-- Slewing is in progress (R71, R72): in LOCKED, while 1 Tc or more remains. -/
def Chip.slewing (c : Chip) : Bool := c.rd F.AIR_STATUS_STATE = 1 && decide (256 ≤ c.remaining.natAbs)

/-- Bring AIR_STATUS.SLEWING in line. -/
def Chip.refreshSlew (c : Chip) : Chip := c.wrB F.AIR_STATUS_SLEWING c.slewing

/-- The timeline's own state becomes `st` (R72). COAST reads 1 in LOCKED only; LOST is recorded (R311). -/
def Chip.airState (c : Chip) (st : Nat) : Chip :=
  let was := c.rd F.AIR_STATUS_STATE
  let c := (c.wr F.AIR_STATUS_STATE st).when (was ≠ st) fun c => (c.raise F.AIR_INT_STATUS_STATE_CHG).wr F.AIR_STATUS_COAST 0
  let c := c.when (was ≠ st && st = 3) fun c => c.bbEvent 0x13 0
  c.holdEval.refreshSlew

/-- ACQUIRE is entered (R70, R72): no pending step, the count at 0, no SYNC edge seen. -/
def Chip.enterAcquire (c : Chip) : Chip :=
  (c.setAir fun a => { a with
    pendStep := none, stepped := false, lockCnt := 0, lastDet := none, slewed := 0, syncAt := none }).airState 0

/-- TRIM takes a value (R63, R71): the converters' instants follow it (R270). -/
def Chip.setTrim (c : Chip) (t : Nat) : Chip := let c := c.wr F.AIR_TRIM_TRIM t; c.hkTurn c.smoothAt 0 0

/-- RESTART, or a change of SOURCE or numerology (R65, R71, R72): ACQUIRE, the held EPOCH withdrawn, TRIM 0 where the rule
says so. -/
def Chip.restart (c : Chip) (trim : Bool) : Chip :=
  (c.when trim fun c => c.setTrim 0).enterAcquire.setAir fun a => { a with heldEpoch := none }

/-! ## Detections (R69–R72) -/

/-- The detection that justifies the next step (R70). -/
def Chip.pendDet (c : Chip) (d : Detection) : Chip := c.setAir fun a => { a with pendStep := some d }

/-- A valid detection that counts: the trim follows it in LOCKED, and slewing starts from it (R71). -/
def Chip.markDet (c : Chip) (d : Detection) (trim : Bool) : Chip :=
  let c := match c.air.lastDet with
    | none => c
    | some p =>
      let de := d.err + 256 * c.air.slewed - p.err
      let dt := d.time - p.time
      c.when (trim && decide (0 < dt)) fun c =>
        c.setTrim (ofS 32 (clampI (-50000) 50000 (c.rdS F.AIR_TRIM_TRIM - rndDiv (de * 10 ^ 9) (1024 * dt))))
  (c.setAir fun a => { a with lastDet := some d, slewed := 0 }).wr F.AIR_STATUS_COAST 0

/-- A detection that meets every condition of R69 but the window is evaluated (R70–R72) (DESIGN CHOICE, log 21). -/
def Chip.detect (c : Chip) (d : Detection) : Chip :=
  let within := fun f => decide (d.err.natAbs ≤ 256 * c.rd f)
  let c := c.wrS F.AIR_STATUS_LAST_ERR (rndDiv d.err 256)
  match c.rd F.AIR_STATUS_STATE with
  | 0 =>
    if !c.air.stepped then (if c.air.pendStep.isNone then c.pendDet d else c)
    else if within F.AIR_WIN_LOCK_WIN then
      let c := (c.markDet d false).setAir fun a => { a with lockCnt := a.lockCnt + 1 }
      if c.rd F.AIR_TIMING_LOCK_COUNT ≤ c.air.lockCnt then c.airState 1 else c
    else c.setAir fun a => { a with lockCnt := 0 }
  | 1 => if within F.AIR_WIN_LOCK_WIN then (c.markDet d true).refreshSlew else c
  | 2 =>
    if within F.AIR_WIN_SLEW_WIN then (c.markDet d false).airState 1
    else c.enterAcquire.pendDet d
  | _ => c.enterAcquire.pendDet d

/-- AT against an SFN-cycle position, nearest (R71): positive when AT runs ahead. -/
def Chip.errFrom (c : Chip) (pos : Int) : Int :=
  ((c.now : Int) - pos + (sfnCycle / 2 : Nat)) % (sfnCycle : Nat) - (sfnCycle / 2 : Nat)

/-- A detection of the present instant from the position it gives. -/
def Chip.detAt (c : Chip) (pos : Int) : Detection :=
  { err := 256 * c.errFrom pos, pos := (pos % (sfnCycle : Nat)).toNat, time := c.air.mono }

/-- Whether the carrier or the PCI makes CFG_ERR read 1 (R68). -/
def Chip.cfgBad (c : Chip) : Bool :=
  let b := c.rd F.AIR_CELL_BAND_IDX
  let f := c.rd F.AIR_CELL_SSB_FREQ
  c.rd F.AIR_CTRL_SOURCE = 1 &&
  (decide (f < 100 * c.rd (F.AIR_BAND_DL_LO b)) || decide (100 * c.rd (F.AIR_BAND_DL_HI b) < f) ||
    (c.on F.AIR_CTRL_RAT && decide (503 < c.rd F.AIR_CELL_PCI)))

/-- CFG_ERR is judged again (R68). -/
def Chip.cfgEval (c : Chip) : Chip :=
  let bad := c.cfgBad
  let c := c.when (bad && !c.on F.AIR_STATUS_CFG_ERR) fun c => c.raise F.AIR_INT_STATUS_CFG_ERR
  c.wrB F.AIR_STATUS_CFG_ERR bad

/-- CELL_DETECTION (R68, R69): the tracker found a block with this correlation (in steps of 0.5 dB above its noise floor) and
PCI; `pos` is the SFN-cycle position its PBCH gives for the present instant. -/
def execCellDetection (corr pci : Nat) (pbchOk : Bool) (pos : Nat) (s : State) : Host.Outcome State Fault Refusal :=
  s.onAir fun c =>
    if c.rd F.AIR_CTRL_SOURCE = 1 ∧ !c.on F.AIR_STATUS_CFG_ERR ∧ c.rd F.AIR_CELL_DET_THR < corr ∧
        pci = c.rd F.AIR_CELL_PCI ∧ pbchOk then c.detect (c.detAt pos)
    else c

/-- The SFN-cycle position of an edge of the external source: the frame boundary nearest to the Tc since the last SYNC edge,
with EXT_DELAY between the ball edge and the instant AT refers to (R62, R69) (DESIGN CHOICE, log 21). -/
def Chip.extPos (c : Chip) (sync : Nat) : Int :=
  ((c.air.mono - sync + 9830400) / 19660800 * 19660800 : Nat) - c.rdS F.AIR_EXT_EXT_DELAY

/-- PPS_EDGE (R69): an edge of PPS_IN; it needs a SYNC edge since ACQUIRE was entered. The ZMD observes the ball too (R240) (DESIGN CHOICE, log 21). -/
def execPpsEdge (rising : Bool) (s : State) : Host.Outcome State Fault Refusal :=
  s.onPkg fun c =>
    let c := c.when c.zmd.mem.run fun c => c.setZm fun z => { z with pps := some z.zt }
    if c.rd F.AIR_CTRL_SOURCE = 2 ∧ rising = !c.on F.AIR_EXT_PPS_POL then
      match c.air.syncAt with
      | none => c
      | some t => c.detect (c.detAt (c.extPos t))
    else c

/-- SYNC_EDGE (R69): an edge of SYNC_IN marks SFN 0, and is itself a detection. It counts as seen in the ACQUIRE that it enters. -/
def execSyncEdge (rising : Bool) (s : State) : Host.Outcome State Fault Refusal :=
  s.onAir fun c =>
    if c.rd F.AIR_CTRL_SOURCE = 2 ∧ rising = !c.on F.AIR_EXT_SYNC_POL then
      let c := c.setAir fun a => { a with syncAt := some a.mono }
      (c.detect (c.detAt (c.extPos c.air.mono))).setAir fun a => { a with syncAt := some a.mono }
    else c

/-- COAST_TIMEOUT (R72): one SSB period without a valid detection (DESIGN CHOICE, log 8). -/
def execCoastTimeout (s : State) : Host.Outcome State Fault Refusal :=
  s.onAir fun c => c.when (c.rd F.AIR_STATUS_STATE = 1) fun c => c.wr F.AIR_STATUS_COAST 1

/-- HOLD_TIMEOUT (R72): HOLD_MS without a valid detection. -/
def execHoldTimeout (s : State) : Host.Outcome State Fault Refusal :=
  s.onAir fun c => c.when (c.rd F.AIR_STATUS_STATE = 1) fun c => c.airState 2

/-- HOLDOVER_TIMEOUT (R72): HOLDOVER_MS in HOLDOVER. -/
def execHoldoverTimeout (s : State) : Host.Outcome State Fault Refusal :=
  s.onAir fun c => c.when (c.rd F.AIR_STATUS_STATE = 2) fun c => c.airState 3

/-! ## The step (R65, R70, R81) -/

/-- The spacing of the rises of PPS_OUT and SYNC_OUT (R85). -/
def outPeriod (sync : Bool) : Nat := if sync then sfnCycle else 1966080000

/-- Whether AT stands within the 196,608 Tc from a multiple of the output's period (R85). -/
def Chip.outDue (c : Chip) (sync : Bool) : Bool := decide (c.now % outPeriod sync < 196608)

/-- An enabled output has the level that AT gives it (R85), after a step or its enable (DEDUCED, log 24). -/
def Chip.outEval (c : Chip) (sync : Bool) : Chip :=
  if sync then c.setAir fun a => { a with
    syncOut := c.on F.AIR_CTRL_SYNC_OUT_EN && c.outDue true, syncRise := c.now - c.now % outPeriod true }
  else c.setAir fun a => { a with
    ppsOut := c.on F.AIR_CTRL_PPS_OUT_EN && c.outDue false, ppsRise := c.now - c.now % outPeriod false }

/-- The new AT of a step (R65, R70): the value nearest the present one whose SFN-cycle position is the detection's carried
forward, the later of two; or that of the held EPOCH. AT has no negative value (DESIGN CHOICE, log 22). -/
def Chip.stepTarget (c : Chip) (d : Detection) : Nat :=
  let carried := d.pos + (c.air.mono - d.time)
  match c.air.heldEpoch with
  | some e => e * sfnCycle + carried
  | none =>
    let up := ((carried : Int) - c.now) % (sfnCycle : Nat)
    let t := c.now + up
    let down := t - (sfnCycle : Nat)
    if up ≤ (sfnCycle / 2 : Nat) ∨ down < 0 then t.toNat else down.toNat

/-- Whether a taken occurrence that is due by now has not fired yet: it fires before the step (R81). -/
def Chip.occDue (c : Chip) : Bool := c.air.taken.any fun o => decide (o.fire ≤ (c.now : Int))

/-- AT_STEP (R70): at a tempo boundary in ACQUIRE, with a pending step. The step is the last thing at its boundary. Play
buffers are flushed (R395), and the timing outputs follow the new AT (DESIGN CHOICE, log 22). -/
def execAtStep (s : State) : Host.Outcome State Fault Refusal :=
  s.onAir fun c =>
    match c.air.pendStep with
    | none => c
    | some d =>
      if c.rd F.AIR_STATUS_STATE ≠ 0 ∨ !c.air.onB ∨ c.on F.AIR_STATUS_CFG_ERR ∨ c.occDue then c else
      let old := c.now
      let new := c.stepTarget d % 2 ^ 64
      let c := ((c.setAt new).hkTurn c.smoothAt ((new : Int) - old) 0).setAir fun a => { a with
        pendStep := none, stepped := true, lockCnt := 0, lastDet := none, slewed := 0, heldEpoch := none, onB := false,
        notBefore := a.mono + 4096 }
      let c := ((c.schedStep old new).inc F.AIR_STATUS_STEPS).raise F.AIR_INT_STATUS_STEP
      (((c.setChl fun x => { x with play := [] }).wr F.CHL_SYS_BUF_USED 0).outEval false).outEval true

/-- EPOCH_ROLLOVER (R65): AT advances across the next multiple of C, if no tempo boundary lies before it, and EPOCH follows. -/
def execEpochRollover (s : State) : Host.Outcome State Fault Refusal :=
  s.onAir fun c =>
    let d := c.reach ((c.now / sfnCycle + 1) * sfnCycle)
    d.setAt d.now

/-- A write of AIR_EPOCH (R65): accepted in ACQUIRE, and held until the next step. -/
def Chip.epochWrite (c : Chip) (h : Half) (v : Nat) : Chip :=
  c.when (h.hasLo && decide (c.rd F.AIR_STATUS_STATE = 0)) fun c => c.setAir fun a => { a with heldEpoch := some (v % 2 ^ 32) }

@[inherit_doc Chip.epochWrite]
def execAirEpochWrite (q : Requester) (value : Nat) (s : State) : Host.Outcome State Fault Refusal :=
  s.onAccess q fun c => c.write q 0x100048 fun c => c.epochWrite .lo value

/-! ## AIR_CTRL (R66, R72, R82) -/

/-- The combinations of RAT, MU and ECP that the table of R66 holds. -/
def numerOk (rat mu ecp : Nat) : Bool := [(0, 0, 0), (0, 1, 0), (0, 2, 0), (0, 2, 1), (1, 0, 0)].contains (rat, mu, ecp)

/-- CHL_SYS.MASTER and HOPS follow SOURCE (R74, R401), and a master knows no other (R194): a package that becomes a slave knows no HOPS yet (DESIGN CHOICE, log 25). -/
def Chip.masterEval (c : Chip) : Chip :=
  if c.rd F.AIR_CTRL_SOURCE ≠ 3 then ((c.wr F.CHL_SYS_MASTER 1).wr F.CHL_SYS_HOPS 0).setChl fun x => { x with master := none }
  else (c.when (c.on F.CHL_SYS_MASTER) fun c => c.wr F.CHL_SYS_HOPS 15).wr F.CHL_SYS_MASTER 0

/-- A write of AIR_CTRL. -/
def Chip.airCtrl (c : Chip) (h : Half) (v : Nat) : Chip :=
  if !h.hasLo then c else
  let src := bits v 0 2
  let num := (bits v 3 1, bits v 4 3, bits v 7 1)
  let ok := numerOk num.1 num.2.1 num.2.2
  let old := (c.rd F.AIR_CTRL_RAT, c.rd F.AIR_CTRL_MU, c.rd F.AIR_CTRL_ECP)
  let srcNew := decide (src ≠ c.rd F.AIR_CTRL_SOURCE)
  let numNew := ok && decide (num ≠ old)
  let c := (c.wr F.AIR_CTRL_SOURCE src).wr F.AIR_CTRL_CHL_PORT (bits v 2 1)
  let c := c.when ok fun c => ((c.wr F.AIR_CTRL_RAT num.1).wr F.AIR_CTRL_MU num.2.1).wr F.AIR_CTRL_ECP num.2.2
  let pps := !c.on F.AIR_CTRL_PPS_OUT_EN && bit v 8
  let sync := !c.on F.AIR_CTRL_SYNC_OUT_EN && bit v 9
  let c := (c.wr F.AIR_CTRL_PPS_OUT_EN (bits v 8 1)).wr F.AIR_CTRL_SYNC_OUT_EN (bits v 9 1)
  let c := c.setAir fun a => { a with ppsOut := a.ppsOut && bit v 8, syncOut := a.syncOut && bit v 9 }
  let c := (c.when pps fun c => c.outEval false).when sync fun c => c.outEval true
  let c := c.when numNew Chip.rejudge
  let c := c.cfgEval.masterEval
  if srcNew || numNew || bit v 10 then c.restart (srcNew || bit v 10) else c.holdEval

/-- AIR_CTRL_WRITE (R66, R72). -/
def execAirCtrlWrite (q : Requester) (half : Half) (value : Nat) (s : State) : Host.Outcome State Fault Refusal :=
  s.onAccess q fun c => c.write q 0x100000 fun c => c.airCtrl half (half.image value)

/-- AIR_RESTART (R72): a write of RESTART that leaves the other fields of AIR_CTRL as they are. -/
def execAirRestart (q : Requester) (s : State) : Host.Outcome State Fault Refusal :=
  s.onAccess q fun c => c.write q 0x100000 fun c => c.restart true

/-! ## Timing outputs (R85) -/

/-- TIMING_OUTPUT_RISE (R85): AT stands in the high span from a multiple or reaches the next one, and the output is enabled. -/
def execTimingOutputRise (sync : Bool) (s : State) : Host.Outcome State Fault Refusal :=
  s.onAir fun c =>
    let c := if c.outDue sync then c else c.reach ((c.now / outPeriod sync + 1) * outPeriod sync)
    c.when (c.outDue sync) fun c => c.outEval sync

/-- TIMING_OUTPUT_FALL (R85): 196,608 Tc after the rise. -/
def execTimingOutputFall (sync : Bool) (s : State) : Host.Outcome State Fault Refusal :=
  s.onAir fun c =>
    if sync then
      let t := c.air.syncRise + 196608
      c.when (c.air.syncOut && c.canBe t) fun c => (c.reach t).setAir fun a => { a with syncOut := false }
    else
      let t := c.air.ppsRise + 196608
      c.when (c.air.ppsOut && c.canBe t) fun c => (c.reach t).setAir fun a => { a with ppsOut := false }

/-! ## AIR_POS (R86) -/

/-- SFN, slot and symbol of an AT (R65–R67, R86). -/
def Numer.position (u : Numer) (t : Nat) : Nat × Nat × Nat :=
  let o := t % 19660800
  let sub := o / 1966080
  let r := o % 1966080
  let spf := 2 ^ u.mu
  let sfn := t % sfnCycle / 19660800
  if u.ecp then (sfn, sub * spf + r / 491520, r % 491520 / 40960) else
  let len := 140288 / 2 ^ u.mu
  let half := 7 * 2 ^ u.mu
  let x := r % 983040
  let q := r / 983040 * half + (if x < 1024 + len then 0 else (x - 1024) / len)
  (sfn, sub * spf + q / 14, q % 14)

/-- AIR_POS takes the position of the AT just read (R86). -/
def Chip.latchPos (c : Chip) : Chip :=
  let p := c.numer.position c.now
  ((c.wr F.AIR_POS_SFN p.1).wr F.AIR_POS_SLOT p.2.1).wr F.AIR_POS_SYMBOL p.2.2

/-- AIR_AT_READ (R3, R86). -/
def execAirAtRead (q : Requester) (half : Half) (s : State) : Host.Outcome State Fault Refusal :=
  s.onAccess q fun c => c.read q 0x100038 half Chip.now fun c => c.when half.hasLo Chip.latchPos

/-! ## The AIR cycle (R63) -/

/-- One AIR cycle with nothing commanded (R63): AT takes the whole Tc that the accumulator holds. It stops short of the next tempo
boundary, which is an event of its own (R64): the accumulator carries what lies beyond, and no cycle passes until the boundary. -/
def Chip.airCycle (c : Chip) : Chip :=
  if 10 ^ 9 ≤ c.air.frac ∧ c.now + 1 = c.nextBoundary then c else
  let units := ((c.air.frac : Int) + 8 * (10 ^ 9 + c.rdS F.AIR_TRIM_TRIM) + c.air.slewAdj * 10 ^ 9).toNat
  let k := min (units / 10 ^ 9) (c.nextBoundary - 1 - c.now)
  (c.advance k).setAir fun a => { a with frac := units - k * 10 ^ 9, slewAdj := 0 }

/-- The slewing of a tempo boundary (R63, R71): one Tc is withheld while the remaining error is positive, added while it is
negative. -/
def Chip.slewStep (c : Chip) : Chip :=
  if !c.slewing then c.refreshSlew else
  let k : Int := if 0 < c.remaining then 1 else -1
  ((c.hkTurn c.smoothAt (-k) (-k)).setAir fun a => { a with slewed := a.slewed + k, slewAdj := a.slewAdj - k }).refreshSlew

end Sys2Proof.Machine
end

