-- ==== Sys2Proof/Machine/Int.lean ====
section
/-!
DEFINITION. The commands of the interrupt controller (R320–R332): requests, claims and completions, MSI-X messages,
moderation, routes, and the MARK occurrences that set a source pending.
-/

namespace Sys2Proof.Machine

/-! ## Requests (R320, R321) -/

/-- A request pulse of edge source `n`. In deep sleep it wakes the package, or is lost (R332). -/
def Chip.intPulse (c : Chip) (n : Nat) : Chip :=
  if !c.asleep then (c.intPend n).intEval
  else if c.on (F.INT_SRC_WAKE n) then ((c.wake 1 n).intPend n).intEval
  else c.setInt fun x => { x with lost := true }

/-- INT_REQUEST (R320): a level input has been asserted by its block's registers, or an edge source's input pulses. -/
def execIntRequest (n : Nat) (s : State) : Host.Outcome State Fault Refusal :=
  s.onAir fun c => if edgeInput n then c.intPulse n else
    if c.asleep then (if c.intInput n && c.on (F.INT_SRC_WAKE n) then c.wake 1 n else c) else
    (c.when (c.intPending n && !c.int.waitQ.contains n) fun c => c.setInt fun x => { x with waitQ := x.waitQ ++ [n] }).intEval

/-- INT_WITHDRAW (R320): a level input has been deasserted by its block's registers. -/
def execIntWithdraw (_n : Nat) (s : State) : Host.Outcome State Fault Refusal := s.onChip Chip.intEval

/-- A write of INT_SETPEND (R321). -/
def Chip.intSetpend (c : Chip) (n : Nat) : Chip := c.when (isSrc n) fun c => c.intPulse n

/-- INT_SETPEND (R321). -/
def execIntSetpend (q : Requester) (n : Nat) (s : State) : Host.Outcome State Fault Refusal :=
  s.onAccess q fun c => c.write q 0x1A00008 fun c => c.intSetpend (n % 2048)

/-- A write of INT_CLRPEND (R321): an asserted level input makes its source pending again at once (R331). -/
def Chip.intClrpend (c : Chip) (n : Nat) : Chip :=
  c.when (isSrc n) fun c => (c.setInt fun x => { x with
    pend := setDel n x.pend, waitQ := setDel n x.waitQ, timedOut := setDel n x.timedOut }).intEval

/-- INT_CLRPEND (R321). -/
def execIntClrpend (q : Requester) (n : Nat) (s : State) : Host.Outcome State Fault Refusal :=
  s.onAccess q fun c => c.write q 0x1A00010 fun c => c.intClrpend (n % 2048)

/-- MARK_FIRE (R77, R86): the mark's status bit, and interrupt 648 + m set pending if AIR_INT_EN enables it (DEDUCED, log 89). -/
def execMarkFire (s : State) : Host.Outcome State Fault Refusal :=
  s.onAir fun c => c.fire 7 fun o c =>
    let m := bits o.arg 0 4
    (c.wrBit F.AIR_INT_STATUS_MARK m true).when (c.rdBit F.AIR_INT_EN_EN (4 + m)) fun c => c.intPulse (648 + m)

/-! ## Claim and completion (R324–R327) -/

/-- Source `n` is taken: its pending state clears. -/
def Chip.intTake (c : Chip) (n : Nat) : Chip :=
  c.setInt fun x => { x with pend := setDel n x.pend, waitQ := setDel n x.waitQ, timedOut := setDel n x.timedOut }

/-- A claim by core `t` (R324, R325). -/
def Chip.intClaim (c : Chip) (q : Requester) (t : Nat) : Chip :=
  match c.lowest (c.eligible t) with
  | none =>
    let v := if c.int.lineSeen.contains t then 2047 else 0
    ((c.respond q v).setInt fun x => { x with lineSeen := setDel t x.lineSeen }).intEval
  | some n =>
    let pr := c.intPr t n
    let c := ((c.respond q n).intTake n).setInt fun x => { x with
      active := { num := n, tgt := t, pr := pr } :: x.active
      lineSeen := setDel t x.lineSeen
      stackOf := if pr < 16 then SMap.put [] x.stackOf t ((n, pr) :: c.intStack t) else x.stackOf }
    c.intEval

/-- INT_CLAIM (R324): a read of INT_CLAIM[t]; only core t claims. -/
def execIntClaim (q : Requester) (t : Fin 4) (s : State) : Host.Outcome State Fault Refusal :=
  s.onAccess q fun c =>
    if c.deaf q then c.unsupported q
    else if q = .core t then c.intClaim q t else c.refuse q false (0x1A00100 + 0x40 * t)

/-- An ignored completion (R327). -/
def Chip.eoiErr (c : Chip) (t n : Nat) : Chip :=
  (((c.raise F.INT_STATUS_EOI_ERR).wr F.INT_ERRLOG_NUM n).wr F.INT_ERRLOG_TARGET t).inc F.INT_ERRLOG_COUNT

/-- The source's ACTIVE clears; a level source is re-sampled, since its input alone then decides whether it is pending (R327). -/
def Chip.intDone (c : Chip) (p : ActInt → Bool) : Chip := (c.setInt fun x => { x with active := x.active.filter fun a => !p a }).intEval

/-- A completion by core `t` of number `n` (R327). -/
def Chip.intEoi (c : Chip) (t n : Nat) : Chip :=
  if !isSrc n then c else
  match c.int.active.find? fun a => a.num = n && a.tgt = t with
  | none => c.eoiErr t n
  | some a =>
    if 16 ≤ a.pr then c.intDone fun b => b.num = n && b.tgt = t
    else match c.intStack t with
      | [] => c.eoiErr t n
      | p :: l =>
        if p.1 ≠ n then c.eoiErr t n
        else (c.setInt fun x => { x with stackOf := SMap.put [] x.stackOf t l }).intDone fun b => b.num = n && b.tgt = t

/-- INT_EOI (R327): a write of INT_EOI[t]; only core t completes. -/
def execIntEoi (q : Requester) (t : Fin 4) (n : Nat) (s : State) : Host.Outcome State Fault Refusal :=
  s.onAccess q fun c =>
    if c.deaf q then c
    else if q = .core t then (c.respond q 0).intEoi t (n % 2048) else c.refuse q true (0x1A00108 + 0x40 * t)

/-- A write of INT_HEOI[f] (R328): the PF names a source, a VF a vector. -/
def Chip.intHeoi (c : Chip) (f n : Nat) : Chip :=
  if f = 0 then c.when (isSrc n) fun c => c.intDone fun a => a.num = n && a.tgt = 4
  else c.when (decide (n < 64)) fun c => c.intDone fun a => a.tgt = 4 + f && c.rd (F.INT_SRC_VECTOR a.num) = n

/-- INT_HEOI (R328). -/
def execIntHeoi (q : Requester) (f : Fin 9) (n : Nat) (s : State) : Host.Outcome State Fault Refusal :=
  s.onAccess q fun c => c.write q (0x1A00300 + 8 * f) fun c => c.intHeoi f (n % 2048)

/-! ## MSI-X (R328) -/

/-- The MSI-X vector of source `n` at a host target. -/
def Chip.msixVec (c : Chip) (n : Nat) : Nat := if c.rd (F.INT_SRC_TARGET n) = 4 then n else c.rd (F.INT_SRC_VECTOR n)

/-- The MSI-X table entry of function `f` and vector `v`: address, data, mask; masked at reset, as PCI Express has it (PRESUMED, log 32). -/
def Chip.msixEntry (c : Chip) (f v : Nat) : Nat × Nat × Bool := SMap.get (0, 0, true) c.int.msixTable (2048 * f + v)

/-- Whether function `f` sends messages of vector `v` now. -/
def Chip.msixOpen (c : Chip) (f v : Nat) : Bool :=
  c.int.msixEn.contains f && !c.int.msixMask.contains f && !(c.msixEntry f v).2.2 && (decide (f = 0) || c.vfExists f)

/-- The pending sources routed to a host function (DEDUCED, log 31). -/
def Chip.msixWaiting (c : Chip) : List Nat :=
  c.intEnabled.filter fun n => decide (4 ≤ c.rd (F.INT_SRC_TARGET n)) && decide (c.rd (F.INT_SRC_TARGET n) ≤ 12)

/-- The Pending Bit Array of function `f`: vector `v` waits while it is masked (R328). -/
def Chip.pba (c : Chip) (f v : Nat) : Bool :=
  !c.msixOpen f v && c.msixWaiting.any fun n => c.rd (F.INT_SRC_TARGET n) = 4 + f && c.msixVec n = v

/-- MSIX_ISSUE (R328): the first message in order passes to PCIE. -/
def execMsixIssue (s : State) : Host.Outcome State Fault Refusal :=
  s.onChip fun c =>
    match c.lowest (c.msixWaiting.filter fun n => c.msixOpen (c.rd (F.INT_SRC_TARGET n) - 4) (c.msixVec n)) with
    | none => c
    | some n =>
      let t := c.rd (F.INT_SRC_TARGET n)
      let e := c.msixEntry (t - 4) (c.msixVec n)
      ((c.intTake n).setInt fun x => { x with
        lastMsg := some { func := t - 4, vec := c.msixVec n, addr := e.1, data := e.2.1 }
        active := if intKind n = 0 then { num := n, tgt := t, pr := 0 } :: x.active else x.active }).intEval

/-! ## Moderation, routes, holds (R328–R330, R344) -/

/-- COALESCE_TIMEOUT (R330): the eligible source of target t that has waited longest has now waited COAL_TIME (DEDUCED, log 34). -/
def execCoalesceTimeout (t : Fin 4) (s : State) : Host.Outcome State Fault Refusal :=
  s.onChip fun c =>
    let l := c.eligible t
    match c.int.waitQ.find? fun n => l.contains n && !c.int.timedOut.contains n with
    | none => c
    | some n => (c.setInt fun x => { x with timedOut := setIns n x.timedOut }).intEval

/-- Whether a source may be routed to VF `f` (R329, R366, R382). -/
def Chip.routable (c : Chip) (f n : Nat) : Bool :=
  (decide (32 ≤ n) && decide (n < 160) && c.owner (n - 32) = f) ||
  (decide (256 ≤ n) && decide (n < 512) && n % 16 = f && bit (c.ten? (F.TEN_CFG_CAP_ENG f)) ((n - 256) / 16)) ||
  n = 768 + f || n = 779 + f || (decide (1024 ≤ n) && decide (n ≤ 1151) && (n - 1024) / 16 + 1 = f)

/-- A write of INT_SRC[n] (R322, R329). -/
def Chip.srcWrite (c : Chip) (n : Nat) (h : Half) (v : Nat) : Chip :=
  if !isSrc n || !h.hasLo then c else
  let p := bits v 0 8
  let t := bits v 8 4
  let c := c.when (decide (p < 16) || decide (16 ≤ n)) fun c => c.wr (F.INT_SRC_PRIO n) p
  let c := (c.wr (F.INT_SRC_EN n) (bits v 18 1)).wr (F.INT_SRC_WAKE n) (bits v 19 1)
  let c := if 5 ≤ t ∧ t ≤ 12 ∧ !c.routable (t - 4) n then c.raise F.INT_STATUS_ROUTE_REFUSED
    else (c.when (decide (t < 13)) fun c => c.wr (F.INT_SRC_TARGET n) t).wr (F.INT_SRC_VECTOR n) (bits v 12 6)
  c.intEval

/-- INT_ROUTE_WRITE (R329): the words of numbers 0 and 2,047, which belong to no source, take no write by anyone (R319). -/
def execIntRouteWrite (q : Requester) (n : Nat) (half : Half) (value : Nat) (s : State) : Host.Outcome State Fault Refusal :=
  s.onAccess q fun c => if !isSrc (n % 2048) then c.respond q 0 else
    c.write q (0x1A10000 + 8 * (n % 2048)) fun c => c.srcWrite (n % 2048) half (half.image value)

/-- Every source active at target `t` completes; a core's stack empties (R328, R344). -/
def Chip.intRelease (c : Chip) (t : Nat) : Chip :=
  (c.setInt fun x => { x with stackOf := SMap.put [] x.stackOf t [] }).intDone fun a => a.tgt = t

end Sys2Proof.Machine
end

