-- ==== Sys2Proof/Machine/Capture.lean ====
section
/-!
DEFINITION. Capture DMA (R368–R383): queues and descriptors, gather entries and element checks, records and completions,
writes in flight and bandwidth, pauses, aborts, and what a function reset drops.
-/

namespace Sys2Proof.Machine

/-! ## Sources (R368, R369, R371) -/

/-- LANE_TAP of the image (R43). -/
def Chip.laneTap (c : Chip) : Nat := bits (c.word 0x810) 0 16

/-- Whether the requester of queue `q` may capture the source now (R368, R369). A bonded group is captured through its leader (DEDUCED, log 38). -/
def Chip.capAvail (c : Chip) (q : Nat) (d : CapDesc) : Bool :=
  let vf := decide (1 ≤ q) && decide (q ≤ 8)
  if d.src = 4 then !vf && bit c.laneTap d.unit
  else bit (c.tapEn d.unit) d.src && c.acts d.unit && (!vf || c.owner d.unit = q)

/-- Sample rate in 10 S/s (R368, R370). -/
def Chip.capRate (c : Chip) (d : CapDesc) : Nat :=
  if d.src = 4 then 4000 * c.rd (F.CNV_CLK_RATE_K (d.unit / 8)) else 12288 * c.slotBw d.unit

/-- Demand of a streamed descriptor (R377), in bytes per second times 4,064. -/
def Chip.capDemand (c : Chip) (d : CapDesc) : Nat :=
  if d.src = 4 then 0 else 10 * c.capRate d * d.size * 4096

/-- Whether queue `q` belongs to a VF. -/
def isVfQ (q : Nat) : Bool := decide (1 ≤ q) && decide (q ≤ 8)

/-- The demand of VF `f`'s running streamed descriptors (R377). -/
def Chip.capUse (c : Chip) (f : Nat) : Nat :=
  (List.range 16).foldl (fun a e =>
    match (c.eng e).cur with
    | some r => if r.q = f ∧ (r.run ∨ 1 < r.elem) then a + (match r.desc with
      | some d => c.capDemand d
      | none => 0) else a
    | none => a) 0

/-- CAP_BW in force, in the unit of `capDemand`. -/
def Chip.capBw (c : Chip) (f : Nat) : Nat := c.ten? (F.TEN_CAPQ_CAP_BW f) * 10 ^ 6 * 4064

/-- CAP_INFLIGHT in force: larger values act as 8,192 (R367). -/
def Chip.capMax (c : Chip) (f : Nat) : Nat := min 8192 (c.ten? (F.TEN_CAPQ_CAP_INFLIGHT f))

/-- Writes in flight: of function `f`, and of the package. -/
def Chip.flightOf (c : Chip) (f : Nat) : Nat := c.cap.flight.foldl (fun a p => if p.1 = f then a + p.2 else a) 0
@[inherit_doc Chip.flightOf]
def Chip.flightAll (c : Chip) : Nat := c.cap.flight.foldl (fun a p => a + p.2) 0

/-- The registers that show the writes in flight. -/
def Chip.showFlight (c : Chip) (f : Nat) : Chip :=
  (c.wr F.CAP_STATUS_INFLIGHT c.flightAll).when (isVfQ f) fun c => c.wr (F.TEN_USE_INFLIGHT f) (c.flightOf f)

/-! ## Queues (R372) -/

/-- Slots of the descriptor ring, and of the completion ring. -/
def Chip.dqSize (c : Chip) (e q : Nat) : Nat := 2 ^ c.rd (F.CAP_DQ_CFG_SIZE_LOG2 e q)
@[inherit_doc Chip.dqSize]
def Chip.cqSize (c : Chip) (e q : Nat) : Nat := 2 ^ c.rd (F.CAP_CQ_CFG_SIZE_LOG2 e q)

/-- Descriptors between HEAD and TAIL. -/
def Chip.dqLoad (c : Chip) (e q : Nat) : Nat :=
  (c.rd (F.CAP_DQ_TAIL_TAIL e q) + c.dqSize e q - c.rd (F.CAP_DQ_STATUS_HEAD e q) % c.dqSize e q) % c.dqSize e q

/-- Whether engine `e` runs a descriptor of queue `q`: it has reserved its completion slot. -/
def Chip.capHas (c : Chip) (e q : Nat) : Bool := match (c.eng e).cur with
  | none => false
  | some r => r.q = q

/-- A completion slot is free beside those reserved: the ring, like the descriptor ring, holds one less than its slots. -/
def Chip.cqFree (c : Chip) (e q : Nat) : Bool :=
  decide ((c.rd (F.CAP_CQ_CFG_TAIL e q) + c.cqSize e q - c.rd (F.CAP_CQ_HEAD_HEAD e q) % c.cqSize e q) % c.cqSize e q +
    b2n (c.capHas e q) + 1 < c.cqSize e q)

/-- Whether queue `q` has a descriptor to come that engine `e` may take: one whose pause has ended, or a new one while the VF may use the
engine. Those that an ABORT ends are taken whatever EN, HALTED and the quota say (R381) (DESIGN CHOICE, log 37). -/
def Chip.capWork (c : Chip) (e q : Nat) : Bool :=
  let go := c.on (F.CAP_DQ_CFG_EN e q) && !c.on (F.CAP_DQ_STATUS_HALTED e q)
  match (c.capq e q).paused with
  | some _ => go && (c.capq e q).ready
  | none => decide (b2n (c.capHas e q) < c.dqLoad e q) &&
    ((c.capq e q).abortTo.isSome || (go && (!isVfQ q || bit (c.ten? (F.TEN_CFG_CAP_ENG q)) e)))

/-- Engine `e` shows its current descriptor's queue and its state. -/
def Chip.engShow (c : Chip) (e : Nat) (q st : Nat) : Chip :=
  ((c.wr (F.CAP_ENG_QUEUE e) q).wr (F.CAP_ENG_STATE e) st).wrBit F.CAP_STATUS_BUSY e (q ≠ 15)

/-- The function whose Requester ID the requests for queue `q` carry: the PF's queue is 0, the supervisor's 9 (R352, R372). -/
def capFunc (q : Nat) : Nat := if isVfQ q then q else 0

/-- An engine asks host memory for a descriptor or a gather entry of queue `q` (R352). -/
def Chip.hostRead (c : Chip) (q addr bytes : Nat) : Chip :=
  c.setCap fun x => { x with lastRead := some { func := capFunc q, relaxed := false, addr := addr, bytes := bytes } }

/-- A slot for the completion of what queue `q` has to come: a paused descriptor has reserved its own. -/
def Chip.slotFree (c : Chip) (e q : Nat) : Bool := (c.capq e q).paused.isSome || c.cqFree e q

/-- WAIT_CQ of engine `e`'s queues: a descriptor waits, and no completion slot is free (R372). -/
def Chip.showWaits (c : Chip) (e : Nat) : Chip :=
  c.forEach (List.range 10) fun q c => c.wrB (F.CAP_DQ_STATUS_WAIT_CQ e q) (c.capWork e q && !c.slotFree e q)

/-- An idle engine takes the next queue with work, in turn after the one last served; it reads a descriptor that it does not have yet
(R352, R372). A descriptor paused before its first element waits to start again (R376). -/
def Chip.capServe (c : Chip) (e : Nat) : Chip :=
  if (c.eng e).cur.isSome then c.showWaits e else
  let order := (List.range 10).map fun i => ((c.eng e).last + 1 + i) % 10
  match order.find? fun q => c.capWork e q && c.slotFree e q with
  | none => c.showWaits e
  | some q =>
    let r := ((c.capq e q).paused).getD { q := q }
    let c := (c.setCapq e q fun x => { x with paused := none, ready := false }).wr (F.CAP_DQ_STATUS_PAUSED e q) 0
    let c := (c.setEng e fun x => { x with cur := some r }).engShow e q (if r.desc.isNone then 1 else if r.elem = 1 then 2 else 4)
    let c := if r.desc.isNone then c.hostRead q (64 * c.rd (F.CAP_DQ_BASE_BASE e q) + 64 * c.rd (F.CAP_DQ_STATUS_HEAD e q)) 64
      else c.when (r.elem = 1) fun c => c.wr (F.CAP_DQ_STATUS_WAIT_START e q) 1
    c.showWaits e

/-! ## Completions (R374, R375) -/

/-- HEAD moves to the next descriptor; an abort is over when it reaches the TAIL it was given for (R372, R381). -/
def Chip.dqNext (c : Chip) (e q : Nat) : Chip :=
  let h := (c.rd (F.CAP_DQ_STATUS_HEAD e q) + 1) % c.dqSize e q
  (c.wr (F.CAP_DQ_STATUS_HEAD e q) h).setCapq e q fun x => { x with abortTo := if x.abortTo = some h then none else x.abortTo }

/-- The 32 bytes of a completion record (R375). -/
def CapCpl.bytes (l : CapCpl) : List Nat :=
  leBytes 2 l.tag ++ [l.status % 256, l.index % 256, l.done % 256, l.flags % 256, 0, 0] ++ leBytes 8 l.records ++
  leBytes 8 l.atFirst ++ leBytes 4 l.gap ++ [0, 0, 0, 0]

/-- An engine writes to host memory under the function of queue `q` (R352). -/
def Chip.hostWrite (c : Chip) (q : Nat) (record : Bool) (addr : Nat) (bytes : List Nat) : Chip :=
  c.setCap fun x => { x with lastWrite := some {
    func := capFunc q, relaxed := record && !c.ten.roOff.contains (capFunc q), addr := addr, bytes := bytes } }

/-- A completion record of queue `q` is written (R375, R382). -/
def Chip.capCpl (c : Chip) (e : Nat) (r : CapRun) (tag status index : Nat) : Chip :=
  let q := r.q
  let slot := c.rd (F.CAP_CQ_CFG_TAIL e q)
  let flags := c.rd (F.CAP_CQ_CFG_PHASE e q) + 2 * b2n r.late + r.flags
  let l : CapCpl := {
      addr := 32 * c.rd (F.CAP_CQ_BASE_BASE e q) + 32 * slot, tag := tag, status := status, index := index, done := r.done, flags := flags
      records := r.records, atFirst := r.atFirst, gap := satU 32 r.gap }
  let c := (c.setCap fun x => { x with lastCpl := some l }).hostWrite q false l.addr l.bytes
  let next := (slot + 1) % c.cqSize e q
  let c := (c.wr (F.CAP_CQ_CFG_TAIL e q) next).when (next = 0) fun c =>
    c.wr (F.CAP_CQ_CFG_PHASE e q) (1 - c.rd (F.CAP_CQ_CFG_PHASE e q))
  let c := c.when (status ≠ 0) fun c => c.raise (F.CAP_Q_INT_STATUS_FAULT e q)
  c.when (match r.desc with
    | some d => d.irq
    | none => false) fun c => c.raise (F.CAP_Q_INT_STATUS_DONE e q)

/-- Engine `e` has no current descriptor, and takes the next work. -/
def Chip.engFree (c : Chip) (e q : Nat) : Chip :=
  let c := (c.setEng e fun x => { x with cur := none, last := q }).engShow e 15 0
  let c := (c.wr (F.CAP_ENG_BUF e) 0).wr (F.CAP_DQ_STATUS_WAIT_START e q) 0
  (c.wr (F.CAP_DQ_STATUS_WAIT_BW e q) 0).capServe e

/-- The tag of a run's descriptor. -/
def CapRun.tag (r : CapRun) : Nat :=
  match r.desc with
  | some d => d.tag
  | none => 0

/-- The current descriptor of engine `e` ends with a completion. -/
def Chip.capEnd (c : Chip) (e : Nat) (r : CapRun) (status index : Nat) : Chip :=
  ((c.capCpl e r r.tag status index).dqNext e r.q).engFree e r.q

/-- An element is complete (R363, R364, R374, R381). -/
def Chip.elemDone (c : Chip) (e : Nat) (r : CapRun) : Chip :=
  let r := { r with run := false, done := r.done + 1 }
  if r.flr then (c.inc (F.TEN_FLR_COMPLETED r.q)).engFree e r.q
  else match r.desc with
    | none => c
    | some d =>
      if d.nElem ≤ r.elem then c.capEnd e r 0 0
      else if r.abort then c.capEnd e r 6 (r.elem + 1)
      else c.setEng e fun x => { x with cur := some { r with elem := r.elem + 1 } }

/-! ## Writes in flight and bandwidth (R377) -/

/-- Bytes of a capture write. -/
def Chip.capTlp (c : Chip) : Nat := 128 * 2 ^ c.ten.mps

/-- How many writes of a function may be issued now. -/
def Chip.capRoom (c : Chip) (f : Nat) : Nat :=
  let pkg := 8192 - c.flightAll
  if isVfQ f then min (min pkg (c.capMax f - c.flightOf f)) (SMap.get 0 c.cap.bucket f / (12 * c.capTlp)) else pkg

/-- Engine `e` issues the writes of its last record as far as they need not wait; the last one of an element completes it. -/
def Chip.capPump (c : Chip) (e : Nat) : Chip :=
  match (c.eng e).cur with
  | none => c
  | some r =>
    if !r.run ∨ r.left = 0 then c else
    let n := min r.left (c.capRoom r.q)
    let r := { r with left := r.left - n }
    let c := c.setEng e fun x => { x with cur := some r }
    let c := c.when (n ≠ 0) fun c => c.setCap fun x => { x with
      flight := x.flight ++ [(r.q, n)]
      bucket := if isVfQ r.q then SMap.put 0 x.bucket r.q (SMap.get 0 x.bucket r.q - 12 * c.capTlp * n) else x.bucket }
    let c := c.showFlight r.q
    if r.left = 0 ∧ r.pages = 0 then c.elemDone e r else c

/-- Every engine issues what it can. -/
def Chip.capPumps (c : Chip) : Chip := c.forEach (List.range 16) fun e c => c.capPump e

/-- The refill of a tempo boundary: CAP_BW × 25/12 bytes, up to the larger of 4,096 bytes and 16 refills. -/
def Chip.capRefill (c : Chip) : Chip :=
  (c.setCap fun x => { x with bucket := (List.range 8).foldl (fun m i =>
    let bw := c.ten? (F.TEN_CAPQ_CAP_BW (i + 1))
    SMap.put 0 m (i + 1) (min (max 49152 (400 * bw)) (SMap.get 0 m (i + 1) + 25 * bw))) x.bucket }).capPumps

/-- The oldest write in flight retires. -/
def flightPop : List (Nat × Nat) → List (Nat × Nat)
  | [] => []
  | (f, n) :: l => if n ≤ 1 then l else (f, n - 1) :: l

/-- WRITE_ACK (R377): the oldest capture write in flight is acknowledged (DESIGN CHOICE, log 40). -/
def execWriteAck (s : State) : Host.Outcome State Fault Refusal :=
  s.onChip fun c =>
    match c.cap.flight with
    | [] => c
    | p :: _ => ((c.setCap fun x => { x with flight := flightPop x.flight }).showFlight p.1).capPumps

/-! ## Queue registers (R372, R381, R383) -/

/-- Address of a register of the sub-page of engine `e` and queue `q`. -/
def aQueue (e q o : Nat) : Nat := 0x1B01100 + 0x1000 * e + 0x80 * q + o

/-- A write of CAP_DQ_TAIL. -/
def Chip.dqTail (c : Chip) (e q : Nat) (h : Half) (v : Nat) : Chip := c.when h.hasLo fun c => (c.wr (F.CAP_DQ_TAIL_TAIL e q) v).capServe e

/-- DQ_TAIL_WRITE (R372). -/
def execDqTailWrite (q : Requester) (eng : Fin 16) (queue : Fin 10) (tail : Nat) (s : State) : Host.Outcome State Fault Refusal :=
  s.onAccess q fun c => c.write q (aQueue eng queue 0x10) fun c => c.dqTail eng queue .lo tail

/-- A write of CAP_CQ_HEAD frees completion slots. -/
def Chip.cqHead (c : Chip) (e q : Nat) (h : Half) (v : Nat) : Chip := c.when h.hasLo fun c => (c.wr (F.CAP_CQ_HEAD_HEAD e q) v).capServe e

/-- CQ_HEAD_WRITE (R372). -/
def execCqHeadWrite (q : Requester) (eng : Fin 16) (queue : Fin 10) (head : Nat) (s : State) : Host.Outcome State Fault Refusal :=
  s.onAccess q fun c => c.write q (aQueue eng queue 0x30) fun c => c.cqHead eng queue .lo head

/-- Whether some work of VF `f` is paused (R363). -/
def Chip.capHeld (c : Chip) (f : Nat) : Bool :=
  (List.range 16).any fun e => ((c.capq e f).paused.isSome && !(c.capq e f).ready) || (c.capq e f).barred

/-- A pause of work of VF `f` is over (R363). -/
def Chip.capUnpause (c : Chip) (f : Nat) : Chip :=
  (c.wrB (F.TEN_VF_STATUS_CAP_PAUSED f) (c.capHeld f)).raise (F.TEN_VF_INT_STATUS_CAP_RESUMED f)

/-- A pause of work of VF `f` begins (R363). -/
def Chip.capHold (c : Chip) (f : Nat) : Chip :=
  (c.wr (F.TEN_VF_STATUS_CAP_PAUSED f) 1).raise (F.TEN_VF_INT_STATUS_CAP_PAUSED f)

/-- ABORT of queue `q` (R381): what it ends is no longer paused (DESIGN CHOICE, log 37). -/
def Chip.capAbort (c : Chip) (e q : Nat) : Chip :=
  if c.dqLoad e q = 0 then c else
  let x := c.capq e q
  let c := c.setCapq e q fun x => { x with
    abortTo := some (c.rd (F.CAP_DQ_TAIL_TAIL e q) % c.dqSize e q), paused := none, ready := false, barred := false }
  let c := c.when (x.barred || (x.paused.isSome && !x.ready)) fun c => c.capUnpause q
  match x.paused with
  | some r => (((c.wr (F.CAP_DQ_STATUS_PAUSED e q) 0).capCpl e r r.tag 6 r.elem).dqNext e q).capServe e
  | none =>
    match (c.eng e).cur with
    | some r =>
      if r.q ≠ q ∨ r.desc.isNone then c.showWaits e
      else if r.run then (c.setEng e fun x => { x with cur := some { r with abort := true } }).showWaits e
      else c.capEnd e r 6 r.elem
    | none => c.capServe e

/-- CAP_ABORT (R381): a write of CAP_DQ_CFG with ABORT that leaves the other fields as they are. -/
def execCapAbort (q : Requester) (eng : Fin 16) (queue : Fin 10) (s : State) : Host.Outcome State Fault Refusal :=
  s.onAccess q fun c => c.write q (aQueue eng queue 8) fun c => c.capAbort eng queue

/-- RESTART of queue `q` (R374). -/
def Chip.capRestart (c : Chip) (e q : Nat) : Chip := (c.wr (F.CAP_DQ_STATUS_HALTED e q) 0).capServe e

/-- CAP_RESTART (R374). -/
def execCapRestart (q : Requester) (eng : Fin 16) (queue : Fin 10) (s : State) : Host.Outcome State Fault Refusal :=
  s.onAccess q fun c => c.write q (aQueue eng queue 8) fun c => c.capRestart eng queue

/-- A write of CAP_DQ_CFG: its stored fields, then RESTART and ABORT. -/
def Chip.dqCfg (c : Chip) (e q : Nat) (h : Half) (v : Nat) : Chip :=
  if !h.hasLo then c else
  let n := bits v 0 4
  let c := c.when (decide (1 ≤ n) && decide (n ≤ 12)) fun c => c.wr (F.CAP_DQ_CFG_SIZE_LOG2 e q) n
  let c := c.wr (F.CAP_DQ_CFG_EN e q) (bits v 8 1)
  let c := c.when (bit v 10) fun c => c.wr (F.CAP_DQ_STATUS_HALTED e q) 0
  let c := c.when (bit v 9) fun c => c.capAbort e q
  c.capServe e

/-- A write of CAP_CREDIT_ADD (R374, R383): the PF adds, saturating. -/
def Chip.creditAdd (c : Chip) (f v : Nat) : Chip := c.inc (F.CAP_CREDIT_BYTES f) (v % 2 ^ 48)

/-- CREDIT_ADD (R374). -/
def execCreditAdd (q : Requester) (f : Fin 10) (value : Nat) (s : State) : Host.Outcome State Fault Refusal :=
  s.onAccess q fun c => c.write q (0x1B00118 + 0x20 * f) fun c => c.creditAdd f value

/-! ## Fetching (R373, R374) -/

/-- Little-endian number of `k` bytes of a descriptor from byte `a`. -/
def leNum (m : List Nat) (a : Nat) : Nat → Nat
  | 0 => 0
  | k + 1 => m.getD a 0 % 256 + 256 * leNum m (a + 1) k

/-- The descriptor that 64 bytes hold (R373). -/
def capDesc (m : List Nat) : CapDesc :=
  { tag := leNum m 0 2, nElem := leNum m 2 1, format := leNum m 3 1, start := leNum m 4 1, src := leNum m 5 1, unit := leNum m 6 1,
    streams := leNum m 7 1, startAt := leNum m 8 8, gather := leNum m 16 8, irq := bit (leNum m 24 1) 0 }

/-- Whether a descriptor is free of the format errors of R373; `total` is the pages of its gather list. -/
def descOk (m : List Nat) (total : Nat) : Bool :=
  let d := capDesc m
  decide (1 ≤ d.nElem) && decide (d.nElem ≤ 16) && decide (d.start ≤ 2) && d.gather % 16 = 0 && decide (leNum m 24 1 ≤ 1) &&
  ((List.range 39).all fun i => leNum m (25 + i) 1 = 0) &&
  (if d.src = 4 then d.format = 2 && decide (d.unit < 16) && decide (total ≤ 64)
   else decide (d.src < 4) && decide (d.format ≤ 1) && decide (d.unit < 128) && d.streams ≠ 0)

/-- DESCRIPTOR_FETCHED (R373, R374, R376): the read of engine eng's descriptor completes, with its 64 bytes; `total` is the pages
of its gather list, which the engine needs for a raw lane. A read that fails on the way to an ABORT gives no TAG: it is 0 (R374, R381) (DESIGN CHOICE, log 37). -/
def execDescriptorFetched (eng : Fin 16) (ok : Bool) (bytes : List Nat) (total : Nat) (s : State) : Host.Outcome State Fault Refusal :=
  s.onChip fun c =>
    match (c.eng eng).cur with
    | none => c
    | some r =>
      if r.desc.isSome then c
      else if !ok && (c.capq eng r.q).abortTo.isSome then c.capEnd eng r 6 1
      else if !ok then
        let c := (c.capCpl eng r 0 2 0).wr (F.CAP_DQ_STATUS_HALTED eng r.q) 1
        (c.raise (F.CAP_Q_INT_STATUS_HALT eng r.q)).engFree eng r.q
      else
        let d := capDesc bytes
        let r := { r with desc := some d }
        if (c.capq eng r.q).abortTo.isSome then c.capEnd eng r 6 1
        else if !descOk bytes total then c.capEnd eng r 5 0
        else
          let late := d.start = 1 && decide (d.startAt < c.now)
          let c := c.setEng eng fun x => { x with cur := some { r with late := late, started := d.start = 0 || late } }
          ((c.wr (F.CAP_ENG_STATE eng) 2).wr (F.CAP_DQ_STATUS_WAIT_START eng r.q) 1).hostRead r.q d.gather 16

/-- GATHER_FETCHED (R373): the fetch of the next element's entry completes, with OFFSET, PAGES and the bytes after them. -/
def execGatherFetched (eng : Fin 16) (ok : Bool) (offset pages rest : Nat) (s : State) : Host.Outcome State Fault Refusal :=
  s.onChip fun c =>
    match (c.eng eng).cur with
    | none => c
    | some r =>
      match r.desc with
      | none => c
      | some d =>
        if r.entry.isSome ∨ d.nElem < r.elem + b2n r.run then c
        else c.setEng eng fun x => { x with
          cur := some { r with entry := some (if ok then some (offset % 2 ^ 64, pages % 2 ^ 16, rest % 2 ^ 48) else none) } }

/-! ## Starting (R374, R376–R378) -/

/-- CAPTURE_START_AT (R376): AT reaches START_AT of the waiting descriptor. -/
def execCaptureStartAt (eng : Fin 16) (s : State) : Host.Outcome State Fault Refusal :=
  s.onChip fun c =>
    match (c.eng eng).cur with
    | none => c
    | some r =>
      match r.desc with
      | none => c
      | some d =>
        if d.start = 1 ∧ !r.started ∧ c.canBe d.startAt then
          let c := c.reach d.startAt
          c.setEng eng fun x => { x with cur := some { r with started := true, notBefore := some (d.startAt - c.atOff) } }
        else c

/-- CAPTURE_FIRE (R77, R376): a CAPTURE occurrence starts the descriptor that waits for it, or counts as ORPHAN. -/
def execCaptureFire (s : State) : Host.Outcome State Fault Refusal :=
  s.onChip fun c => c.fire 5 fun o c =>
    let e := o.target % 16
    match (c.eng e).cur with
    | none => c.inc (F.CAP_ENG_ORPHAN e)
    | some r =>
      let waits := match r.desc with
        | some d => d.start = 2 && !r.started
        | none => false
      if !waits then c.inc (F.CAP_ENG_ORPHAN e)
      else c.setEng e fun x => { x with cur := some { r with started := true, notBefore := some (o.fire - c.atOff) } }

/-- The first check of R374 that element `r.elem` fails; 0 when none does. -/
def Chip.elemCheck (c : Chip) (r : CapRun) (d : CapDesc) (ent : Option (Nat × Nat × Nat)) : Nat :=
  match ent with
  | none => 2
  | some (off, pages, rest) =>
    if off % 4096 ≠ 0 ∨ 2 ^ 48 ≤ off ∨ pages = 0 ∨ rest ≠ 0 then 5
    else if c.rd (F.CAP_WIN_SIZE_PAGES r.q) = 0 ∨ 4096 * c.rd (F.CAP_WIN_SIZE_PAGES r.q) < off + 4096 * pages then 1
    else if !c.capAvail r.q d then 4
    else if !c.on (F.CAP_CREDIT_UNLIM r.q) ∧ c.rd (F.CAP_CREDIT_BYTES r.q) < 4096 * pages then 3
    else 0

/-- Whether VF `f` may not use engine `e`, or has more writes in flight than its quota, so that it pauses at an element boundary
(R363). -/
def Chip.capPauses (c : Chip) (e f : Nat) : Bool :=
  isVfQ f && (!bit (c.ten? (F.TEN_CFG_CAP_ENG f)) e || decide (c.capMax f < c.flightOf f))

/-- A descriptor takes no samples, and holds none (DESIGN CHOICE, log 39). -/
def CapRun.still (r : CapRun) : CapRun :=
  { r with taking := false, notBefore := none, base := none, idx := 0, missed := 0, part := {}, blocks := [], blk := 0 }

/-- The current descriptor of engine `e` is paused (R363, R378). -/
def Chip.capPause (c : Chip) (e : Nat) (r : CapRun) : Chip :=
  let c := (c.setCapq e r.q fun x => { x with paused := some r.still, ready := false }).wr (F.CAP_DQ_STATUS_PAUSED e r.q) 1
  (c.capHold r.q).engFree e r.q

/-- An element starts: its credit, its host address, and from the first on the samples (R374, R376); the entry of the next is fetched
(R373). Credit below what an unlimited function uses ends at 0 (DESIGN CHOICE, log 37). -/
def Chip.capStart (c : Chip) (e : Nat) (r : CapRun) (d : CapDesc) (off pages : Nat) : Chip :=
  let c := c.wr (F.CAP_CREDIT_BYTES r.q) (c.rd (F.CAP_CREDIT_BYTES r.q) - 4096 * pages)
  let c := (c.wr (F.CAP_DQ_STATUS_WAIT_START e r.q) 0).wr (F.CAP_DQ_STATUS_WAIT_BW e r.q) 0
  let c := (c.wr (F.CAP_ENG_STATE e) (if d.src = 4 ∧ r.elem = 1 then 3 else 4)).when (r.elem < d.nElem) fun c =>
    c.hostRead r.q (d.gather + 16 * r.elem) 16
  let t := c.rxTune d.unit
  let first : CapRun := { r with
    taking := true, began := c.air.mono, pos := if d.src = 4 then c.smp else c.smp * t.clock, clock := t.clock, step := t.step }
  let r := { if r.taking then r else first with
    run := true, pages := pages, host := 4096 * c.rd (F.CAP_WIN_BASE_BASE r.q) + off, entry := none, left := 0, denied := false }
  c.setEng e fun x => { x with cur := some r }

/-- ELEMENT_START (R374, R377, R378): the element that is due is checked; it starts, waits for bandwidth, is paused, or ends the
descriptor. -/
def execElementStart (eng : Fin 16) (s : State) : Host.Outcome State Fault Refusal :=
  s.onChip fun c =>
    match (c.eng eng).cur with
    | none => c
    | some r =>
      match r.desc, r.entry with
      | some d, some ent =>
        if r.run ∨ !r.started then c
        else
          let bad := c.elemCheck r d ent
          if bad ≠ 0 then c.capEnd eng r bad r.elem
          else if c.capPauses eng r.q then c.capPause eng r
          else if isVfQ r.q ∧ r.elem = 1 ∧ c.capBw r.q < c.capUse r.q + c.capDemand d then c.wr (F.CAP_DQ_STATUS_WAIT_BW eng r.q) 1
          else if isVfQ r.q ∧ c.capBw r.q < c.capUse r.q then c.capPause eng r
          else c.capStart eng r d (ent.getD (0, 0, 0)).1 (ent.getD (0, 0, 0)).2.1
      | _, _ => c

/-- CAPTURE_RESUME (R363, R378): the pause of a queue's descriptor ends when the use fits the quota again; the engine takes it up
when it next serves the queue. -/
def execCaptureResume (eng : Fin 16) (queue : Fin 10) (s : State) : Host.Outcome State Fault Refusal :=
  s.onChip fun c =>
    let f := queue.val
    match (c.capq eng f).paused with
    | none => c
    | some r =>
      let dem := match r.desc with
        | some d => c.capDemand d
        | none => 0
      if (c.capq eng f).ready ∨ !bit (c.ten? (F.TEN_CFG_CAP_ENG f)) eng ∨ c.capMax f < c.flightOf f ∨ c.capBw f < c.capUse f + dem then c
      else
        ((c.setCapq eng f fun x => { x with ready := true }).capUnpause f).capServe eng

/-- The engines that VF `f` may use have changed from `old` (R360, R363, R372): queued work of one taken away is paused, as its current
descriptor is at its next element; one given again goes on. -/
def Chip.capEngines (c : Chip) (f old : Nat) : Chip :=
  let new := c.ten? (F.TEN_CFG_CAP_ENG f)
  c.forEach (List.range 16) fun e c =>
    let x := c.capq e f
    let waits := c.on (F.CAP_DQ_CFG_EN e f) && !c.on (F.CAP_DQ_STATUS_HALTED e f) && x.paused.isNone && x.abortTo.isNone &&
      decide (b2n (c.capHas e f) < c.dqLoad e f)
    if bit old e && !bit new e && waits then (c.setCapq e f fun x => { x with barred := true }).capHold f
    else if !bit old e && bit new e && x.barred then (c.setCapq e f fun x => { x with barred := false }).capUnpause f
    else c

/-! ## Records (R370, R371, R379) -/

/-- SNAPSHOT_DONE (R376): the engine's buffer is full of raw samples, and the records begin. -/
def execSnapshotDone (eng : Fin 16) (s : State) : Host.Outcome State Fault Refusal :=
  s.onChip fun c => c.when (c.rd (F.CAP_ENG_STATE eng) = 3 && (match (c.eng eng).cur with
    | none => false
    | some r => decide (capSnapshot ≤ r.filled))) fun c => c.wr (F.CAP_ENG_STATE eng) 4

/-- A part of a sample as packed (R371), and whether it saturated: Q0.19 to Q0.15, or Q0.19 as it is. -/
def packPart (format : Nat) (i : Int) : Int × Bool :=
  if format = 0 then (satS 16 (rndDiv i 16), satS 16 (rndDiv i 16) ≠ rndDiv i 16) else (i, false)

/-- The sample words of a record in time order. -/
def packSamples (format : Nat) (l : List Cx) : List (Int × Bool) := l.flatMap fun x => [packPart format x.re, packPart format x.im]

/-- The 4,096 bytes of a record: the header of R370, then the samples, packed from byte 32. -/
def CapRec.bytes (w : CapRec) : List Nat :=
  let body := w.data.flatMap fun i => leBytes (if w.format = 1 then 4 else 2) (ofS (if w.format = 1 then 32 else 16) i)
  leBytes 2 0xCA97 ++ [w.format % 256, w.flags % 256] ++ leBytes 2 w.tag ++ [w.src % 256, w.stream % 256] ++ leBytes 2 w.sq ++
  leBytes 2 w.count ++ leBytes 4 w.seq ++ leBytes 8 w.time ++ leBytes 2 w.frac ++ leBytes 2 w.lost ++ leBytes 4 w.rate ++ body

/-- Sample spacing in Tc as a fraction: 1,600 ÷ BW in 10 MHz units, or one ADC sample. -/
def Chip.capStep (c : Chip) (d : CapDesc) : Nat × Nat := if d.src = 4 then (49152, c.rd (F.CNV_CLK_RATE_K (d.unit / 8))) else (16000, c.slotBw d.unit)

/-- A fraction in whole units, rounded as the implementation does where it is not whole. -/
def wholeOf (num : Int) (den : Nat) : Int := num / den + if num % den ≠ 0 ∧ Config.roundUp 370 num then 1 else 0

/-- Whether a descriptor's first sample may have the instant `m`, in 2^-16 Tc (R376): not before START_AT or the fire time, and no sample
spacing after it and the start of the first element have come (DESIGN CHOICE, log 39). -/
def Chip.firstAt (c : Chip) (r : CapRun) (d : CapDesc) (m : Int) : Bool :=
  let sp := c.capStep d
  match r.notBefore with
  | none => decide ((m - r.began * 65536) * sp.2 < sp.1 * 65536)
  | some t => decide ((m - max t r.began * 65536) * sp.2 < sp.1 * 65536) && decide (t * 65536 ≤ m)

/-- The block that is next in the buffer: of a snapshot, the samples of its next record (R370, R371). -/
def CapRun.front (r : CapRun) (d : CapDesc) : Option CapBlock :=
  if d.src ≠ 4 then r.blocks.head? else
  let i := d.count * r.records
  some { idx := i, off := r.offAt i, step := decide (r.offAt i ≠ r.offAt (i + d.count - 1)) }

/-- The words of stream number `j` of a block in time order, as packed, and whether each saturated (R371). -/
def CapRun.words (r : CapRun) (d : CapDesc) (b : CapBlock) (j : Nat) (denied : Bool) : List (Int × Bool) :=
  if d.src = 4 then (List.range d.count).map fun i => (r.raw.getD (r.filled - 1 - (b.idx + i)) 0, false) else
  packSamples d.format ((List.range d.count).map fun i =>
    if denied then Cx.zero else ((b.rows.getD i []).getD j (some Cx.zero)).getD Cx.zero)

/-- RECORD_WRITE (R370, R371, R374, R379): the next stream's record of the oldest block is written. `at0` and `frac` are the AT of the
first sample of a descriptor, in Tc and 2^-16 Tc; with `bad`, the buffer's error at `place`, `samples` is what it gave for the first words (DESIGN CHOICE, log 39). -/
def execRecordWrite (eng : Fin 16) (at0 frac place : Nat) (bad : Bool) (samples : List Int) (s : State) : Host.Outcome State Fault Refusal :=
  s.onChip fun c =>
    match (c.eng eng).cur with
    | none => c
    | some r =>
      match r.desc with
      | none => c
      | some d =>
        match r.front d with
        | none => c
        | some b =>
          let base := r.base.getD (at0 * 65536 + (frac % 65536 : Nat) - b.off * 65536)
          if !r.run ∨ r.left ≠ 0 ∨ r.pages = 0 ∨ c.rd (F.CAP_ENG_STATE eng) ≠ 4 ∨ (r.base.isNone ∧ !c.firstAt r d base) then c else
          let sp := c.capStep d
          let time := (base + wholeOf ((b.idx * sp.1 * 65536 : Nat) : Int) sp.2 + b.off * 65536).toNat
          let denied := r.denied || (isVfQ r.q && (c.owner d.unit ≠ r.q || c.isMember d.unit))
          let absent := d.src ≠ 4 && !denied && b.rows.any fun l => (l.getD r.blk (some Cx.zero)).isNone
          let body := r.words d b r.blk denied
          let data := if bad then (List.range body.length).map fun i => samples.getD i (body.getD i (0, false)).1 else body.map (·.1)
          let gap := b.lost ≠ 0
          let flags := b2n gap + 2 * b2n absent + 4 * b2n denied + 8 * b2n bad + 16 * b2n (body.any (·.2)) + 32 * b2n b.step
          let w : CapRec := {
              addr := r.host, format := d.format, flags := flags, tag := d.tag, src := d.src, stream := d.list.getD r.blk 0
              sq := if d.src = 4 then 0xFFFF else d.unit, count := d.count, seq := r.records % 2 ^ 32, time := time / 65536
              frac := time % 65536, lost := satU 16 b.lost, rate := c.capRate d, data := data }
          let c := (c.setCap fun x => { x with lastRec := some w }).hostWrite r.q true w.addr w.bytes
          let last := d.list.length ≤ r.blk + 1
          let r := { r with
            base := some base, denied := denied, records := r.records + 1, pages := r.pages - 1, host := r.host + 4096, left := 4096 / c.capTlp
            gap := r.gap + b.lost, atFirst := if r.records = 0 then time / 65536 else r.atFirst
            blk := if last then 0 else r.blk + 1, blocks := if last then r.blocks.drop 1 else r.blocks
            flags := Nat.lor r.flags (4 * b2n gap + 8 * b2n denied + 16 * b2n bad + 32 * b2n b.step) }
          let c := (c.inc (F.CAP_Q_STATS_RECORDS eng r.q)).inc (F.CAP_Q_STATS_GAP eng r.q) b.lost
          let c := c.when gap fun c => c.raise (F.CAP_Q_INT_STATUS_GAP eng r.q)
          let c := c.when bad fun c => (c.raise (F.CAP_Q_INT_STATUS_BADDATA eng r.q)).faultPulse
            { src := 427 + eng, cause := 1, master := 13, access := 4, addr := some (place % 2 ^ 18) }
          let c := c.showBuf eng (if d.src = 4 then capBuffer - 4064 * r.records else r.used d)
          (c.setEng eng fun x => { x with cur := some r }).capPump eng

/-! ## Resets of a function (R364) -/

/-- The work of VF `f` in engine `e` is dropped, but for an element in flight. -/
def Chip.capDrop (c : Chip) (f e : Nat) : Chip :=
  let n := c.dqLoad e f
  let c := c.inc (F.TEN_FLR_DROPPED f) n
  let c := (c.wr (F.CAP_DQ_STATUS_HEAD e f) (c.rd (F.CAP_DQ_TAIL_TAIL e f) % c.dqSize e f)).setCapq e f fun _ => {}
  let c := (c.wr (F.CAP_DQ_STATUS_PAUSED e f) 0).wr (F.CAP_DQ_STATUS_WAIT_CQ e f) 0
  match (c.eng e).cur with
  | none => c
  | some r =>
    if r.q ≠ f then c
    else if r.run then c.setEng e fun x => { x with cur := some { r with flr := true } }
    else c.engFree e f

/-- Step 3 of R364 in every engine. -/
def Chip.capFlr (c : Chip) (f : Nat) : Chip :=
  let c := (((c.wr (F.TEN_FLR_DROPPED f) 0).wr (F.TEN_FLR_COMPLETED f) 0)).wr (F.TEN_VF_STATUS_CAP_PAUSED f) 0
  c.forEach (List.range 16) fun e c => c.capDrop f e

/-- Whether an element of VF `f` is still in flight. -/
def Chip.capRuns (c : Chip) (f : Nat) : Bool :=
  (List.range 16).any fun e => match (c.eng e).cur with
    | some r => r.q = f
    | none => false

end Sys2Proof.Machine
end

