-- ==== Sys2Proof/Machine/Boundary.lean ====
section
/-!
DEFINITION. The tempo boundary (R64): what the tempo that ends has measured and computed, and what takes effect.
-/

namespace Sys2Proof.Machine

/-! ## Fine detectors (R123, R125) -/

/-- y_j = y_(j−1) + 2^−K × (b_j − y_(j−1)), without rounding (DEDUCED, log 53). -/
def fineStep (k : Nat) (y b : Frac) : Frac := y.add ((b.sub y).divN (2 ^ k))

/-- The fine detectors of one stream at the end of a tempo: a tempo without a valid sample leaves y as it is. -/
def Det.fine (k : Nat) (d : Det) : Det :=
  let d' := if d.cnt = 0 then d else { d with
    yIn := fineStep k d.yIn (Frac.mk' d.sumIn d.cnt)
    yOut := fineStep k d.yOut (Frac.mk' d.sumOut d.cnt) }
  { d' with dark := d.cnt = 0, sumIn := 0, sumOut := 0, cnt := 0 }

/-- A fine value as it is reported: none in a tempo without a valid sample. -/
def Det.seen (d : Det) (y : Frac) : Option Frac := if d.dark then none else some y

/-- The fine detectors of square `n` at the boundary, and their aggregates. -/
def Chip.fineDets (c : Chip) (n : Nat) : Chip :=
  let k := c.rd (F.SQ_DET_CFG_FINE_K n)
  let c := c.setSq n fun q => { q with
    det := (c.lanes n).foldl (fun m r => SMap.put {} m r ((SMap.get {} q.det r).fine k)) q.det }
  let det := fun r => SMap.get {} (c.sq n).det r
  let c := c.forEach (c.lanes n) fun r c =>
    (c.wr (F.SQ_FDET_FIN n r) (dbfsReg ((det r).seen (det r).yIn))).wr (F.SQ_FDET_FOUT n r) (dbfsReg ((det r).seen (det r).yOut))
  let sum := fun g : Det → Frac => dbfsReg (aggregate ((c.lanes n).map fun r => (det r).seen (g (det r))))
  (c.wr (F.SQ_DET_SUM_FIN n) (sum Det.yIn)).wr (F.SQ_DET_SUM_FOUT n) (sum Det.yOut)

/-! ## What the tempo leaves -/

/-- The statistics of a receive lane over the tempo (R146, R158). -/
def LaneStat.tempo (l : LaneStat) (adapted : Bool) : LaneStat :=
  { l with
    tempi := l.tempi + b2n adapted
    pMean := if l.pCnt = 0 then none else some (Frac.mk' l.pSum l.pCnt)
    pSum := 0
    pCnt := 0 }

/-- The measurements of the tempo that ended, and what stood in it (R155, R167, R168, R170, R173). -/
def Chip.tempoSq (c : Chip) (n : Nat) : Chip :=
  let miss := bit (c.rk (n / 8)).missIn (n % 8)
  c.setSq n fun q => { q with
    mMax := q.cinMax
    mMean := if q.cinCnt = 0 then none else some (q.cinSum.divN q.cinCnt)
    mE := q.resE
    mY := q.resY
    mOn := q.onAll
    mG := c.rdS (F.SQ_GAIN_NOW_G_NOW n)
    bG := c.rdS (F.SQ_GAIN_NOW_G_NOW n)
    bGlide := q.glide
    bCheck := c.on (F.SQ_EC_STATUS_CHECK n)
    chkWas := c.on (F.SQ_EC_STATUS_CHECK n)
    bPrev := q.gPrev
    bMiss := miss
    lane := (List.range 8).foldl (fun m r => SMap.put {} m r ((SMap.get {} q.lane r).tempo (bit q.adapted r))) q.lane }

/-- The counts of a new tempo start (R124, R167, R168). -/
def Chip.tempoReset (c : Chip) (n : Nat) : Chip :=
  (c.wr (F.SQ_EC_STATUS_ADAPTING n) 0).setSq n fun q => { q with
    cinMax := none, cinSum := {}, cinCnt := 0, resE := 0, resY := 0, adapted := 0, txAll := true
    onAll := c.sqState n = 3 }

/-! ## TEMPO_BOUNDARY -/

/-- AT stands at the next tempo boundary (R64, R65); whole Tc that the accumulator holds are part of the way there (R63). -/
def Chip.toBoundary (c : Chip) : Chip :=
  let k := c.nextBoundary - c.now
  (c.advance k).setAir fun a => { a with
    tempi := a.tempi + 1, onB := true, frac := a.frac - min (a.frac / 10 ^ 9) k * 10 ^ 9 }

/-- Whether CHECK of a square that no loop and no gain judges any more stands without an estimate (R156). -/
def Chip.checkStale (c : Chip) (n : Nat) : Bool :=
  !c.enabled n && c.on (F.SQ_EC_STATUS_CHECK n) && !c.on (F.SQ_EC_STATUS_EST_VALID n)

/-- The squares at the boundary: detectors, measurements, then gain and margin, the latched y, and CHECK of the
others (R125, R126, R154, R156, R167). -/
def Chip.boundarySquares (c : Chip) : Chip :=
  let l := allSquares.filter fun n => c.acts n && decide (c.sqState n ≠ 0)
  let c := (c.forEach l fun n c => ((c.fineDets n).tempoSq n).noiseTempo n).gainsHigh
  let c := c.forEach (allSquares.filter c.isLoop) fun n c => c.takeRed n
  let c := c.forEach (allSquares.filter c.enabled) fun n c => ((if l.contains n then c else c.tempoSq n).settle n).assessOr n
  let c := c.forEach (allSquares.filter c.isLoop) fun n c => c.latchY n
  let c := c.forEach (allSquares.filter c.checkStale) fun n c => (c.wr (F.SQ_EC_STATUS_CHECK n) 0).raise (F.SQ_EC_INT_STATUS_CHECK_CLR n)
  c.forEach l fun n c => c.tempoReset n

/-- Whether the square reads an erroneous word of its active banks in every sample or every step (R122, R302): a tap of the band filter, or
an element of the matrices within the dimensions. -/
def Chip.readsBad (c : Chip) (n : Nat) : Bool :=
  let k := n / 8
  let s := n % 8
  let ns := c.rd (F.RK_SQCTL_N_STATES k s)
  let p := c.rd (F.RK_SQCTL_N_MEAS k s)
  let q := c.rd (F.RK_SQCTL_N_OUT k s)
  let used := fun w =>
    if w < 64 then decide (w / 8 < ns) && decide (w % 8 < ns)
    else if w < 80 then decide ((w - 64) / 2 < ns) && decide (w % 2 < q)
    else if w < 112 then decide ((w - 80) / 8 < p) && decide (w % 8 < ns)
    else if w < 144 then decide ((w - 112) / 4 < ns) && decide (w % 4 < p)
    else if w < 160 then decide ((w - 144) / 8 < q) && decide (w % 8 < ns)
    else decide (w < 164) && decide ((w - 160) / 2 < q)
  (decide (c.sqState n ≠ 0) && (c.sq n).coefBad.any fun i =>
    decide (i / 384 = c.rd (F.SQ_CTRL_FIR_BANK n)) && decide (i % 384 < c.firTaps n)) ||
  (c.isLoop n && (c.rk k).matBad.any fun w => decide (w / 172 = 2 * s + c.rd (F.RK_SQCTL_MAT_BANK k s)) && used (w % 172))

/-- An error that recurs at every read never lets the interval of a datapath fault run out (R302). -/
def Chip.keepParity (c : Chip) : Chip :=
  c.forEach (allSquares.filter fun n => (c.sq n).fParity && c.readsBad n) fun n c =>
    c.setFlt fun x => { x with ends := SMap.insert n (c.air.tempi + c.recov) x.ends }

/-- Everything that the boundary itself brings. In deep sleep only AIR runs (R428). -/
def Chip.boundary (c : Chip) : Chip :=
  if c.asleep then c.toBoundary.slewStep else
  let c := c.assessLeft.gplSnap.toBoundary.keepParity
  let c := c.forEach (List.range 16) fun k c => c.rankEnd k
  let c := c.boundarySquares
  let c := c.forEach (List.range 16) fun k c => c.rankStart k
  (((c.refreshWings.refreshHold).refreshStop false).slewStep).capRefill

/-- TEMPO_BOUNDARY (R64). -/
def execTempoBoundary (s : State) : Host.Outcome State Fault Refusal := s.onAir Chip.boundary

end Sys2Proof.Machine
end

