-- ==== Sys2Proof/Machine/Thermal.lean ====
section
/-!
DEFINITION. The thermal supervisor (R282–R294): readings, bands, and the throttle. The shutdown of a die stands with resets.
-/

namespace Sys2Proof.Machine

/-! ## Readings (R283–R285) -/

/-- 2 × atanh(n / d) in units of 2^-64, by its series, for |n| ≤ d / 3: `k` terms from the one with exponent `e`. -/
def atanhGo (z2 : Int) : Nat → Nat → Int → Int → Int
  | 0, _, _, acc => acc
  | k + 1, e, p, acc => atanhGo z2 k (e + 2) (p * z2 / 2 ^ 64) (acc + 2 * p / (e : Int))

/-- The natural logarithm of num / den > 0 in units of 2^-64. -/
def lnFix (num den : Nat) : Int :=
  let e : Int := (Nat.log2 num : Int) - Nat.log2 den
  let y := if 0 ≤ e then (num : Int) * 2 ^ 64 / (den * 2 ^ e.toNat : Nat) else (num * 2 ^ (-e).toNat : Nat) * 2 ^ 64 / (den : Int)
  let at' := fun (n d : Int) => let z := n * 2 ^ 64 / d
    atanhGo (z * z / 2 ^ 64) 40 1 z 0
  e * at' 1 3 + at' (y - 2 ^ 64) (y + 2 ^ 64)

/-- A diode's temperature in 0.01 °C from its ΔVbe, η in UQ1.15 and the offset (R283); `key` names a reading without a value. -/
def diodeTemp (key : Nat) (v : Int) (eta : Nat) (ofs : Int) : Int :=
  if eta = 0 then Config.tempNone key else satS 16 (rndDiv (v * (20 * 10 ^ 9)) (eta * 238921) - 27315 + ofs)

/-- A thermistor's temperature in 0.01 °C (R283): 1/T = 1/T0 + ln(ρ × RB_R0) / BETA. -/
def thermTemp (key : Nat) (v : Int) (beta rb : Nat) : Int :=
  if v ≤ 0 ∨ 262144 ≤ v ∨ rb = 0 ∨ beta = 0 then Config.tempNone key else
  let l := lnFix (v.toNat * rb) ((262144 - v.toNat) * 4096)
  let d := (beta : Int) * 100 * 2 ^ 64 + 29815 * l
  if d ≤ 0 then Config.tempNone key else satS 16 (rndDiv (29815 * beta * 100 * 2 ^ 64) d.toNat - 27315)

/-- VALUE of a record. -/
def recValue (r : Nat) : Int := toS 20 (bits r 0 20)

/-- Whether the record of channel `ch` is valid at this evaluation (R284); its age is the time since its first averaged sample,
whatever steps AT has made. -/
def Chip.recValid (c : Chip) (ch : Nat) : Bool :=
  let r := c.rd (F.HK_LAST_RECORD ch)
  bits r 20 7 = ch && !bit r 28 && !bit r 29 && !bit r 30 &&
    (c.hk.taken.find ch).any fun t => decide (c.air.mono ≤ t + max (4 * c.rd F.HK_ROUND_ROUND_TEMPI * 4096) 5898240)

/-- The housekeeping channel of external input `i` (R282). -/
def extCh (i : Nat) : Nat := if i < 8 then 48 + i else 32 + i

/-- The reading of external input `i`, none while invalid. -/
def Chip.extRead (c : Chip) (i : Nat) : Option Int :=
  let r := c.rd (F.HK_LAST_RECORD (extCh i))
  let a := c.rd (F.TH_EXT_CFG_PARAM_A i)
  if !c.recValid (extCh i) then none
  else if i < 8 then some (diodeTemp i (recValue r) a (c.rdS (F.TH_EXT_CFG_PARAM_B i)))
  else some (thermTemp i (recValue r) a (c.rd (F.TH_EXT_CFG_PARAM_B i)))

/-- The reading of internal diode `j`. -/
def Chip.diodeRead (c : Chip) (j : Nat) : Option Int :=
  if c.recValid (64 + j) then
    some (diodeTemp (16 + j) (recValue (c.rd (F.HK_LAST_RECORD (64 + j)))) (Config.diodeEta j) (Config.diodeOfs j))
  else none

/-- A reading as it is used: raised while the converters disagree, 150.00 °C while invalid (R284, R285). -/
def Chip.used (c : Chip) (t : Option Int) : Int :=
  match t with
  | none => 15000
  | some v => v + if c.on F.HK_STATUS_MISMATCH then c.rd F.TH_THR_MISMATCH_ADD else 0

/-- Write a reading with its VALID; a reading that became invalid raises SENSOR. -/
def Chip.putReading (c : Chip) (temp valid : Fld) (t : Option Int) : Chip :=
  let c := c.when (c.on valid && t.isNone) fun c => c.raise F.TH_INT_STATUS_SENSOR
  (c.wr temp (ofS 16 (t.getD 15000))).wrB valid t.isSome

/-! ## Bands (R287, R288) -/

/-- UP1 to UP5 of the dies, or of the external inputs. -/
def Chip.ups (c : Chip) (die : Bool) : List Int :=
  (if die then [F.TH_BANDS_DIE0_UP1, F.TH_BANDS_DIE0_UP2, F.TH_BANDS_DIE0_UP3, F.TH_BANDS_DIE0_UP4, F.TH_BANDS_DIE1_UP5]
  else [F.TH_BANDS_EXT0_UP1, F.TH_BANDS_EXT0_UP2, F.TH_BANDS_EXT0_UP3, F.TH_BANDS_EXT0_UP4, F.TH_BANDS_EXT1_UP5]).map c.rdS

/-- Whether five thresholds rise by at least 4.00 °C each (R287). -/
def upsOk (l : List Int) : Bool := (l.zip (l.drop 1)).all fun p => decide (p.1 + 400 ≤ p.2)

/-- A write of a threshold register (R287): discarded whole, with CFG_REJECT, if the thresholds it leaves break the rule. -/
def Chip.bandsWrite (c : Chip) (l : List FldRow) (die : Bool) (h : Half) (v : Nat) : Chip :=
  let n := c.fieldsWrite l h v
  if upsOk (n.ups die) then n else c.raise F.TH_INT_STATUS_CFG_REJECT

/-- The highest band whose threshold, lowered by `hyst`, is not above `t`. -/
def bandAt (ups : List Int) (t hyst : Int) : Nat := ups.countP fun u => decide (u - hyst ≤ t)

/-- The candidate of a source in band `b` at `t` (R288). -/
def candidate (ups : List Int) (b : Nat) (t : Int) : Nat :=
  if b < 5 ∧ ups.getD b 0 ≤ t then bandAt ups t 0
  else if 0 < b ∧ t < ups.getD (b - 1) 0 - 200 then bandAt ups t 200
  else b

/-- The dwell of source `k` in band `b` at temperature `t`: the band after this evaluation (R286, R288). -/
def Chip.dwellBand (c : Chip) (k : Nat) (ups : List Int) (b : Nat) (t : Int) (first : Bool) : Chip × Nat :=
  if first then (c.setTh fun x => { x with cnt := SMap.put 0 x.cnt k 0 }, bandAt ups t 0) else
  let n := candidate ups b t
  if n = b then (c.setTh fun x => { x with cnt := SMap.put 0 x.cnt k 0 }, b) else
  let up := decide (b < n)
  let old := SMap.get 0 c.th.cnt k
  let m := if old ≠ 0 ∧ SMap.get false c.th.up k = up then old + 1 else 1
  let go := decide (8 ≤ m)
  (c.setTh fun x => { x with cnt := SMap.put 0 x.cnt k (if go then 0 else m), up := SMap.put false x.up k up }, if go then n else b)

/-- The band of source `k` is judged and written; a converter die's band reaches its consumers (R289). -/
def Chip.bandEval (c : Chip) (k : Nat) (f : Fld) (die first : Bool) (t : Int) : Chip :=
  let b := c.rd f
  let r := c.dwellBand k (c.ups die) b t first
  let c := r.1.wr f r.2
  c.when (r.2 ≠ b) fun c =>
    let c := c.raise F.TH_INT_STATUS_BAND_CHG
    if k = 1 ∨ k = 2 then (c.bandChange (k - 1) r.2).bandCut (k - 1) else c

/-! ## Throttling (R290–R294) -/

/-- The external inputs that bear on side `d` (0 = donor, 1 = service). -/
def Chip.sideInputs (c : Chip) (d : Nat) : List Nat :=
  (List.range 16).filter fun i => c.on (F.TH_EXT_CFG_EN i) && bit (c.rd (F.TH_EXT_CFG_SIDE i)) d

/-- MODE, STEP, ONLINE, E and CUT of side `d`. -/
def thMode (d : Nat) : Fld := if d = 0 then F.TH_STATUS_MODE_D else F.TH_STATUS_MODE_S
@[inherit_doc thMode] def thStep (d : Nat) : Fld := if d = 0 then F.TH_STATUS_STEP_D else F.TH_STATUS_STEP_S
@[inherit_doc thMode] def thOnline (d : Nat) : Fld := if d = 0 then F.TH_STATUS_ONLINE_D else F.TH_STATUS_ONLINE_S
@[inherit_doc thMode] def thE (d : Nat) : Fld := if d = 0 then F.TH_EXCESS_E_D else F.TH_EXCESS_E_S
@[inherit_doc thMode] def thCut (d : Nat) : Fld := if d = 0 then F.TH_EXCESS_CUT_D else F.TH_EXCESS_CUT_S

/-- The wings that side `d` covers (R290). -/
def sideWings (d : Nat) : List Nat := if d = 0 then [2, 3] else [0, 1]

/-- Write the cut of a side with its step (R294). -/
def Chip.putCut (c : Chip) (d mode step cut : Nat) : Chip :=
  let c := (((c.wr (thMode d) mode).wr (thStep d) (if mode = 1 then step else 0)).wr (thCut d) cut).wr (thOnline d) (c.onlineCount d)
  c.forEach (sideWings d) fun w c =>
    (c.wr (F.WG_THSTEP_STEP_CUT w) cut).wr (F.WG_THSTEP_STEP w) (if mode = 1 then step else if cut = 0 then 0 else 6)

/-- The step that a side enters stepped mode with: the smallest whose cut reaches the present one, 5 at most (R290). -/
def Chip.entryStep (c : Chip) (cut : Nat) : Nat := ((List.range 5).find? fun s => decide (cut ≤ s * c.rd F.TH_CFG_STEP_DB)).getD 5

/-- The throttle of side `d` at an evaluation with excess `e`. -/
def Chip.throttle (c : Chip) (d : Nat) (e : Int) (first : Bool) : Chip :=
  let mode := b2n (decide (4 < c.onlineCount d))
  let wasMode := if first then mode else c.rd (thMode d)
  let wasCut := if first then c.stepCut ((sideWings d).headD 0) else c.rd (thCut d)
  let wasStep := if first then 5 else c.rd (thStep d)
  let c := c.wr (thE d) (ofS 16 (satS 16 e))
  if mode = 0 then
    let cut := min (c.rd F.TH_CFG_CUT_MAX) (rndDiv (max 0 e * c.rd F.TH_CFG_SLOPE) 100).toNat
    let c := c.setTh fun x => { x with hotRun := SMap.put 0 x.hotRun d 0, coolRun := SMap.put 0 x.coolRun d 0 }
    (c.putCut d 0 0 cut).when (wasCut = 0 && cut ≠ 0) fun c => c.raise F.TH_INT_STATUS_THROTTLE
  else
    let enter := decide (wasMode ≠ 1)
    let step := if enter then c.entryStep wasCut else wasStep
    let run := fun m : SMap Nat => if enter then 0 else SMap.get 0 m d
    let h := if 0 < e then run c.th.hotRun + 1 else 0
    let l := if e ≤ -200 then run c.th.coolRun + 1 else 0
    let n := c.rd F.TH_CFG_STEP_DWELL
    let up := decide (n ≤ h) && decide (step < 5)
    let dn := decide (n ≤ l) && decide (0 < step)
    let new := if up then step + 1 else if dn then step - 1 else step
    let c := c.setTh fun x => { x with
      hotRun := SMap.put 0 x.hotRun d (if up || dn then 0 else h), coolRun := SMap.put 0 x.coolRun d (if up || dn then 0 else l) }
    let cut := new * c.rd F.TH_CFG_STEP_DB
    (c.putCut d 1 new cut).when ((wasCut = 0 && cut ≠ 0) || new ≠ wasStep) fun c => c.raise F.TH_INT_STATUS_THROTTLE

/-! ## The evaluation (R286) -/

/-- The three die temperatures as used: the highest of four diodes (R285). -/
def Chip.dieUsed (c : Chip) (d : Nat) : Int :=
  ((List.range 4).map fun j => c.used (c.diodeRead (4 * d + j))).foldl max (-32768)

/-- One evaluation at a round end, from the first at which the converters are ready and calibrated. -/
def Chip.thermEval (c : Chip) : Chip :=
  let first := !c.on F.TH_STATUS_ACTIVE
  if first ∧ !(c.on F.HK_STATUS_REF_READY ∧ c.on F.HK_STATUS_CAL_VALID_A ∧ c.on F.HK_STATUS_CAL_VALID_B) then c else
  -- readings
  let c := c.forEach (List.range 12) fun j c => c.putReading (F.TH_DIODE_TEMP j) (F.TH_DIODE_VALID j) (c.diodeRead j)
  let shown := fun d => ((List.range 4).map fun j => c.rdS (F.TH_DIODE_TEMP (4 * d + j))).foldl max (-32768)
  let c := ((c.wr F.TH_DIE_BD (ofS 16 (shown 0))).wr F.TH_DIE_DCD (ofS 16 (shown 1))).wr F.TH_DIE_SCD (ofS 16 (shown 2))
  let c := c.forEach (List.range 16) fun i c =>
    if c.on (F.TH_EXT_CFG_EN i) then c.putReading (F.TH_EXT_TEMP_TEMP i) (F.TH_EXT_TEMP_VALID i) (c.extRead i) else c
  -- the throttle of the first evaluation starts from the full cut
  let e := fun d => (c.sideInputs d).foldl (fun m i => max m (c.used (c.extRead i) - c.rdS (F.TH_EXT_CFG_THR i)))
    (c.dieUsed (d + 1) - c.rdS F.TH_THR_DIE_THR)
  let c := (c.throttle 0 (e 0) first).throttle 1 (e 1) first
  -- bands
  let c := c.bandEval 0 F.TH_STATUS_BAND_BD true first (c.dieUsed 0)
  let c := c.bandEval 1 F.TH_STATUS_BAND_DCD true first (c.dieUsed 1)
  let c := c.bandEval 2 F.TH_STATUS_BAND_SCD true first (c.dieUsed 2)
  let c := c.forEach (List.range 16) fun i c =>
    if c.on (F.TH_EXT_CFG_EN i) then
      (c.bandEval (3 + i) (F.TH_EXT_TEMP_BAND i) false first (c.used (c.extRead i))).wr (F.TH_EXT_TEMP_DWELL i)
        (SMap.get 0 c.th.cnt (3 + i))
    else c
  (c.wr F.TH_STATUS_ACTIVE 1).refreshWings

/-- A write of TH_EXT_CFG (R282): an input that is not evaluated reads 0x8000 with VALID 0 and has no band. -/
def Chip.extCfgWrite (c : Chip) (l : List FldRow) (i : Nat) (h : Half) (v : Nat) : Chip :=
  let c := c.fieldsWrite l h v
  if c.on (F.TH_EXT_CFG_EN i) then c else
    let c := ((c.wr (F.TH_EXT_TEMP_TEMP i) 0x8000).wr (F.TH_EXT_TEMP_VALID i) 0).wr (F.TH_EXT_TEMP_BAND i) 0
    (c.wr (F.TH_EXT_TEMP_DWELL i) 0).setTh fun x => { x with cnt := SMap.put 0 x.cnt (3 + i) 0 }

end Sys2Proof.Machine
end

