-- ==== Sys2Proof/Machine/Hk.lean ====
section
/-!
DEFINITION. The housekeeping converters (R268–R281): rounds and their entries, values and flags, records, the queue, the
cross-check, reference and calibration.
-/

namespace Sys2Proof.Machine

/-- CAL_BUSY and CAL_VALID of converter `x`. -/
def hkBusy (x : Nat) : Fld := if x = 0 then F.HK_STATUS_CAL_BUSY_A else F.HK_STATUS_CAL_BUSY_B
@[inherit_doc hkBusy] def hkValid (x : Nat) : Fld := if x = 0 then F.HK_STATUS_CAL_VALID_A else F.HK_STATUS_CAL_VALID_B

/-- Whether converter `x` reaches channel `ch` (R269). -/
def hkReaches (x ch : Nat) : Bool := ch = 63 || (decide (ch < 80) && ch % 2 = x)

/-- Whether diode mode is valid on a channel (R271). -/
def diodeCh (ch : Nat) : Bool := (decide (48 ≤ ch) && decide (ch < 56)) || (decide (64 ≤ ch) && decide (ch < 76))

/-- The entries of list `x` (R272) (DESIGN CHOICE, log 124). -/
def Chip.hkList (c : Chip) (x : Nat) : List HkEntry :=
  (List.range (min 64 (c.rd (if x = 0 then F.HK_ROUND_LEN_A else F.HK_ROUND_LEN_B)))).map fun i =>
    { kind := 2, ch := c.rd (F.HK_LIST_CH x i), settle := c.rd (F.HK_LIST_SETTLE x i), avg := c.rd (F.HK_LIST_AVG_LOG2 x i),
      pull := c.rd (F.HK_LIST_PULL x i), queue := c.on (F.HK_LIST_QUEUE x i), diode := c.on (F.HK_LIST_DIODE x i) }

/-- Whether a list entry can run on converter `x`. -/
def HkEntry.runs (e : HkEntry) (x : Nat) : Bool := hkReaches x e.ch && (!e.diode || diodeCh e.ch)

/-- The fixed thermal part of converter `x` (R272). -/
def hkFixed (x : Nat) : List HkEntry :=
  [48, 50, 52, 54, 64, 66, 68, 70, 72, 74, 40, 42, 44, 46].map fun ch =>
    { kind := 1, ch := ch + x, settle := 250, avg := 6, pull := 0, queue := false, diode := decide (48 ≤ ch) }

/-- The cross-check entry (R279). -/
def hkCross : HkEntry := { kind := 0, ch := 63, settle := 32, avg := 4, pull := 0, queue := false, diode := false }

/-- Clocks that an entry takes (R270, R271). -/
def HkEntry.clocks (e : HkEntry) : Nat := (if e.diode then 2 else 1) * (e.settle + 2 ^ e.avg)

/-- ROUND_DONE, and the evaluation that it brings (R272, R286). -/
def Chip.roundDone (c : Chip) : Chip :=
  ((c.setHk fun k => { k with running := false }).raise F.HK_INT_STATUS_ROUND_DONE).thermEval

/-- A converter has no entry left; the round is done when both have finished. -/
def Chip.hkFinish (c : Chip) (x : Nat) : Chip :=
  let c := c.setHkc x fun k => { k with fin := k.todo.isEmpty }
  c.when (c.hk.running && (c.hkc 0).fin && (c.hkc 1).fin) Chip.roundDone

/-- HK_ROUND_START (R272): at a tempo boundary whose tempo number is a multiple of ROUND_TEMPI. What a list still had to do is
skipped; a calibrating converter skips the round, and its entries are counted (R274); the other omits the cross-check (R279). One boundary
starts one round (DESIGN CHOICE, log 29). -/
def execHkRoundStart (s : State) : Host.Outcome State Fault Refusal :=
  s.onChip fun c =>
    if !c.air.onB ∨ c.tempoNum % c.rd F.HK_ROUND_ROUND_TEMPI ≠ 0 ∨ c.hk.roundTempo = some c.air.tempi then c else
    let c := c.forEach ([0, 1].filter fun x => !(c.hkc x).todo.isEmpty) fun x c =>
      ((c.inc F.HK_COUNT_SKIPPED (c.hkc x).todo.length).inc F.HK_COUNT_OVERRUN).raise F.HK_INT_STATUS_OVERRUN
    let c := c.when c.hk.running Chip.roundDone
    let c := c.wr F.HK_COUNT_ROUNDS (c.rd F.HK_COUNT_ROUNDS + 1)
    let c := c.setHk fun k => { k with
      roundAt := c.now, roundMono := c.air.mono, roundTempo := some c.air.tempi, turns := [], off := 0, running := true
      xa := none, xb := none }
    -- the slew of this boundary comes with the next AIR cycle (R63)
    let c := c.hkTurn c.air.mono c.air.slewAdj c.air.slewAdj
    let cal := c.on (hkBusy 0) || c.on (hkBusy 1)
    let c := c.forEach [0, 1] fun x c =>
      if !c.on F.HK_CTRL_REF_EN then c.setHkc x fun _ => { fin := true }
      else
        let cross := if cal && !c.on (hkBusy x) then [] else [hkCross]
        let all := cross ++ hkFixed x ++ if c.on F.HK_CTRL_RUN then c.hkList x else []
        let run := if c.on (hkBusy x) then [] else all.filter fun e => e.kind ≠ 2 || e.runs x
        let start := if cross.isEmpty then 48 else 0
        (c.inc F.HK_COUNT_SKIPPED (all.length - run.length)).setHkc x fun _ => { todo := run, clock := start, fin := run.isEmpty }
    c.when ((c.hkc 0).fin && (c.hkc 1).fin) Chip.roundDone

/-! ## Values and records (R270, R271, R275–R278) -/

/-- VALUE of a mean (R270): `sum` over `cnt` samples. -/
def Chip.hkValue (c : Chip) (x sum cnt : Nat) : Int :=
  satS 20 (rndDiv (16 * c.rd (F.HK_CALF_GAIN x) * (4 * (sum : Int) - c.rdS (F.HK_CALF_OFFSET x) * cnt)) (4 * cnt * 2 ^ 15))

/-- A record joins the queue (R276). -/
def Chip.hkQueue (c : Chip) (r : Nat) : Chip :=
  if 512 ≤ c.hk.queue.length then (c.inc F.HK_QSTAT_OVERFLOW).raise F.HK_INT_STATUS_OVERFLOW else
  let c := c.setHk fun k => { k with queue := k.queue ++ [r] }
  (c.wr F.HK_QSTAT_DEPTH c.hk.queue.length).when (c.hk.queue.length = c.rd F.HK_QSTAT_LEVEL) fun c =>
    c.raise F.HK_INT_STATUS_WATERMARK

/-- Set the bit of channel `ch` in a pair of channel words. -/
def Chip.chBit (c : Chip) (f0 f1 : Fld) (ch : Nat) : Chip := if ch < 64 then c.wrBit f0 ch true else c.wrBit f1 (ch - 64) true

/-- MISMATCH becomes 1 (R279). -/
def Chip.hkMismatch (c : Chip) : Chip :=
  if c.on F.HK_STATUS_MISMATCH then c else
  (((c.faultPulse { src := 416, cause := 1 }).wr F.HK_STATUS_MISMATCH 1).wr F.TH_STATUS_HK_SUSPECT 1).raise F.HK_INT_STATUS_MISMATCH

/-- The cross-check of the round, once both converters have a value (R279). -/
def Chip.crossCheck (c : Chip) : Chip :=
  match c.hk.xa, c.hk.xb with
  | some (some a), some (some b) =>
    let c := c.setHk fun k => { k with xa := none, xb := none }
    if (a - b).natAbs ≤ c.rd F.HK_XCHK_THR then
      ((c.setHk fun k => { k with bad := 0 }).wr F.HK_STATUS_MISMATCH 0).wr F.TH_STATUS_HK_SUSPECT 0
    else
      let c := c.setHk fun k => { k with bad := k.bad + 1 }
      if c.hk.bad < c.rd F.HK_XCHK_N then c else c.hkMismatch
  | _, _ => c

/-- When the first averaged sample of entry `e` is taken, in 10^-13 nominal Tc after the round's start: one clock of the converters is
78.6432 Tc (R268, R270). -/
def Chip.hkInstant (c : Chip) (x : Nat) (e : HkEntry) : Int := ((c.hkc x).clock + e.settle : Nat) * 786432 * 10 ^ 9

/-- The Tc that AT, and AT without steps, have run `left` × 10^-13 nominal Tc after the position `pos`, where the trim is `trim` and
these turns still come: AT runs with its trim from turn to turn, and jumps at them (DEDUCED, log 112). -/
def hkCourse (pos trim left at0 smooth : Int) : List HkTurn → Int × Int
  | [] => (at0 + left * (10 ^ 9 + trim) / 10 ^ 22, smooth + left * (10 ^ 9 + trim) / 10 ^ 22)
  | t :: l =>
    let used := (t.pos - pos) * 10 ^ 22 / (10 ^ 9 + trim)
    if left < used then (at0 + left * (10 ^ 9 + trim) / 10 ^ 22, smooth + left * (10 ^ 9 + trim) / 10 ^ 22)
    else hkCourse t.pos t.trim (left - used) (at0 + (t.pos - pos) + t.jump) (smooth + (t.pos - pos) + t.smooth) l

/-- AT, and AT without steps, at an instant of the round (R270). -/
def Hk.at' (k : Hk) (t : Int) : Nat × Nat :=
  let (a, m) := hkCourse 0 0 t k.roundAt k.roundMono k.turns
  (a.toNat, m.toNat)

/-- Whether these are sums over the samples of entry `e`, whose codes run to 16,383 (R268), with no more clips than samples. -/
def HkEntry.takes (e : HkEntry) (sum sum2 clips : Nat) : Bool :=
  decide (sum ≤ 16383 * 2 ^ e.avg) && decide (sum2 ≤ if e.diode then 16383 * 2 ^ e.avg else 0) && decide (clips ≤ e.clocks)

/-- HK_RESULT (R270): the running entry of a converter completes. `sum` is the sum of its averaged samples, `sum2` that of the
second sub-conversion in diode mode (else 0), `clips` how many samples were at code 0 or 16,383. -/
def execHkResult (conv : Fin 2) (sum sum2 clips : Nat) (s : State) : Host.Outcome State Fault Refusal :=
  s.onChip fun c =>
    match (c.hkc conv).todo with
    | [] => c
    | e :: l =>
      if !e.takes sum sum2 clips then c else
      let x := conv.val
      let n := 2 ^ e.avg
      let v1 := c.hkValue x sum n
      let v := if e.diode then satS 20 (c.hkValue x sum2 n - v1) else v1
      let ther := !e.diode && decide (40 ≤ e.ch) && decide (e.ch < 48)
      let band : Int := c.rd F.HK_OPEN_BAND
      let opn := (e.diode && decide (229376 ≤ v1)) || (ther && decide (259523 ≤ v)) ||
        (e.pull = 1 && decide (262143 - band ≤ v)) || (e.pull = 2 && decide (v ≤ band))
      let sht := (e.diode && decide (v1 ≤ 16384)) || (ther && decide (v ≤ 2621))
      let cold := !c.on F.HK_STATUS_REF_READY || !c.on (hkValid x)
      let lim := decide (v < c.rdS (F.HK_LIMIT_LO e.ch)) || decide (c.rdS (F.HK_LIMIT_HI e.ch) < v)
      let at0 := c.hk.at' (c.hkInstant x e)
      let r := ofS 20 v + e.ch * 2 ^ 20 + x * 2 ^ 27 + b2n opn * 2 ^ 28 + b2n sht * 2 ^ 29 + b2n cold * 2 ^ 30 + b2n lim * 2 ^ 31 +
        at0.1 / 256 % 2 ^ 32 * 2 ^ 32
      let c := (c.inc F.HK_QSTAT_CLIP clips).wr (F.HK_LAST_RECORD e.ch) r
      let c := c.setHk fun k => { k with taken := SMap.insert e.ch at0.2 k.taken }
      let c := c.when opn fun c => (c.chBit F.HK_OPEN0_CH F.HK_OPEN1_CH e.ch).raise F.HK_INT_STATUS_OPEN
      let c := c.when lim fun c => (c.chBit F.HK_LIM0_CH F.HK_LIM1_CH e.ch).raise F.HK_INT_STATUS_LIMIT
      let c := c.when (e.queue || (e.kind = 1 && c.on F.HK_CTRL_TH_QUEUE)) fun c => c.hkQueue r
      let c := c.when (e.kind = 0) fun c =>
        let w := some (if cold then none else some v)
        if x = 0 then ((c.wr F.HK_XVAL_VAL_A (ofS 20 v)).setHk fun k => { k with xa := w }).crossCheck
        else ((c.wr F.HK_XVAL_VAL_B (ofS 20 v)).setHk fun k => { k with xb := w }).crossCheck
      (c.setHkc x fun k => { k with todo := l, clock := k.clock + e.clocks }).hkFinish x

/-- A read of HK_QUEUE: the oldest record, or an empty one; bits [63:32] remove it (R276). -/
def Chip.hkHead (c : Chip) : Nat := c.hk.queue.headD 0x7f00000
@[inherit_doc Chip.hkHead] def Chip.hkPop (c : Chip) (h : Half) : Chip :=
  c.when h.hasHi fun c =>
    let c := c.setHk fun k => { k with queue := k.queue.drop 1 }
    c.wr F.HK_QSTAT_DEPTH c.hk.queue.length

@[inherit_doc Chip.hkHead]
def execHkQueueRead (q : Requester) (half : Half) (s : State) : Host.Outcome State Fault Refusal :=
  s.onAccess q fun c => c.read q 0x1700030 half Chip.hkHead fun c => c.hkPop half

/-! ## HK_CTRL, reference and calibration (R273, R274, R276) -/

/-- The converters stop: entries in progress give no result (R273). -/
def Chip.hkStop (c : Chip) : Chip :=
  (c.forEach [0, 1] fun x c => c.setHkc x fun k => { k with todo := [], fin := k.fin }).wr F.HK_STATUS_REF_READY 0

/-- RUN takes a value (R272): a list runs only while it is 1, and begins at a round start (DESIGN CHOICE, log 113). -/
def Chip.hkRun (c : Chip) (on : Bool) : Chip :=
  (c.wrB F.HK_CTRL_RUN on).when (!on) fun c => c.forEach [0, 1] fun x c =>
    c.when ((c.hkc x).todo.any fun e => e.kind = 2) fun c =>
      (c.setHkc x fun k => { k with todo := k.todo.filter fun e => e.kind ≠ 2 }).hkFinish x

/-- REF_EN takes a value (R273). -/
def Chip.hkRef (c : Chip) (on : Bool) : Chip := (c.wrB F.HK_CTRL_REF_EN on).when (!on) Chip.hkStop

/-- A self-calibration of converter `x` starts, or is refused (R274): what it still had to run is skipped. -/
def Chip.hkCal (c : Chip) (x : Nat) : Chip :=
  if !c.on F.HK_STATUS_REF_READY ∨ c.on (hkBusy x) then c.raise F.HK_INT_STATUS_CAL_REFUSED else
  let left := (c.hkc x).todo.length
  (((c.inc F.HK_COUNT_SKIPPED left).wr (hkBusy x) 1).setHkc x fun k => { k with todo := [] }).hkFinish x

/-- FLUSH empties the queue (R276). -/
def Chip.hkFlush (c : Chip) : Chip := (c.setHk fun k => { k with queue := [] }).wr F.HK_QSTAT_DEPTH 0

/-- A write of HK_CTRL. -/
def Chip.hkCtrl (c : Chip) (h : Half) (v : Nat) : Chip :=
  if !h.hasLo then c else
  let c := ((c.hkRef (bit v 0)).hkRun (bit v 1)).wr F.HK_CTRL_XCHK_SRC (bits v 5 1)
  let c := (c.wr F.HK_CTRL_TH_QUEUE (bits v 6 1)).when (bit v 2) fun c => c.hkCal 0
  (c.when (bit v 3) fun c => c.hkCal 1).when (bit v 4) Chip.hkFlush

/-- HK_REF_EN_WRITE (R273): a write of HK_CTRL that gives REF_EN this value and keeps the other fields. -/
def execHkRefEnWrite (q : Requester) (on : Bool) (s : State) : Host.Outcome State Fault Refusal :=
  s.onAccess q fun c => c.write q 0x1700000 fun c => c.hkRef on

/-- HK_REF_READY (R273): 500 µs with REF_EN = 1 have passed. -/
def execHkRefReady (s : State) : Host.Outcome State Fault Refusal :=
  s.onChip fun c => c.when (c.on F.HK_CTRL_REF_EN && !c.on F.HK_STATUS_REF_READY) fun c =>
    (c.wr F.HK_STATUS_REF_READY 1).raise F.HK_INT_STATUS_REF_READY

/-- HK_CAL (R274): a write of CAL_A or CAL_B. -/
def execHkCal (q : Requester) (conv : Fin 2) (s : State) : Host.Outcome State Fault Refusal :=
  s.onAccess q fun c => c.write q 0x1700000 fun c => c.hkCal conv

/-- HK_CAL_DONE (R274): the factors that the calibration found. -/
def execHkCalDone (conv : Fin 2) (offset : Int) (gain : Nat) (s : State) : Host.Outcome State Fault Refusal :=
  s.onChip fun c => c.when (c.on (hkBusy conv)) fun c =>
    ((((c.wrS (F.HK_CALF_OFFSET conv) offset).wr (F.HK_CALF_GAIN conv) gain).wr (hkBusy conv) 0).wr (hkValid conv) 1).raise
      F.HK_INT_STATUS_CAL_DONE

/-- HK_FLUSH (R276). -/
def execHkFlush (q : Requester) (s : State) : Host.Outcome State Fault Refusal :=
  s.onAccess q fun c => c.write q 0x1700000 Chip.hkFlush

end Sys2Proof.Machine
end

