-- ==== Sys2Proof/Machine/Chain.lean ====
section
/-!
DEFINITION. Chain Link (R384–R407): port states, classes and delivery, stops and messages that arrive, timing distribution,
sample streams and the play buffer.
-/

namespace Sys2Proof.Machine

/-! ## Port states (R387, R391, R405) -/

/-- STATE of port `p` becomes `st`. -/
def Chip.chlState (c : Chip) (p st : Nat) : Chip :=
  let was := c.rd (F.CHL_STATUS_STATE p)
  let c := (c.wr (F.CHL_STATUS_STATE p) st).when (was ≠ st) fun c => c.raise (F.CHL_INT_STATUS_STATE_CHG p)
  -- the fault source is active while EN = 1 and STATE is not UP
  c.wrSrc F.FLT_ACTIVE_ACTIVE (424 + p) (c.on (F.CHL_CFG_EN p) && st ≠ 2)

/-- State of transmit slot `s`. -/
def Chip.slotState (c : Chip) (p s : Nat) : Nat := bits (c.rd (F.CHL_TXSTAT_SLOT_STATE p)) (3 * s) 3

/-- Transmit slot `s` takes a state. -/
def Chip.setSlot (c : Chip) (p s st : Nat) : Chip :=
  c.wr (F.CHL_TXSTAT_SLOT_STATE p) (c.rd (F.CHL_TXSTAT_SLOT_STATE p) - c.slotState p s * 8 ^ s + st * 8 ^ s)

/-- A frame that has to be sent again from the next UP. -/
def ChlFrame.again (f : ChlFrame) : ChlFrame := { f with sent := false, redo := false, tries := 0, seq := 0 }

/-- What leaving UP does to the frames of port `p` (R391): SENT slots become UNCERTAIN, every other reliable frame waits for the
next UP. -/
def Chip.leaveUp (c : Chip) (p : Nat) : Chip :=
  let lost := (c.port p).ctlQ.filter fun f => f.sent && f.slot.isSome
  let c := lost.foldl (fun c f =>
    ((c.setSlot p (f.slot.getD 0) 5).inc (F.CHL_ERR_UNCERTAIN p)).raise (F.CHL_INT_STATUS_TX_UNCERTAIN p)) c
  let c := c.setPort p fun x => { x with
    stopQ := x.stopQ.map ChlFrame.again
    ctlQ := (x.ctlQ.filter fun f => !(f.sent && f.slot.isSome) && decide (f.kind ≤ 1)).map ChlFrame.again
    smpQ := [], acks := [], t3 := none, stopOut := [], frameOut := [] }
  c.inc (F.CHL_ERR_LOCK_LOSS p)

/-- TRAIN is entered. -/
def Chip.chlTrain (c : Chip) (p : Nat) : Chip := (c.chlState p 1).setPort p fun x => { x with initRx := false }

/-- The loss condition with a cause of R405, in UP (DEDUCED, log 62). -/
def Chip.chlLoss (c : Chip) (p cause : Nat) : Chip :=
  let c := (c.leaveUp p).chlTrain p
  (c.setPort p fun x => { x with cause := some cause }).faultPulse { src := 424 + p, cause := cause }

/-- A write of EN of port `p` (R387) (DESIGN CHOICE, log 46). -/
def Chip.chlEn (c : Chip) (p : Nat) (on : Bool) : Chip :=
  let st := c.rd (F.CHL_STATUS_STATE p)
  let c := c.wrB (F.CHL_CFG_EN p) on
  if on then (if st = 0 then c.chlTrain p else c)
  else if st = 0 then c
  else (((c.when (st = 2) fun c => c.leaveUp p).chlState p 0).wr (F.CHL_STATUS_LANE_LOCK p) 0).setPort p fun x => { x with cause := none, rows := 0 }

/-- CHL_EN_WRITE (R387): EN is written, the other fields of CHL_CFG stay. -/
def execChlEnWrite (q : Requester) (port : Fin 2) (on : Bool) (s : State) : Host.Outcome State Fault Refusal :=
  s.onAccess q fun c => c.write q (0x1C00100 + 0x100 * port) fun c => c.chlEn port on

/-! ## Blocks (R384–R386) -/

/-- One bit through a self-synchronising scrambler 1 + x^39 + x^58: `r` holds the last 58 bits sent, the newest in bit 0; the sent
bit becomes the new one. -/
def scramBit (r : Nat) (b : Bool) : Nat := (2 * r + b2n (b ^^ bit r 38 ^^ bit r 57)) % 2 ^ 58

/-- A word through the scrambler, least significant bit first: the word as sent, and the scrambler after it. -/
def scramble (r w : Nat) : Nat × Nat :=
  (List.range 64).foldl (fun p i => let r := scramBit p.2 (bit w i); (p.1 + r % 2 * 2 ^ i, r)) (0, r)

/-- Port `p` sends a block, on lane j mod 4 for block j (R384) (DESIGN CHOICE, log 100). -/
def Chip.putBlock (c : Chip) (p : Nat) (b : ChlBlock) : Chip :=
  c.setPort p fun x =>
    let s := scramble (SMap.get 0 x.scr x.lane) b.word
    { x with
      lastBlk := some b, line := SMap.insert x.lane { b with word := s.1 } x.line, scr := SMap.put 0 x.scr x.lane s.2
      lane := (x.lane + 1) % 4, rows := if x.lane = 3 then x.rows + 1 else x.rows }

/-- The control blocks of R385 but START. -/
def idleBlock : ChlBlock := { ctl := true, word := 0x0F }
@[inherit_doc idleBlock]
def alignBlock : ChlBlock := { ctl := true, word := 0x99 }
@[inherit_doc idleBlock]
def initBlock (master hops : Nat) : ChlBlock := { ctl := true, word := 0x66 + master % 2 * 2 ^ 8 + hops % 16 * 2 ^ 12 }
@[inherit_doc idleBlock]
def ackBlock (cls : Nat) (busy : Bool) (next : Nat) : ChlBlock :=
  { ctl := true, word := 0x5A + cls % 4 * 2 ^ 8 + b2n busy * 2 ^ 10 + next % 2 ^ 16 * 2 ^ 16 }

/-- The START word of a frame (R386). -/
def ChlFrame.start (f : ChlFrame) : Nat :=
  0x3C + f.cls % 4 * 2 ^ 8 + f.kind % 8 * 2 ^ 10 + f.seq % 2 ^ 16 * 2 ^ 16 + f.stream % 2 ^ 8 * 2 ^ 32 + f.dir % 2 * 2 ^ 40 +
  f.blocks.length % 64 * 2 ^ 41 + f.bw % 2 ^ 12 * 2 ^ 48

/-- A frame as blocks: START, the data blocks, and TAIL with the CRC-32 over them, each word's bytes least significant first (R386). -/
def ChlFrame.words (f : ChlFrame) : List ChlBlock :=
  let l := f.start :: f.blocks.map (· % 2 ^ 64)
  { ctl := true, word := f.start } :: (l.tail ++ [crc32 (l.flatMap (leBytes 8))]).map fun w => { ctl := false, word := w }

/-- LINK_UP (R387): every lane is locked and deskewed, 1,024 valid blocks have arrived on each, and an INIT has been received. -/
def execLinkUp (port : Fin 2) (s : State) : Host.Outcome State Fault Refusal :=
  s.onChip fun c =>
    if c.rd (F.CHL_STATUS_STATE port) = 1 ∧ (c.port port).initRx ∧ !c.railBad.contains .vddSer then
      ((c.chlState port 2).wr (F.CHL_STATUS_LANE_LOCK port) 15).setPort port fun x => { x with txSeq := [], rxSeq := [], cause := none }
    else c

/-- TRAIN_TIMEOUT (R387, R405): cause 4; the source gives an event unless it has given one since it became active. -/
def Chip.trainTimeout (c : Chip) (p : Nat) : Chip :=
  if c.rd (F.CHL_STATUS_STATE p) ≠ 1 then c else
  let fresh := (c.port p).cause.isNone
  let c := (c.chlTrain p).setPort p fun x => { x with cause := some 4 }
  c.when fresh fun c => c.faultPulse { src := 424 + p, cause := 4 }

@[inherit_doc Chip.trainTimeout]
def execTrainTimeout (port : Fin 2) (s : State) : Host.Outcome State Fault Refusal := s.onChip fun c => c.trainTimeout port

/-- LINK_LOSS (R387): block lock (cause 1) or alignment (cause 2) is lost in UP. -/
def execLinkLoss (port : Fin 2) (align : Bool) (s : State) : Host.Outcome State Fault Refusal :=
  s.onChip fun c => c.when (c.chlUp port) fun c => c.chlLoss port (if align then 2 else 1)

/-- INIT_RX (R387): in TRAIN it counts toward training; in UP the peer has restarted, a loss to which R405 gives no cause code (DESIGN CHOICE, log 45). -/
def execInitRx (port : Fin 2) (master : Bool) (hops : Fin 16) (s : State) : Host.Outcome State Fault Refusal :=
  s.onChip fun c =>
    let st := c.rd (F.CHL_STATUS_STATE port)
    if st = 0 then c else
    let c := (c.wrB (F.CHL_STATUS_PEER_MASTER port) master).wr (F.CHL_STATUS_PEER_HOPS port) hops
    if st = 1 then c.setPort port fun x => { x with initRx := true }
    else (c.chlLoss port (c.free % 256)).tick

/-- Whether the package acts as a master (R74), and the HOPS that it sends: 0 as a master (R401). -/
def Chip.chainMaster (c : Chip) : Bool := c.rd F.AIR_CTRL_SOURCE ≠ 3
@[inherit_doc Chip.chainMaster] def Chip.chainHops (c : Chip) : Nat := if c.chainMaster then 0 else c.rd F.CHL_SYS_HOPS

/-- INIT_TX (R385, R387): in TRAIN an INIT with MASTER and HOPS is sent. -/
def execInitTx (port : Fin 2) (s : State) : Host.Outcome State Fault Refusal :=
  s.onChip fun c => c.when (c.rd (F.CHL_STATUS_STATE port) = 1) fun c =>
    c.putBlock port (initBlock (b2n c.chainMaster) c.chainHops)

/-- Whether port `p` is at its ALIGN: 16,383 blocks have left on each lane since the last (R384) (DESIGN CHOICE, log 100). -/
def ChlPort.alignDue (x : ChlPort) : Bool := decide (16383 ≤ x.rows) && x.lane = 0

/-- An ALIGN block leaves on all four lanes at once (R384). -/
def Chip.alignRow (c : Chip) (p : Nat) : Chip :=
  (c.forEach (List.range 4) fun _ c => c.putBlock p alignBlock).setPort p fun x => { x with rows := 0 }

/-- ALIGN_TX (R384): in TRAIN and UP, with every 16,384th block of the lanes. -/
def execAlignTx (port : Fin 2) (s : State) : Host.Outcome State Fault Refusal :=
  s.onChip fun c => c.when (c.rd (F.CHL_STATUS_STATE port) ≠ 0 && (c.port port).alignDue) fun c => c.alignRow port

/-- CHL_FRAME_CRC_ERR (R386). -/
def execChlFrameCrcErr (port : Fin 2) (s : State) : Host.Outcome State Fault Refusal :=
  s.onChip fun c => c.when (c.rd (F.CHL_STATUS_STATE port) ≠ 0) fun c => c.inc (F.CHL_ERR_CRC_ERR port)

/-! ## Sending (R388–R390) -/

/-- A frame as it leaves: TIMING carries T1, in 2^-8 Tc. -/
def Chip.stamped (c : Chip) (f : ChlFrame) : ChlFrame := if f.cls = 1 ∧ f.kind = 2 then { f with blocks := c.now * 256 :: f.blocks } else f

/-- Whether a frame waits to be sent, for the first time or again. -/
def ChlFrame.waits (f : ChlFrame) : Bool := !f.sent || f.redo

/-- A frame that is granted takes its sequence number; one that is sent again keeps its own (R389, R390). -/
def ChlFrame.granted (n : Nat) (f : ChlFrame) : ChlFrame :=
  if f.sent then { f with redo := false } else { f with sent := true, redo := false, seq := n }

/-- The first frame that waits is granted. -/
def sendFirst (n : Nat) : List ChlFrame → List ChlFrame
  | [] => []
  | f :: l => if f.waits then f.granted n :: l else f :: sendFirst n l

/-- The number after a grant of frame `f` of its class: a new frame advances it. -/
def ChlPort.bump (x : ChlPort) (f : ChlFrame) : SMap Nat :=
  if f.sent then x.txSeq else SMap.put 0 x.txSeq f.cls ((SMap.get 0 x.txSeq f.cls + 1) % 65536)

/-- A STOP frame is granted and its first block leaves: the frame is sent three times in a row (R388). -/
def Chip.grantStop (c : Chip) (p : Nat) (f : ChlFrame) : Chip :=
  let n := SMap.get 0 (c.port p).txSeq 0
  let g := f.granted n
  (c.setPort p fun x => { x with
    stopQ := sendFirst n x.stopQ, txSeq := x.bump f, lastOut := some g, stopOut := (g.words ++ g.words ++ g.words).tail }).putBlock p
    { ctl := true, word := g.start }

/-- A CONTROL or SAMPLES frame leaves: its first block is sent, the others follow. -/
def Chip.startFrame (c : Chip) (p : Nat) (g : ChlFrame) : Chip :=
  (c.setPort p fun x => { x with lastOut := some g, frameOut := g.words.tail }).putBlock p { ctl := true, word := g.start }

/-- A CONTROL frame is granted: a reliable one takes a number and stays until it is acknowledged, another leaves the queue. -/
def Chip.grantCtl (c : Chip) (p : Nat) (f : ChlFrame) : Chip :=
  if f.kind ≤ 1 then
    let n := SMap.get 0 (c.port p).txSeq 1
    let c := (c.setPort p fun x => { x with ctlQ := sendFirst n x.ctlQ, txSeq := x.bump f }).startFrame p (f.granted n)
    match f.slot with
    | some s => c.setSlot p s 2
    | none => c
  else (c.setPort p fun x => { x with ctlQ := x.ctlQ.erase f, t3 := if f.kind = 3 then some (c.now * 256) else x.t3 }).startFrame p (c.stamped f)

/-- The next block of port `p` in UP (R388): an ACK, then a STOP frame, then the frame in progress, then a CONTROL frame, then a SAMPLES
frame, and IDLE when nothing is due. -/
def Chip.chlSend (c : Chip) (p : Nat) : Chip :=
  let x := c.port p
  match x.acks, x.stopOut with
  | a :: l, _ => (c.setPort p fun x => { x with acks := l, lastAck := some a }).putBlock p (ackBlock a.1 a.2.1 a.2.2)
  | [], b :: l => (c.setPort p fun x => { x with stopOut := l }).putBlock p b
  | [], [] =>
    match x.stopQ.find? ChlFrame.waits, x.frameOut with
    | some f, _ => c.grantStop p f
    | none, b :: l => (c.setPort p fun x => { x with frameOut := l }).putBlock p b
    | none, [] =>
      match x.ctlQ.find? ChlFrame.waits, x.smpQ with
      | some f, _ => c.grantCtl p f
      | none, f :: l => (c.setPort p fun x => { x with smpQ := l, txSeq := x.bump f }).startFrame p (f.granted (SMap.get 0 x.txSeq 2))
      | none, [] => c.putBlock p idleBlock

/-- A block boundary of port `p`: in TRAIN it sends IDLE, and DISABLED nothing (R387); an ALIGN goes before what is due. -/
def Chip.chlBlock (c : Chip) (p : Nat) : Chip :=
  let c := c.when (c.rd (F.CHL_STATUS_STATE p) ≠ 0 && (c.port p).alignDue) fun c => c.alignRow p
  match c.rd (F.CHL_STATUS_STATE p) with
  | 0 => c
  | 2 => c.chlSend p
  | _ => c.putBlock p idleBlock

/-- The block boundaries of one AIR cycle: 4 × 28.125 Gb/s over 66 bits are 25 blocks in 22 core cycles, and an AIR cycle's 8 Tc are
25,000 core cycles in 4,096 (R40, R392) (DESIGN CHOICE, log 44). -/
def Chip.chlBlocks (c : Chip) (p : Nat) : Chip :=
  if c.rd (F.CHL_STATUS_STATE p) = 0 then c else
  let n := (c.port p).credit + 78125
  iter (fun c => c.chlBlock p) (n / 11264) (c.setPort p fun x => { x with credit := n % 11264 })

/-- SEND (R389): a write of CHL_TXCMD with SEND queues a slot with the blocks it holds. -/
def Chip.chlQueue (c : Chip) (p s len : Nat) : Chip :=
  let st := c.slotState p s
  if st = 1 ∨ st = 2 ∨ len = 0 ∨ 32 < len then c
  else (c.queueCtl p 0 (some s) ((List.range len).map fun i => c.rd (F.CHL_TXBUF_DATA p (32 * s + i)))).setSlot p s 1

/-- CANCEL (R389). -/
def Chip.chlCancel (c : Chip) (p s : Nat) : Chip :=
  match c.slotState p s with
  | 1 => ((c.setPort p fun x => { x with ctlQ := x.ctlQ.filter fun f => f.slot ≠ some s }).setSlot p s 4).wr (F.CHL_TXSTAT_CANCEL_RES p) 1
  | 2 | 3 => (c.wr (F.CHL_TXSTAT_CANCEL_RES p) 2).raise (F.CHL_INT_STATUS_CANCEL_LATE p)
  | _ => c.wr (F.CHL_TXSTAT_CANCEL_RES p) 3

/-- A write of CHL_TXCMD: SEND, then CANCEL. -/
def Chip.txCmd (c : Chip) (p : Nat) (h : Half) (v : Nat) : Chip :=
  if !h.hasLo then c else
  let s := bits v 0 4
  (c.when (bit v 16) fun c => c.chlQueue p s (bits v 8 6)).when (bit v 17) fun c => c.chlCancel p s

/-- SEND (R389). -/
def execSend (q : Requester) (port : Fin 2) (slot : Fin 16) (len : Nat) (s : State) : Host.Outcome State Fault Refusal :=
  s.onAccess q fun c => c.write q (0x1C00138 + 0x100 * port) fun c => c.chlQueue port slot (len % 64)

/-- CANCEL (R389). -/
def execCancel (q : Requester) (port : Fin 2) (slot : Fin 16) (s : State) : Host.Outcome State Fault Refusal :=
  s.onAccess q fun c => c.write q (0x1C00138 + 0x100 * port) fun c => c.chlCancel port slot

/-- Whether a frame number lies below `next`, in the half of the number space before it. -/
def seqBelow (seq next : Nat) : Bool := decide ((next + 65535 - seq % 65536) % 65536 < 32768)

/-- An ACK reached the sender (R390): the frames of the class below NEXT are delivered; BUSY takes back the count of the
retransmission it answers. -/
def Chip.ackRx (c : Chip) (p cls : Nat) (busy : Bool) (next : Nat) : Chip :=
  if !c.chlUp p then c else
  let got := fun (f : ChlFrame) => f.sent && seqBelow f.seq next
  let relax := fun (f : ChlFrame) => if busy ∧ f.sent ∧ f.seq = next % 65536 then { f with tries := f.tries - 1 } else f
  if cls = 0 then c.setPort p fun x => { x with stopQ := (x.stopQ.filter fun f => !got f).map relax }
  else if cls = 1 then
    let c := ((c.port p).ctlQ.filter got).foldl (fun c f =>
      match f.slot with
      | some s => (c.setSlot p s 3).raise (F.CHL_INT_STATUS_TX_DONE p)
      | none => c) c
    c.setPort p fun x => { x with ctlQ := (x.ctlQ.filter fun f => !got f).map relax }
  else c

/-- ACK_RX (R390). -/
def execAckRx (port : Fin 2) (control busy : Bool) (next : Nat) (s : State) : Host.Outcome State Fault Refusal :=
  s.onChip fun c => c.ackRx port (b2n control) busy next

/-- RETRANSMIT (R390): RETX_US have passed since the last transmission of a class's unacknowledged frames; they are sent again in
order, or the link is lost (R387). -/
def execRetransmit (port : Fin 2) (control : Bool) (s : State) : Host.Outcome State Fault Refusal :=
  s.onChip fun c =>
    let x := c.port port
    let l := (if control then x.ctlQ else x.stopQ).filter fun f => f.sent
    if !c.chlUp port ∨ l.isEmpty then c
    else if l.any fun f => decide (c.rd (F.CHL_CFG_RETX_MAX port) ≤ f.tries) then c.chlLoss port 3
    else
      let up := fun (f : ChlFrame) => if f.sent then { f with redo := true, tries := f.tries + 1 } else f
      let c := if control then c.setPort port fun x => { x with ctlQ := x.ctlQ.map up } else c.setPort port fun x => { x with stopQ := x.stopQ.map up }
      c.inc (F.CHL_ERR_RETX port) l.length

/-! ## Receiving reliable frames (R390) -/

/-- What the receiver does with a frame of a reliable class: `g` is its effect when it is the next one and can be stored. -/
def Chip.relRx (c : Chip) (p cls seq : Nat) (full : Bool) (g : Chip → Chip) : Chip :=
  if !c.chlUp p then c else
  let next := SMap.get 0 (c.port p).rxSeq cls
  let ack := fun busy n (c : Chip) => c.setPort p fun x => { x with acks := x.acks ++ [(cls, busy, n)] }
  if seq % 65536 ≠ next then (if seqBelow seq next then ack false next c else c)
  else if full then ack true next c
  else
    let n := (next + 1) % 65536
    g (ack false n (c.setPort p fun x => { x with rxSeq := SMap.put 0 x.rxSeq cls n }))

/-- The link stop is set (R399). -/
def Chip.linkStop (c : Chip) : Chip := ((c.wr F.CHL_SYS_LINK_STOP 1).setChl fun x => { x with stopAck := none }).refreshStop false

/-- A STOP frame takes effect and goes on (R198, R399) (DESIGN CHOICE, log 100). -/
def Chip.stopFrame (c : Chip) (p kind func counter dev : Nat) (hash : List Nat) : Chip :=
  if dev = c.rd F.PRT_DEVID_DEVICE_ID then
    (c.raise (F.CHL_INT_STATUS_LOOP p)).faultPulse { src := 424 + p, cause := 5 }
  else if kind = 1 ∧ func ≤ 8 then
    if (SMap.get [] c.prt.accepted func).contains counter then c
    else
      let c := ((c.acceptCtr func counter).latchSet func hash).raise (F.CHL_INT_STATUS_STOP_RX p)
      c.sendStop (some p) 1 func counter dev hash
  else if kind = 2 then ((c.linkStop).raise (F.CHL_INT_STATUS_STOP_RX p)).sendStop (some p) 2 func counter dev hash
  else c

/-- STOP_FRAME_RX (R399). -/
def execStopFrameRx (port : Fin 2) (seq kind : Nat) (func : Fin 16) (counter devId : Nat) (hash : List Nat) (s : State) : Host.Outcome State Fault Refusal :=
  s.onChip fun c => c.relRx port 0 seq false fun c => c.stopFrame port kind func (counter % 2 ^ 64) (devId % 2 ^ 64) hash

/-- The receive queue of port `p` shows its oldest message. -/
def Chip.rxqShow (c : Chip) (p : Nat) : Chip :=
  let m := if c.on (F.CHL_RXQ_COUNT p) then SMap.get (0, false) (c.port p).rxMeta (c.rd (F.CHL_RXQ_HEAD p)) else (0, false)
  (c.wr (F.CHL_RXQ_LEN p) m.1).wrB (F.CHL_RXQ_RESUME p) m.2

/-- A message is stored in the next receive slot. -/
def Chip.rxStore (c : Chip) (p : Nat) (blocks : List Nat) (resume : Bool) : Chip :=
  let s := (c.rd (F.CHL_RXQ_HEAD p) + c.rd (F.CHL_RXQ_COUNT p)) % 16
  let c := c.forEach (List.range (min 32 blocks.length)) fun i c => c.wr (F.CHL_RXBUF_DATA p (32 * s + i)) (blocks.getD i 0)
  let c := c.setPort p fun x => { x with rxMeta := SMap.put (0, false) x.rxMeta s (min 32 blocks.length, resume) }
  ((c.inc (F.CHL_RXQ_COUNT p)).raise (F.CHL_INT_STATUS_RX_MSG p)).rxqShow p

/-- Whether the receive queue of port `p` is full. -/
def Chip.rxFull (c : Chip) (p : Nat) : Bool := decide (16 ≤ c.rd (F.CHL_RXQ_COUNT p))

/-- MESSAGE_RX (R390). -/
def execMessageRx (port : Fin 2) (seq : Nat) (blocks : List Nat) (s : State) : Host.Outcome State Fault Refusal :=
  s.onChip fun c => c.relRx port 1 seq (c.rxFull port) fun c => c.rxStore port blocks false

/-- A RESUME frame (R198): the message is verified here, its result reported, and it goes on whatever the result, unless its counter
has been accepted already (DEDUCED, log 101). -/
def Chip.resumeFrame (c : Chip) (p : Nat) (words : List Nat) : Chip :=
  let m := (List.range 20).flatMap fun w => leBytes 8 (words.getD w 0)
  let f := msgNum m 4 1
  let c := c.rxStore p words true
  if (SMap.get [] c.prt.accepted f).contains (msgNum m 8 8) then c else
  if 8 < f then c.sendResume (some p) words else
  let code := if msgNum m 2 1 = 2 then c.verdict m f (c.keySlot f) false else 2
  ((c.verifyReport f (msgNum m 2 1) code).when (code = 1) fun c => c.accept m f).sendResume (some p) words

/-- RESUME_RX (R198). -/
def execResumeRx (port : Fin 2) (seq : Nat) (words : List Nat) (s : State) : Host.Outcome State Fault Refusal :=
  s.onChip fun c => c.relRx port 1 seq (c.rxFull port) fun c => c.resumeFrame port words

/-- A write of POP (R407). -/
def Chip.rxPop (c : Chip) (p : Nat) : Chip :=
  c.when (c.on (F.CHL_RXQ_COUNT p)) fun c =>
    ((c.wr (F.CHL_RXQ_HEAD p) (c.rd (F.CHL_RXQ_HEAD p) + 1)).wr (F.CHL_RXQ_COUNT p) (c.rd (F.CHL_RXQ_COUNT p) - 1)).rxqShow p

/-- POP (R407). -/
def execPop (q : Requester) (port : Fin 2) (s : State) : Host.Outcome State Fault Refusal :=
  s.onAccess q fun c => c.write q (0x1C00148 + 0x100 * port) fun c => c.rxPop port

/-- A write of LSTOP_ACK, which the PF alone gives (R399). -/
def Chip.lstopAck (c : Chip) (q : Requester) : Chip :=
  c.when (q.isPf && c.on F.CHL_SYS_LINK_STOP) fun c => c.setChl fun x => { x with stopAck := some (c.air.tempi + 1) }

/-- LSTOP_ACK (R399). -/
def execLstopAck (q : Requester) (s : State) : Host.Outcome State Fault Refusal := s.onAccess q fun c => c.write q 0x1C00008 fun c => c.lstopAck q

/-- LINK_STOP_RELEASE (R399). -/
def execLinkStopRelease (s : State) : Host.Outcome State Fault Refusal :=
  s.onChip fun c =>
    if c.chl.stopAck.any c.dueAt ∧ c.on F.CHL_SYS_LINK_STOP then
      ((c.wr F.CHL_SYS_LINK_STOP 0).setChl fun x => { x with stopAck := none }).refreshStop true
    else c

/-! ## Timing (R401–R403) -/

/-- TIMING_TX (R401): at a radio frame, from the master on every port that is UP, from a slave on its other port. -/
def execTimingTx (port : Fin 2) (s : State) : Host.Outcome State Fault Refusal :=
  s.onChip fun c =>
    let master := c.chainMaster
    if !c.chlUp port ∨ c.now % 19660800 ≠ 0 ∨ (!master && c.rd F.AIR_CTRL_CHL_PORT = port) then c else
    let dev := if master then c.rd F.PRT_DEVID_DEVICE_ID else c.chl.master.getD c.free
    (c.queueCtl port 2 none [c.effState + 16 * c.chainHops, dev]).when (!master && c.chl.master.isNone) Chip.tick

/-- DELAY_REQ_TX (R401): a slave, 9,830,400 Tc after a radio frame's start. -/
def execDelayReqTx (port : Fin 2) (s : State) : Host.Outcome State Fault Refusal :=
  s.onChip fun c =>
    if c.chlUp port ∧ c.now % 19660800 = 9830400 ∧ c.rd F.AIR_CTRL_SOURCE = 3 ∧ c.rd F.AIR_CTRL_CHL_PORT = port then
      c.queueCtl port 3 none [0]
    else c

/-- DELAY_REQ_RX (R401): answered with T4, its arrival in 2^-8 Tc. -/
def execDelayReqRx (port : Fin 2) (t4 : Nat) (s : State) : Host.Outcome State Fault Refusal :=
  s.onChip fun c => c.when (c.chlUp port) fun c => c.queueCtl port 4 none [t4]

/-- DELAY_RESP_RX (R401): the exchange under way is complete. -/
def execDelayRespRx (port : Fin 2) (t4 : Nat) (s : State) : Host.Outcome State Fault Refusal :=
  s.onChip fun c =>
    match (c.port port).t3 with
    | none => c
    | some t => c.when (c.chlUp port) fun c => c.setPort port fun x => { x with t3 := none, exch := some ((t4 : Int) - t, c.air.mono) }

/-- A TIMING frame reaches a slave on its CHL_PORT (R402): `t1` and `t2` in 2^-8 Tc. It is a detection while its exchange is no older than
100 ms; its position is the nearest whole Tc, ties away from zero (DESIGN CHOICE, log 22). -/
def Chip.timing (c : Chip) (p t1 t2 : Nat) : Chip :=
  match (c.port p).exch with
  | none => c
  | some (d43, m) =>
    let twice := (t2 : Int) - t1 + d43
    let d := twice / 2 + if twice % 2 ≠ 0 ∧ Config.roundUp 402 twice then 1 else 0
    let err := (t2 : Int) - (t1 + d + c.rdS (F.CHL_ASYM_ASYM p))
    let c := (c.wr (F.CHL_TIME_PATH p) (ofS 32 d)).wrS (F.CHL_TIME_ERR p) err
    let pos := rndDiv (256 * (c.now : Int) - err) 256
    c.when (decide (c.air.mono - m ≤ 196608000)) fun c => c.detect { err := err, pos := (pos % (sfnCycle : Nat)).toNat, time := c.air.mono }

/-- TIMING_RX (R402, R403). -/
def execTimingRx (port : Fin 2) (t1 : Nat) (state : Fin 4) (hops : Fin 16) (devId t2 : Nat) (s : State) : Host.Outcome State Fault Refusal :=
  s.onChip fun c =>
    if !c.chlUp port then c
    else if c.rd F.AIR_CTRL_SOURCE ≠ 3 then (c.raise (F.CHL_STATUS_MASTER_CONFLICT port)).raise (F.CHL_INT_STATUS_MASTER_CONFLICT port)
    else if c.rd F.AIR_CTRL_CHL_PORT ≠ port then c
    else if 7 ≤ hops.val then c.wr F.CHL_SYS_HOPS 15
    else
      let c := (c.wr F.CHL_SYS_HOPS (hops + 1)).setChl fun x => { x with master := some (devId % 2 ^ 64) }
      let c := (c.wr F.AIR_STATUS_MASTER_STATE state).holdEval
      c.timing port t1 t2

/-! ## Sample streams (R393–R397) -/

/-- 64 samples as the 40 blocks of a SAMPLES frame (R386). -/
def packFrame (l : List Cx) : List Nat :=
  let n := (List.range 64).foldl (fun a k =>
    let x := l.getD k Cx.zero
    a + (ofS 20 x.re + ofS 20 x.im * 2 ^ 20) * 2 ^ (40 * k)) 0
  (List.range 40).map fun b => n / 2 ^ (64 * b) % 2 ^ 64

/-- A SAMPLES frame enters the queue of port `p`, of 64 frames (R392, R393). -/
def Chip.queueSmp (c : Chip) (p : Nat) (f : ChlFrame) : Chip :=
  if !c.chlUp p then c
  else if 64 ≤ (c.port p).smpQ.length then (c.inc (F.CHL_SMP_SMP_DROP p)).raise (F.CHL_INT_STATUS_SMP_LOSS p)
  else c.setPort p fun x => { x with smpQ := x.smpQ ++ [f] }

/-- SAMPLES_TX (R119, R393): 64 slot samples of a transmit lane as they left the gain stage, zeros where the stream is not processed, the
first at the origin instant `stamp` in 2^-8 Tc; `behind` samples of the lane have left the gain stage after them (DESIGN CHOICE, log 98). -/
def execSamplesTx (sq : Fin 128) (lane : Fin 8) (stamp behind : Nat) (s : State) : Host.Outcome State Fault Refusal :=
  s.onChip fun c =>
    let d := c.dest sq lane
    if !c.acts sq ∨ c.sqState sq = 0 ∨ d < 2 then c
    else c.queueSmp (d - 2)
      { cls := 2, kind := lane, stream := c.stream sq, dir := b2n (isUl sq), bw := c.slotBw sq,
        blocks := stamp % 2 ^ 64 :: packFrame
          (if bit (c.laneEn sq) lane then ((SMap.get {} (c.sq sq).out lane).samples.drop behind |>.take 64).reverse else []) }

/-- The streams with INJECT = 1, by port and stream ascending, as 256 × port + stream (R394). -/
def Chip.injecting (c : Chip) : List Nat := (List.range 512).filter fun i => c.on (F.CHL_RXSTR_INJECT (i / 256) (i % 256))

/-- Injectors in use, and NO_INJ for the streams beyond the 32nd. -/
def Chip.injEval (c : Chip) : Chip :=
  let l := c.injecting
  let c := c.wr F.CHL_SYS_INJ_USED (min 32 l.length)
  c.forEach (l.drop 32) fun i c => c.raise (F.CHL_INT_STATUS_NO_INJ (i / 256))

/-- A write of CHL_RXSTR: its stream's placement is judged again (R394) (DESIGN CHOICE, log 47). -/
def Chip.rxstrWrite (c : Chip) (p s : Nat) (rows : List FldRow) (h : Half) (v : Nat) : Chip :=
  ((c.fieldsWrite rows h v).setPort p fun x => { x with placed := SMap.erase s x.placed }).injEval

/-- Placement of an injected stream under R113 and R115. -/
def Chip.streamPlaced (c : Chip) (p s : Nat) (ul : Bool) (bw : Nat) : Bool :=
  let fs : Int := c.fs (if ul then 0 else 1)
  let sf : Int := c.rd (F.CHL_RXSTR_SUB_FIRST p s)
  let sl : Int := c.rd (F.CHL_RXSTR_SUB_LAST p s)
  let n := (sl + 1 - sf).toNat
  let tx : Int := 10 * c.rd (F.CHL_RXSTR_FC_FOLD p s)
  let half : Int := 50000 * bw
  let rm : Int := fs * 2 ^ decimD n
  let r : Int := 512 * (122880 * bw : Nat)
  decide (sf ≤ sl) && decide (n ≤ 64) && decide (r ≤ rm) && decide (rm < 32 * r) &&
  decide ((2 * sf - 1) * fs ≤ (tx - half) * 2048) && decide ((tx + half) * 2048 ≤ (2 * sl + 1) * fs)

/-- Play instant of sample `k` of a frame less the 1,024 Tc and 6 slot samples from the play buffer to the ball (R395), in 2^-8 Tc times
SLOT_BW. -/
def PlayFrame.takenAt (f : PlayFrame) (k : Nat) : Int := (f.at0 * f.bw : Nat) + k * 16000 * 256 - ((1024 * f.bw + 96000) * 256 : Nat)

/-- Whether sample `k` of a frame still waits in the play buffer. -/
def PlayFrame.holds (f : PlayFrame) (now k : Nat) : Bool := decide (((now * 256 * f.bw : Nat) : Int) < f.takenAt k)

/-- Samples of a frame that wait: of those for which the play buffer had room. -/
def PlayFrame.waiting (f : PlayFrame) (now : Nat) : Nat := (List.range f.room).countP fun k => f.holds now k

/-- The samples of a frame whose play instant is to come. -/
def PlayFrame.left (f : PlayFrame) (now : Nat) : Nat := (List.range 64).countP fun k => f.holds now k

/-- The tuning of an injected stream (R394). -/
def Chip.injTune (c : Chip) (f : PlayFrame) : Tune where
  first := c.rd (F.CHL_RXSTR_SUB_FIRST f.port f.stream)
  n := c.rd (F.CHL_RXSTR_SUB_LAST f.port f.stream) + 1 - c.rd (F.CHL_RXSTR_SUB_FIRST f.port f.stream)
  fc := c.rd (F.CHL_RXSTR_FC_FOLD f.port f.stream)
  inv := c.on (F.CHL_RXSTR_SPEC_INV f.port f.stream)
  bw := f.bw
  rate := c.rd (F.CNV_CLK_RATE_K (if f.ul then 0 else 1))

/-- Whether injected streams ramp to zero (R397): the PF's stop latch, a pin stop or a link stop, or for UL the timeline hold. -/
def Chip.injStopped (c : Chip) (ul : Bool) : Bool :=
  c.on F.PRT_STATUS_PKG_STOP || c.on F.PRT_STATUS_PIN_STOP || c.on F.CHL_SYS_LINK_STOP || (ul && c.on F.AIR_STATUS_HELD)

/-- Sample `k` of a frame is taken out of the play buffer: ramped (R129, R397), and on its way to the back combiner (R394) (DEDUCED, log 133). -/
def Chip.playSample (c : Chip) (f : PlayFrame) (k : Nat) : Chip :=
  let key := 2048 * f.port + 8 * f.stream + f.lane
  let x := SMap.get {} c.chl.inj key
  let t := c.injTune f
  let n := max 2 (128 * f.bw / 1000)
  let v := f.samples.getD k 0
  -- the clock at the back combiner whose sample leaves the ball at the play instant
  let pos := c.smp * t.clock + (f.takenAt k + ((1024 * f.bw + 96000) * 256 : Nat) - ((c.now * 256 * f.bw : Nat) : Int)).toNat * 384 * t.rate /
    (49152 * 256) - 86 * t.clock
  -- the slot samples that have passed since the stream's last: all of a ramp for one that begins
  let passed := if x.path.samples.isEmpty then n else max 1 ((pos - x.path.pos) / t.step)
  let down := if c.injStopped f.ul then min n (x.down + passed) else x.down - passed
  let y : Cx := (Cx.mk (toS 20 (bits v 0 20)) (toS 20 (bits v 20 20))).map fun i => rndOpen 4 (i * rampFactor n (n - down)) (2 ^ 16)
  let fresh := x.path.samples.isEmpty || decide (x.path.pos + 64 * t.step < pos)
  let o : OutPath := if fresh then { pos := pos, mix := { next := t.mergedAt pos + 1, phase := x.path.mix.phase } } else x.path
  let r := c.contribute t ((if f.ul then 0 else 8) + f.lane) (o.push pos y)
  r.1.setChl fun z => { z with inj := SMap.put {} z.inj key { path := r.2, down := down } }

/-- The samples whose time has come leave the play buffer (R395). -/
def Chip.chlPlay (c : Chip) : Chip :=
  if c.chl.play.isEmpty then c else
  let now := c.now
  let left := c.chl.play.filter fun f => f.left now ≠ 0
  let c := c.chl.play.foldl (fun c f => ((List.range 64).filter fun k => !f.holds now k && decide (f.done ≤ k)).foldl
    (fun c k => c.playSample f k) c) c
  (c.setChl fun x => { x with play := left.map fun f => { f with done := 64 - f.left now } }).wr F.CHL_SYS_BUF_USED
    (5 * left.foldl (fun a f => a + f.waiting now) 0)

/-- A frame that is injected: its margin, the samples that come too late, and the play buffer (R395) (DEDUCED, log 133). -/
def Chip.inject (c : Chip) (p stream : Nat) (ul : Bool) (lane bw stamp : Nat) (words : List Nat) : Chip :=
  let pd := c.rd (F.CHL_CFG_PLAY_DELAY p)
  -- how far the play instant of the first sample lies ahead, in 2^-8 Tc: STAMP counts modulo 2^64 (R386)
  let ahead : Int := toS 64 ((((stamp + pd * 256 : Nat) : Int) - (c.now * 256 : Nat)) % (2 ^ 64 : Nat)).toNat
  -- margin of sample k in 2^-8 Tc, times bw
  let margin := fun (k : Nat) => ahead * bw + k * 16000 * 256 - (1024 * bw + 96000) * 256
  let head := satS 32 (margin 0 / (256 * bw : Nat))
  let c := c.when (decide (head < c.rdS (F.CHL_HEAD_HEADROOM p))) fun c => c.wrS (F.CHL_HEAD_HEADROOM p) head
  let n := words.foldr (fun w a => w % 2 ^ 64 + 2 ^ 64 * a) 0
  let room := (1048576 - c.rd F.CHL_SYS_BUF_USED) / 5
  let good := (List.range 64).filter fun k => decide (0 ≤ margin k)
  let kept := good.take room
  let samples := (List.range 64).map fun k => if kept.contains k then n / 2 ^ (40 * k) % 2 ^ 40 else 0
  let c := c.when (decide (kept.length < 64)) fun c => (c.inc (F.CHL_SMP_LATE p)).raise (F.CHL_INT_STATUS_SMP_LOSS p)
  if kept.isEmpty then c else
  (c.setChl fun x => { x with play := x.play ++ [
    { port := p, stream := stream, lane := lane, ul := ul, bw := bw, at0 := ((c.now * 256 : Nat) + ahead).toNat
      room := 1 + kept.foldl max 0, samples := samples }] }).inc
    F.CHL_SYS_BUF_USED (5 * kept.length)

/-- Whether a stream of the relay's own leaves on port `p` with the same STREAM: in OFF a square sends none (R393, R396) (DESIGN CHOICE, log 46). -/
def Chip.ownStream (c : Chip) (p stream : Nat) : Bool :=
  allSquares.any fun n => c.acts n && decide (c.sqState n ≠ 0) && c.stream n = stream && (List.range 8).any fun t => c.dest n t = p + 2

/-- SAMPLES_RX (R390, R394–R396): a frame of a stream arrives, with its 40 payload blocks. -/
def execSamplesRx (port : Fin 2) (seq : Nat) (stream : Fin 256) (ul : Bool) (lane : Fin 8) (slotBw stamp : Nat) (words : List Nat) (s : State) : Host.Outcome State Fault Refusal :=
  s.onChip fun c =>
    if !c.chlUp port then c else
    let p := port.val
    let bw := slotBw % 4096
    let gap := (seq % 65536 + 65536 - SMap.get 0 (c.port p).rxSeq 2) % 65536
    let c := c.when (gap ≠ 0) fun c => (c.inc (F.CHL_SMP_MISSING p) gap).raise (F.CHL_INT_STATUS_SMP_LOSS p)
    let c := c.setPort p fun x => { x with
      rxSeq := SMap.put 0 x.rxSeq 2 ((seq + 1) % 65536), actAt := SMap.put 0 x.actAt stream (c.air.mono + 1) }
    let c := if !c.on (F.CHL_RXSTR_FWD p stream) then c
      else if c.ownStream (1 - p) stream then (c.inc (F.CHL_SMP_CONFLICT (1 - p))).raise (F.CHL_INT_STATUS_CONFLICT (1 - p))
      else c.queueSmp (1 - p) { cls := 2, kind := lane, stream := stream, dir := b2n ul, bw := bw, blocks := stamp % 2 ^ 64 :: words }
    if !c.on (F.CHL_RXSTR_INJECT p stream) then c
    else if !(c.injecting.take 32).contains (256 * p + stream) then c.raise (F.CHL_INT_STATUS_NO_INJ p)
    else
      let judged := (c.port p).placed.find stream
      let ok := c.streamPlaced p stream ul bw
      let c := match judged with
        | some (b, _) => if b = bw then c else
            (c.setPort p fun x => { x with placed := SMap.insert stream (bw, ok) x.placed }).when (!ok) fun c => c.raise (F.CHL_INT_STATUS_PLACE_ERR p)
        | none => (c.setPort p fun x => { x with placed := SMap.insert stream (bw, ok) x.placed }).when (!ok) fun c => c.raise (F.CHL_INT_STATUS_PLACE_ERR p)
      let good := match (c.port p).placed.find stream with
        | some (_, b) => b
        | none => false
      if !good ∨ bw = 0 ∨ !bit (c.rd (F.CHL_RXSTR_LANES p stream)) lane then c
      else c.inject p stream ul lane bw (stamp % 2 ^ 64) words

/-- CHL_RXACT[p][j] (R407): a frame of the stream arrived within the last 1 ms. -/
def Chip.rxAct (c : Chip) (p j : Nat) : Nat :=
  (List.range 64).foldl (fun a i =>
    let t := SMap.get 0 (c.port p).actAt (64 * j + i)
    if t ≠ 0 ∧ c.air.mono + 1 - t ≤ 1966080 then a + 2 ^ i else a) 0

/-- What Chain Link does by itself in a core cycle: each port sends its blocks, and played samples leave the buffer (DESIGN CHOICE, log 44). -/
def Chip.chlTick (c : Chip) : Chip := ((c.chlBlocks 0).chlBlocks 1).chlPlay

end Sys2Proof.Machine
end

