-- ==== Sys2Proof/Machine/Security.lean ====
section
/-!
DEFINITION. Security (R408–R419): the key slots, the key store's self-test, and the test access port.
-/

namespace Sys2Proof.Machine

/-! ## Key slots (R414, R415) -/

/-- The first test of R415 that a slot command fails; 1 when none does. -/
def Chip.keyJudge (c : Chip) (slot op : Nat) : Nat :=
  if 8 < slot ∨ op = 0 then 2
  else if op ≠ 3 ∧ c.rdBit F.SEC_KEY_VALID_LOCKED slot then 3
  else if op ≠ 3 ∧ c.stopped slot then 8
  else if op = 1 ∧ (List.range 4).all (fun j => c.rd (F.SEC_KEY_STAGE_HASH j) = 0) then 4
  else 1

/-- What an accepted slot command does. -/
def Chip.keyAct (c : Chip) (slot op : Nat) : Chip :=
  match op with
  | 1 => (c.forEach (List.range 4) fun j c => c.wr (F.SEC_KEY_HASH slot j) (c.rd (F.SEC_KEY_STAGE_HASH j))).wrBit F.SEC_KEY_VALID_VALID slot true
  | 2 => (c.forEach (List.range 4) fun j c => c.wr (F.SEC_KEY_HASH slot j) 0).wrBit F.SEC_KEY_VALID_VALID slot false
  | _ => c.wrBit F.SEC_KEY_VALID_LOCKED slot true

/-- A write of bits [31:0] of SEC_KEY_CMD (R415). -/
def Chip.keyCmd (c : Chip) (slot op : Nat) : Chip :=
  let r := c.keyJudge slot op
  let c := ((c.wr F.SEC_KEY_STATUS_RESULT r).wr F.SEC_KEY_STATUS_SLOT slot).wr F.SEC_KEY_STATUS_OP op
  if r = 1 then c.keyAct slot op else c

/-- KEY_LOAD (R415): OP 1. -/
def execKeyLoad (q : Requester) (slot : Fin 16) (s : State) : Host.Outcome State Fault Refusal :=
  s.onAccess q fun c => c.write q 0x1D00008 fun c => c.keyCmd slot 1

/-- KEY_CLEAR (R415): OP 2. -/
def execKeyClear (q : Requester) (slot : Fin 16) (s : State) : Host.Outcome State Fault Refusal :=
  s.onAccess q fun c => c.write q 0x1D00008 fun c => c.keyCmd slot 2

/-- KEY_LOCK (R415): OP 3. -/
def execKeyLock (q : Requester) (slot : Fin 16) (s : State) : Host.Outcome State Fault Refusal :=
  s.onAccess q fun c => c.write q 0x1D00008 fun c => c.keyCmd slot 3

/-- SELFTEST_DONE (R416): the known-answer tests end; pending mailboxes are verified from now on. -/
def execSelftestDone (katFail : Bool) (s : State) : Host.Outcome State Fault Refusal :=
  s.onChip fun c =>
    if c.on F.SEC_STATUS_SELFTEST_DONE then c else
    ((c.raise F.SEC_STATUS_SELFTEST_DONE).wrB F.SEC_STATUS_KAT_FAIL katFail).when katFail fun c => c.faultPulse { src := 444, cause := 1 }

/-! ## JTAG (R417, R418) -/

/-- The instruction that an opcode selects: every opcode that the table does not hold acts as BYPASS. -/
def tapInstr (op : Nat) : Nat := if [0, 1, 2, 4, 5].contains op then op else 0xFF

/-- Whether the instruction register stops every square. -/
def Tap.stops (t : Tap) : Bool := [0, 4, 5].contains t.ir

/-- Whether an instruction selects the boundary cells. -/
def tapScans (op : Nat) : Bool := op = 0 || op = 1

/-- The instruction register takes an opcode, and the data register that it selects captures: IDCODE its word, the bypass register 0, the
boundary cells what is on the balls (DESIGN CHOICE, log 48). -/
def Chip.tapLoad (c : Chip) (op : Nat) : Chip :=
  let i := tapInstr op
  let dr := if i = 2 then .idcode (c.rd F.SEC_IDCODE_IDCODE) else if tapScans i then .boundary c.free else .bypass
  let off := if c.tap.stops then c.air.tempi + 1 else c.tap.offAt
  let c := { c with tap := { c.tap with ir := i, dr := dr, offAt := off } }.when (tapScans i) Chip.tick
  c.when (c.tap.stops && !c.inReset) fun c => (c.raise F.SEC_STATUS_JTAG_STOP).refreshStop false

/-- The levels that the cells of the PWM pairs drive: a pair that would drive both high drives both low (R418). -/
def Tap.pwm (t : Tap) : Nat × Nat :=
  let both := Nat.land t.pwmH t.pwmL
  (t.pwmH - both, t.pwmL - both)

/-- EXTEST (R418): the balls take what the cells hold; new values for them come by SAMPLE_PRELOAD. -/
def execExtest (s : State) : Host.Outcome State Fault Refusal := s.onPkg fun c => c.tapLoad 0

/-- SAMPLE_PRELOAD (R417): the cells capture the balls, and take what is shifted in. -/
def execSamplePreload (pwmH pwmL others : Nat) (s : State) : Host.Outcome State Fault Refusal :=
  s.onPkg fun c =>
    let c := c.tapLoad 1
    { c with tap := { c.tap with pwmH := pwmH % 2 ^ 16, pwmL := pwmL % 2 ^ 16, others := others } }

/-- IDCODE (R417), which Test-Logic-Reset selects too. -/
def execIdcode (s : State) : Host.Outcome State Fault Refusal := s.onPkg fun c => c.tapLoad 2

/-- CLAMP (R418). -/
def execClamp (s : State) : Host.Outcome State Fault Refusal := s.onPkg fun c => c.tapLoad 4

/-- HIGHZ (R418). -/
def execHighz (s : State) : Host.Outcome State Fault Refusal := s.onPkg fun c => c.tapLoad 5

/-- BYPASS (R417): its opcode, or any other that the table does not hold. -/
def execBypass (opcode : Fin 256) (s : State) : Host.Outcome State Fault Refusal := s.onPkg fun c => c.tapLoad opcode

/-- JTAG_STOP_RELEASE (R418): at the first tempo boundary after another instruction came into the register (DESIGN CHOICE, log 48). -/
def execJtagStopRelease (s : State) : Host.Outcome State Fault Refusal :=
  s.onChip fun c =>
    if c.dueAt c.tap.offAt ∧ !c.tap.stops ∧ c.on F.SEC_STATUS_JTAG_STOP then (c.wr F.SEC_STATUS_JTAG_STOP 0).refreshStop true else c

end Sys2Proof.Machine
end

