-- ==== Sys2Proof/Machine/Zmd.lean ====
section
/-!
DEFINITION. The Zarid metrology die (R19, R20, R224–R246): its start and restarts, the meter, the guard, the signed reports,
the commands of the meter port, and the mirror that the board die shows in the MTR block.
-/

namespace Sys2Proof.Machine

/-! ## Calibration (R230) -/

/-- The image of the generation in force, in SEALED_BOARD. -/
def Zmd.gen (z : Zmd) : SMap Nat := (z.slots.find z.mem.calGen).getD []

/-- Coupling at `f` along points of rising frequency: linear between two points, constant beyond the ends (R230). -/
def coupleAt (f : Nat) : List (Nat × Int) → Int
  | [] => 0
  | [p] => p.2
  | p :: q :: l =>
    if f ≤ p.1 then p.2
    else if f ≤ q.1 then p.2 + rndDiv ((q.2 - p.2) * (f - p.1 : Nat)) (q.1 - p.1)
    else coupleAt f (q :: l)

/-- The board coupling of input `i` at `f`, 0 outside SEALED_BOARD (R235). -/
def Zmd.coupling (z : Zmd) (i f : Nat) : Int := if z.mem.sealed = 2 then coupleAt f (Config.calPoints z.gen i) else 0

/-- The guard ceiling of input `i` at the ball, in 0.001 dBm (R238). -/
def Zmd.ceiling (z : Zmd) (i : Nat) : Int :=
  if z.mem.sealed = 2 then Config.calCeiling z.gen i - coupleAt 0 (Config.calPoints z.gen i) else 10000

/-! ## The receivers (R232–R235) -/

/-- The enabled windows of input `i`, ascending. -/
def ZmdMem.winsOf (z : ZmdMem) (i : Nat) : List Nat := (z.wins.filter fun p => p.1 / 16 = i).map fun p => p.1 % 16

/-- The window that the receiver of input `i` visits after its last one, round-robin (R233). -/
def ZmdMem.nextWin (z : ZmdMem) (i : Nat) : Option Nat :=
  let l := z.winsOf i
  match z.last.find i with
  | none => l.head?
  | some w => (l.find? fun v => w < v).or l.head?

/-- The receiver of input `i` turns to its next window, with the settings and the gain of now (R233, R234). -/
def ZmdMem.beginDwell (z : ZmdMem) (i : Nat) : ZmdMem :=
  match z.nextWin i with
  | none => { z with dwells := SMap.erase i z.dwells }
  | some w =>
    let d := SMap.get (0, 0) z.wins (16 * i + w)
    { z with dwells := SMap.insert i ⟨w, d.1, d.2, z.dwell, SMap.get 0 z.gain i⟩ z.dwells }

/-- Every receiver without a dwell begins one. -/
def ZmdMem.beginDwells (z : ZmdMem) : ZmdMem :=
  (List.range 16).foldl (fun z i => if (z.dwells.find i).isSome then z else z.beginDwell i) z

/-- A reference check of input `i` finds the correction `corr`; the dwell that it postponed begins after it (R234) (DEDUCED, log 107). -/
def ZmdMem.refCheck (z : ZmdMem) (i : Nat) (corr : Int) : ZmdMem :=
  ({ z with refCorr := SMap.put 0 z.refCorr i corr, gain := SMap.put 0 z.gain i (SMap.get 0 z.gain i + corr) }).beginDwell i

/-- REF_FAIL of an input (R234): its last correction exceeds 0.10 dB. -/
def ZmdMem.refFail (z : ZmdMem) (i : Nat) : Bool := decide (100 < (SMap.get 0 z.refCorr i).natAbs)

/-! ## Start and restarts (R224–R231) -/

/-- A report on the mirror link that does not arrive whole is lost to the board die (R244) (DESIGN CHOICE, log 110). -/
def Chip.mirrorLost (c : Chip) : Chip :=
  match c.zmd.mem.mir with
  | some (_, _, true) => c.wr F.MTR_STATUS_REPORT_LOST 1
  | _ => c

/-- The ZMD stops: its memory is lost, and the permit with it. -/
def Chip.zmdStop (c : Chip) (wait : Bool) : Chip :=
  c.mirrorLost.setZmd fun z => { z with mem := {}, clkWait := wait, resp := none }

/-- Whether the ZMD has its supply (R225). -/
def Chip.zmdPower (c : Chip) : Bool := !c.railBad.contains .vddZm

/-- ZMD_RESET (R224): VDD_ZM power-on, or ZM_RST_N low. -/
def execZmdReset (s : State) : Host.Outcome State Fault Refusal := s.onPkg fun c => c.when c.zmdPower fun c => c.zmdStop false

/-- CLOCK_FAULT (R227): the ZMD stops, in a start or after it, and its permit is withdrawn. -/
def execClockFault (s : State) : Host.Outcome State Fault Refusal :=
  s.onPkg fun c => c.when (c.zmdPower && !c.zmd.clkWait) fun c => c.zmdStop true

/-- ZMD_RESTART (R227): the start begins again; its first report will carry CLK_FAULT. -/
def execZmdRestart (s : State) : Host.Outcome State Fault Refusal :=
  s.onPkg fun c => c.when c.zmd.clkWait fun c => c.setZmd fun z => { z with clkWait := false, mem := { z.mem with clkFlag := true } }

/-- The highest valid generation among the slots that pass their check (R229). -/
def Zmd.best (z : Zmd) (ok : Nat) : Nat := z.slots.foldl (fun a p => if bit ok p.1 then max a p.1 else a) 0

/-- ZMD_START_DONE (R226, R228, R229): the die calibration and the identity key passed their checks or not; what the start found;
the seal monitor found its retention valid, which it does not after a loss of VBAT (R245); ZM_CALEN was high. -/
def execZmdStartDone (otpOk : Bool) (found : StartFound) (monOk calen : Bool) (s : State) : Host.Outcome State Fault Refusal :=
  s.onPkg fun c =>
    if c.zmd.mem.run ∨ c.zmd.clkWait ∨ !c.zmdPower then c else
    c.setZmd fun z =>
      let g := z.best found.slots
      let sl := if !otpOk then 3 else if g = 0 then 1 else 2
      let board := sl = 2
      let img := (z.slots.find g).getD []
      let wins := if board then (Config.calWindows img).foldl (fun m w => SMap.insert (16 * w.1 + w.2.1) w.2.2 m) [] else []
      let tim := if board then Config.calTiming img else (100, 100)
      let valid := monOk && !z.vbatLost
      let m : ZmdMem := {
        run := true, sealed := sl, calGen := if board then g else 0, monLost := !valid, session := calen
        clkFlag := z.mem.clkFlag, wins := wins, calWins := wins, period := tim.1, dwell := tim.2 }
      let m := (List.range 16).foldl (fun m i => m.refCheck i (found.refs.getD i 0)) m
      { z with bootEpoch := if valid then (z.bootEpoch + 1) % 2 ^ 32 else 1, vbatLost := c.railBad.contains .vbat, mem := m }

/-! ## The meter (R235–R237) -/

/-- A power in 10^-12 mW, as num / den, in 0.001 dBm. -/
def dbm (num den : Nat) : Int := dbSearch (num ^ 20000) ((den * 10 ^ 12) ^ 20000) 18 (-131072)

/-- A power corrected by `g` in 0.001 dB, of at most 20 decades, rounded down (R234) (DESIGN CHOICE, log 108). -/
def corrected (g : Int) (b : Nat) : Nat :=
  if g = 0 then b else
  let w := (g + 200000).toNat
  b * 10 ^ (w / 10000) * iroot 10000 44 (10 ^ (w % 10000) * 2 ^ 400000) / (10 ^ 20 * 2 ^ 40)

/-- A dwell is accumulated: block powers, OVERLOAD, and a failed condition (R235, R237); `k` is the die correction, which brings
the power to the coupler input. -/
def WinAcc.dwell (a : WinAcc) (blocks : List Nat) (us : Nat) (k : Int) (above ok : Bool) : WinAcc :=
  let top := blocks.foldl max 0
  let burst := blocks.filter fun b => decide (top ≤ 1000 * b)
  let total := blocks.foldl (· + ·) 0
  let m := dbm total blocks.length + k
  { a with
    sum := a.sum + total, cnt := a.cnt + blocks.length
    burstSum := a.burstSum + burst.foldl (· + ·) 0, burstCnt := a.burstCnt + burst.length
    peak := max a.peak top, dwells := a.dwells + 1, us := a.us + us, above := a.above || above
    bad := a.bad || !ok || decide (total = 0) || decide (m < -50000) || decide (0 < m) }

/-- DWELL_END (R233, R235): the dwell of an input ends. `blocks` are the block powers as its receiver measured them, before the
correction of its gain; `ok`: junction and source meet R237. A dwell whose window has meanwhile been changed or disabled belongs
to no window of the period (DEDUCED, log 107). -/
def execDwellEnd (input : Fin 16) (blocks : List Nat) (above ok : Bool) (s : State) : Host.Outcome State Fault Refusal :=
  s.onPkg fun c =>
    match c.zmd.mem.dwells.find input with
    | none => c
    | some d =>
      if !c.zmd.mem.run ∨ c.zmd.hot then c else
      let n := c.freeCtr
      c.tick.setZm fun z =>
        let k := 16 * input + d.win
        let a := (SMap.get {} z.acc k).dwell (blocks.map (corrected d.gain)) d.us (Config.dieCorr d.fc n) above ok
        let z := { z with last := SMap.insert input d.win z.last }
        (if z.wins.find k = some (d.fc, d.bw) then { z with acc := SMap.insert k a z.acc } else z).beginDwell input

/-- REFERENCE_CHECK (R234): the correction found, in 0.001 dB. -/
def execReferenceCheck (input : Fin 16) (corr : Int) (s : State) : Host.Outcome State Fault Refusal :=
  s.onPkg fun c => c.when (c.zmd.mem.run && !c.zmd.hot) fun c => c.setZm fun z => z.refCheck input corr

/-! ## Reports (R240) -/

/-- The 32-byte record of a window; `n` numbers the free values of the report. -/
def Zmd.winRecord (z : Zmd) (n key fc bw : Nat) : List Nat :=
  let i := key / 16
  let a := SMap.get {} z.mem.acc key
  let corr := Config.dieCorr fc n + z.coupling i fc
  let val := fun num den => if z.mem.sealed = 3 ∨ a.dwells = 0 ∨ num = 0 then 0x80000000 else ofS 32 (dbm num den + corr)
  let under := a.dwells ≠ 0 && (decide (a.sum = 0) || decide (dbm a.sum a.cnt + Config.dieCorr fc n < -60000))
  let rf := z.mem.refFail i
  let out := a.bad || decide (bw < 1000) || decide (a.dwells < 100) || rf
  let flags := b2n a.above + 2 * b2n under + 4 * b2n rf + 8 * b2n (a.dwells = 0) + 16 * b2n out
  [i, key % 16, flags, 0] ++ beBytes 4 fc ++ beBytes 4 bw ++ beBytes 4 (val a.sum a.cnt) ++ beBytes 4 (val a.burstSum a.burstCnt) ++
    beBytes 4 (val a.peak 1) ++ beBytes 2 (a.us * 10 / z.mem.period) ++ [0, 0] ++ beBytes 4 a.dwells

/-- ZM_CORE cycles in one millisecond (R39). -/
def zmMs : Nat := 245760

/-- FLAGS of a report. -/
def ZmdMem.flags (z : ZmdMem) : Nat :=
  b2n (z.sealed = 2) + 2 * b2n (z.wins ≠ z.calWins) + 4 * b2n z.clkFlag + 8 * b2n z.monLost + 16 * b2n z.session

/-- A report without its signature, at the end `zt` of its period. -/
def Zmd.report (z : Zmd) (dev n zt : Nat) : List Nat :=
  let m := z.mem
  let absent := m.absent + (match m.absentFrom with | none => 0 | some t => zt - t)
  [0, 1, m.sealed, m.flags, m.calGen, 0] ++ beBytes 2 m.wins.length ++ beBytes 8 dev ++ beBytes 4 z.bootEpoch ++ beBytes 4 (m.seq + 1) ++
    beBytes 8 m.start ++ beBytes 8 zt ++ beBytes 8 (m.pps.getD (2 ^ 64 - 1)) ++
    (if m.nonce.isEmpty then List.replicate 16 0 else m.nonce) ++ beBytes 4 m.events ++ beBytes 4 (absent * 1000 / zmMs) ++
    beBytes 4 m.period ++ beBytes 4 m.dwell ++ m.wins.flatMap fun p => z.winRecord n p.1 p.2.1 p.2.2

/-- REPORT_PERIOD_END (R236, R240, R243): the report of the period starts signing, the next period starts with the settings
that waited. -/
def execReportPeriodEnd (s : State) : Host.Outcome State Fault Refusal :=
  s.onPkg fun c =>
    if !c.zmd.mem.run then c else
    let n := c.freeCtr
    (c.tick).setZmd fun z =>
      let m := z.mem
      let zt := m.start + m.period * zmMs
      let rep := z.report (c.rd F.PRT_DEVID_DEVICE_ID) n zt
      let wins := m.winNew.foldl (fun w p => match p.2 with | none => SMap.erase p.1 w | some d => SMap.insert p.1 d w) m.wins
      let tim := m.timeNew.getD (m.period, m.dwell)
      { z with mem := ZmdMem.beginDwells { m with
          zt := max m.zt zt, seq := m.seq + 1, signing := some (m.seq + 1, rep), start := zt, pps := none, events := 0
          absent := 0, absentFrom := m.absentFrom.map fun _ => zt, acc := [], clkFlag := false
          wins := wins, winNew := [], period := tim.1, dwell := tim.2, timeNew := none
          nonce := m.nonceNew.getD [], nonceNew := none } }

/-- A number as a secret key: from 1 to the order of the base point less 1. -/
def secretOf (k : Nat) : Nat := k % (p256N - 1) + 1

/-- The secret key in use. -/
def zmdSecret : Nat := secretOf Config.zmdSecretKey

/-- The 64 bytes of the signature over the bytes of a report, with `k` the secret number drawn for it (R240). -/
def signReport (rep : List Nat) (k : Nat) : List Nat :=
  let g := ecdsaSign zmdSecret (beWord (sha256 rep)) k 64
  beBytes 32 g.1 ++ beBytes 32 g.2

/-- REPORT_SIGNED (R240, R241, R243): the signature stands, the report is held with the last 16 and goes onto the mirror, and
MP_EVT_N pulses. The number that ECDSA draws is a free value; in VOID the signature bytes are 0. A report
still on the mirror link is lost there (DESIGN CHOICE, log 19). -/
def execReportSigned (s : State) : Host.Outcome State Fault Refusal :=
  s.onPkg fun c =>
    match c.zmd.mem.signing with
    | none => c
    | some (seq, rep) =>
      let sig := if c.zmd.mem.sealed = 3 then List.replicate 64 0 else signReport rep c.free
      c.tick.mirrorLost.setZmd fun z => { z with
        evts := z.evts + 1
        mem := { z.mem with
          signing := none, reports := ((seq, rep ++ sig) :: z.mem.reports).take 16, mir := some (seq, rep ++ sig, c.mirSeen), mirBad := false } }

/-! ## The guard (R238, R239) -/

/-- CEILING on the last 4 blocks of an input, newest first (R238). -/
def ceilingHit (lim : Int) (l : List Int) : Bool := decide (4 ≤ l.length) && (l.take 4).all fun b => decide (lim < b)

/-- RUNAWAY on the last blocks of an input, newest first: each of the last 24 rises by 0.75 dB or more (R238) (DESIGN CHOICE, log 26). -/
def runawayHit (l : List Int) : Bool :=
  decide (25 ≤ l.length) && ((l.take 24).zip (l.drop 1)).all (fun p => decide (p.2 + 750 ≤ p.1)) && decide (-30000 ≤ l.headD (-30001))

/-- GUARD_DECISION (R238, R239): `blocks` are the last block powers of each input at the ball, newest first, in 0.001 dBm. -/
def execGuardDecision (blocks : List (List Int)) (s : State) : Host.Outcome State Fault Refusal :=
  s.onPkg fun c =>
    let z := c.zmd
    let ceil := fun i => ceilingHit (z.ceiling i) (blocks.getD i [])
    let run := fun i => runawayHit (blocks.getD i [])
    let cause := b2n ((List.range 16).any ceil) + 2 * b2n ((List.range 16).any run)
    if !z.mem.run ∨ cause = 0 then c else
    let input := ((List.range 16).find? fun i => ceil i || run i).getD 0
    c.setZm fun m =>
      let m := { m with
        events := m.events + 1, guardCnt := satU 16 (m.guardCnt + 1), decisions := ((m.zt, cause, input) :: m.decisions).take 32 }
      if m.hold then m else
      let ms := match m.holdEnd with
        | none => 10
        | some t => if m.zt ≤ t + 60000 * zmMs then min 40960 (2 * m.holdMs) else 10
      { m with hold := true, holdFrom := m.zt, holdMs := ms }

/-- GUARD_HOLD_END (R239): the hold time has passed. The permit is given again, or the hold restarts while an input meets CEILING. -/
def execGuardHoldEnd (ceiling : Bool) (s : State) : Host.Outcome State Fault Refusal :=
  s.onPkg fun c => c.when c.zmd.mem.hold fun c => c.setZm fun m =>
    let zt := max m.zt (m.holdFrom + m.holdMs * zmMs)
    if ceiling then { m with zt := zt, holdFrom := zt } else { m with zt := zt, hold := false, holdEnd := some zt }

/-- GUARD_HOLD_RESET (R239): 60 s have passed since the end of a hold without a decision. -/
def execGuardHoldReset (s : State) : Host.Outcome State Fault Refusal :=
  s.onPkg fun c => c.when (c.zmd.mem.run && !c.zmd.mem.hold) fun c => c.setZm fun m => { m with holdMs := 10, holdEnd := none }

/-! ## The meter port (R242, R243, R231) -/

/-- A response frame: CMD + 0x80, TAG, status and data, between 0xA5 with the length and the CRC. -/
def mpFrame (cmd tag status : Nat) (data : List Nat) : List Nat :=
  let body := beBytes 2 (data.length + 1) ++ [(cmd + 0x80) % 256, tag % 256, status] ++ data
  0xA5 :: body ++ beBytes 2 (crc16Bytes body)

/-- The ZMD answers a command; a port that does not run yet is silent (R226). -/
def Chip.mpReply (c : Chip) (cmd tag status : Nat) (data : List Nat) : Chip :=
  c.setZmd fun z => { z with resp := some (mpFrame cmd tag status data) }

/-- A command runs while the port accepts commands. -/
def Chip.mpRun (c : Chip) (g : Chip → Chip) : Chip := c.when c.zmd.mem.run g

/-- A command without payload. -/
def Chip.mpGet (c : Chip) (cmd tag len : Nat) (data : Zmd → List Nat) : Chip :=
  c.mpRun fun c => if len ≠ 0 then c.mpReply cmd tag 3 [] else c.mpReply cmd tag 0 (data c.zmd)

/-- The 72 bytes that the vendor attestation signs: DEVICE_ID, x, y (R412). -/
def attestBytes (x y : Nat) : List Nat := beBytes 8 F.PRT_DEVID_DEVICE_ID.rst ++ beBytes 32 x ++ beBytes 32 y

/-- The public key x and y, and the r and s of the attestation: the signature under the Codratar key (R412). -/
def zmdIdent : List Nat :=
  let k := ecPublic zmdSecret
  let g := ecdsaSign (secretOf Config.codratarKey) (beWord (sha256 (attestBytes k.1 k.2))) Config.attestDraw 64
  [k.1, k.2, g.1, g.2]

/-- GET_ID: the fields in the table's order, each big-endian and as wide as the report has it (DESIGN CHOICE, log 109). -/
def execGetId (tag len : Nat) (s : State) : Host.Outcome State Fault Refusal :=
  s.onPkg fun c => c.mpGet 1 tag len fun z =>
    beBytes 8 (c.rd F.PRT_DEVID_DEVICE_ID) ++ [z.mem.sealed, z.mem.calGen] ++ beBytes 4 z.bootEpoch ++ zmdIdent.flatMap (beBytes 32)

/-- GET_STATUS: ZT, permit levels D and S, guard state, hold time, last cause and input, clock state (DESIGN CHOICE, log 109). -/
def execGetStatus (tag len : Nat) (s : State) : Host.Outcome State Fault Refusal :=
  s.onPkg fun c => c.mpGet 2 tag len fun z =>
    let d := z.mem.decisions.headD (0, 0, 0)
    beBytes 8 z.mem.zt ++ [b2n z.permit, b2n z.permit, b2n z.mem.hold] ++ beBytes 2 z.mem.holdMs ++ [d.2.1, d.2.2, b2n z.mem.clkFlag]

/-- GET_REPORT with the 4 bytes of SEQ (R241, R243). -/
def execGetReport (tag : Nat) (payload : List Nat) (s : State) : Host.Outcome State Fault Refusal :=
  s.onPkg fun c => c.mpRun fun c =>
    if payload.length ≠ 4 then c.mpReply 3 tag 3 [] else
    let n := beWord (payload.map (· % 256))
    let m := c.zmd.mem
    let hit := if n = 2 ^ 32 - 1 then m.reports.head? else m.reports.find? fun r => r.1 = n
    match hit with
    | some r => c.mpReply 3 tag 0 r.2
    | none => c.mpReply 3 tag (if (m.signing.map (·.1)) = some n then 6 else 5) []

/-- Whether a window lies in the ranges of R232. -/
def winOk (fc bw : Nat) : Bool :=
  decide (200 ≤ bw) && decide (bw ≤ 400000) && decide (820000 + bw ≤ 2 * fc) && decide (2 * fc + bw ≤ 14250000)

/-- One record of SET_WINDOWS, 10 bytes: WIN, enable, FC and BW (DESIGN CHOICE, log 109). -/
def winRec (l : List Nat) : Nat × Bool × Nat × Nat :=
  (l.getD 0 0 % 256, l.getD 1 0 % 256 ≠ 0, beWord ((l.drop 2).take 4 |>.map (· % 256)), beWord ((l.drop 6).take 4 |>.map (· % 256)))

/-- SET_WINDOWS (R232, R243): one byte of input, then up to 16 records; all of them take effect, or none. -/
def execSetWindows (tag : Nat) (input recs : List Nat) (s : State) : Host.Outcome State Fault Refusal :=
  s.onPkg fun c => c.mpRun fun c =>
    let p := input ++ recs
    if p.length % 10 ≠ 1 ∨ 161 < p.length then c.mpReply 4 tag 3 [] else
    let i := p.headD 0 % 256
    let l := (chunks 10 16 p.tail).map winRec
    if 16 ≤ i ∨ l.any fun r => decide (16 ≤ r.1) || (r.2.1 && !winOk r.2.2.1 r.2.2.2) then c.mpReply 4 tag 4 []
    else
      let c := c.setZm fun m => { m with
        winNew := l.foldl (fun w r => SMap.insert (16 * i + r.1) (if r.2.1 then some r.2.2 else none) w) m.winNew }
      c.mpReply 4 tag 0 []

/-- SET_TIMING (R233, R236, R243): PERIOD and DWELL, 4 bytes each as the report has them (DESIGN CHOICE, log 109). -/
def execSetTiming (tag : Nat) (period dwell : List Nat) (s : State) : Host.Outcome State Fault Refusal :=
  s.onPkg fun c => c.mpRun fun c =>
    let p := (period ++ dwell).map (· % 256)
    if p.length ≠ 8 then c.mpReply 5 tag 3 [] else
    let t := (beWord (p.take 4), beWord (p.drop 4))
    if t.1 < 100 ∨ 60000 < t.1 ∨ t.2 < 100 ∨ 10000 < t.2 then c.mpReply 5 tag 4 []
    else (c.setZm fun m => { m with timeNew := some t }).mpReply 5 tag 0 []

/-- SET_NONCE (R243). -/
def execSetNonce (tag : Nat) (payload : List Nat) (s : State) : Host.Outcome State Fault Refusal :=
  s.onPkg fun c => c.mpRun fun c =>
    if payload.length ≠ 16 then c.mpReply 6 tag 3 []
    else (c.setZm fun m => { m with nonceNew := some (payload.map (· % 256)) }).mpReply 6 tag 0 []

/-- GET_GUARD: the last 32 decisions, newest first, 10 bytes each (DESIGN CHOICE, log 109). -/
def execGetGuard (tag len : Nat) (s : State) : Host.Outcome State Fault Refusal :=
  s.onPkg fun c => c.mpGet 7 tag len fun z => z.mem.decisions.flatMap fun d => beBytes 8 d.1 ++ [d.2.1, d.2.2]

/-- CAL_WRITE (R231): 4 bytes of offset, then data of a generation image, staged in ZMD memory (DESIGN CHOICE, log 109). -/
def execCalWrite (tag : Nat) (offset data : List Nat) (s : State) : Host.Outcome State Fault Refusal :=
  s.onPkg fun c => c.mpRun fun c =>
    let p := (offset ++ data).map (· % 256)
    if p.length < 4 then c.mpReply 0x10 tag 3 []
    else if !c.zmd.mem.session then c.mpReply 0x10 tag 7 []
    else
      let c := c.setZm fun m => { m with
        image := ((p.drop 4).foldl (fun (a : Nat × SMap Nat) b => (a.1 + 1, SMap.put 0 a.2 a.1 b)) (beWord (p.take 4), m.image)).2 }
      c.mpReply 0x10 tag 0 []

/-- CAL_LOCK (R231): the staged image is burned into the next free slot. `outcome`: 0 the burn completed; 1 it failed; 2 VDD_ZM
failed or ZM_RST_N fell during it. The valid marker is burned last, so only a burn that completed has it. -/
def execCalLock (tag len : Nat) (outcome : Fin 3) (s : State) : Host.Outcome State Fault Refusal :=
  s.onPkg fun c => c.mpRun fun c =>
    if len ≠ 0 then c.mpReply 0x11 tag 3 []
    else if !c.zmd.mem.session then c.mpReply 0x11 tag 7 []
    else if 4 ≤ c.zmd.used then c.mpReply 0x11 tag 8 []
    else
      let k := c.zmd.used + 1
      let c := c.setZmd fun z => { z with used := k, slots := if outcome = 0 then SMap.insert k z.mem.image z.slots else z.slots }
      if outcome = 0 then c.mpReply 0x11 tag 0 [k] else if outcome = 1 then c.mpReply 0x11 tag 9 [] else c.zmdStop false

/-- UNKNOWN_CMD: a frame whose CMD the table of R242 does not hold. -/
def execUnknownCmd (cmd tag : Nat) (s : State) : Host.Outcome State Fault Refusal :=
  s.onPkg fun c => c.mpRun fun c =>
    if [1, 2, 3, 4, 5, 6, 7, 0x10, 0x11].contains (cmd % 256) then c else c.mpReply cmd tag 1 []

/-- METER_PORT_CRC_FAIL: the response has CMD 0xFF, the received TAG and status 0x02. -/
def execMeterPortCrcFail (tag : Nat) (s : State) : Host.Outcome State Fault Refusal :=
  s.onPkg fun c => c.mpRun fun c => c.mpReply 0x7F tag 2 []

/-! ## The mirror at the board die (R244, R245) -/

/-- A mirror frame arrives: one that fails its CRC is counted, a valid one keeps LINK at 1. -/
def Chip.mirrorFrame (c : Chip) (ok : Bool) (g : Chip → Chip) : Chip :=
  if !ok then c.inc F.MTR_LINK_ERR_CRC_ERR else g (c.wr F.MTR_STATUS_LINK 1)

/-- MIRROR_STATUS_FRAME (R244–R246): the status of a running ZMD, with its junction temperature in the format of TH_DIE. -/
def execMirrorStatusFrame (ok : Bool) (temp : Nat) (s : State) : Host.Outcome State Fault Refusal :=
  s.onChip fun c => c.when c.zmd.mem.run fun c => c.mirrorFrame ok fun c =>
    let z := c.zmd
    let m := z.mem
    let d := m.decisions.headD (0, 0, 0)
    let c := { c with mirSeen := true }
    let c := ((c.wr F.MTR_STATUS_ZM_RUN 1).wr F.MTR_STATUS_SEAL m.sealed).wrB F.MTR_STATUS_PERMIT_D z.permit
    let c := ((c.wrB F.MTR_STATUS_PERMIT_S z.permit).wrB F.MTR_STATUS_GUARD m.hold).wrB F.MTR_STATUS_CLK_FAULT m.clkFlag
    let c := ((c.wrB F.MTR_STATUS_CAL_SESSION m.session).wrB F.MTR_STATUS_MON_LOST m.monLost).wr F.MTR_STATUS_CAL_GEN m.calGen
    let c := ((c.wr F.MTR_ZT_ZT m.zt).wr F.MTR_GUARD_EVENTS m.guardCnt).wr F.MTR_GUARD_LAST_CAUSE d.2.1
    let c := ((c.wr F.MTR_GUARD_LAST_INPUT d.2.2).wr F.MTR_GUARD_HOLD_MS m.holdMs).wr F.MTR_EPOCH_BOOT_EPOCH z.bootEpoch
    c.wr F.TH_DIE_ZMD temp

/-- A report is published whole, then GEN advances (R244). -/
def Chip.publishReport (c : Chip) (seq : Nat) (rep : List Nat) : Chip :=
  let byte := fun i => rep.getD i 0
  let c := c.forEach (List.range 1042) fun j c =>
    c.wr (F.MTR_RAW_DATA j) ((List.range 8).foldl (fun a b => a + byte (8 * j + b) * 256 ^ b) 0)
  let c := (c.wr F.MTR_LEN_BYTES rep.length).wr F.MTR_LEN_N_WIN (byte 6 * 256 + byte 7)
  (c.wr F.MTR_SEQ_SEQ seq).wr F.MTR_SEQ_GEN (c.rd F.MTR_SEQ_GEN + 1)

/-- MIRROR_REPORT_FRAME (R244, R245): one frame of the report on the link; the last one publishes it if none was lost. A frame that comes while the board die sleeps or is in reset is lost (DEDUCED, log 27). -/
def execMirrorReportFrame (ok last : Bool) (s : State) : Host.Outcome State Fault Refusal :=
  s.onPkg fun c =>
    match c.zmd.mem.mir with
    | none => c
    | some (seq, rep, may) =>
      let c := c.when (c.running && c.mirSeen) fun c => c.mirrorFrame ok id
      let bad := c.zmd.mem.mirBad || !ok || !c.running
      let c := c.setZm fun m => { m with mirBad := bad && !last, mir := if last then none else m.mir }
      if !last ∨ !may then c
      else if bad then c.wr F.MTR_STATUS_REPORT_LOST 1
      else c.publishReport seq rep

/-- MIRROR_IDENTITY_FRAME (R244–R246): DEVICE_ID, public key and attestation. -/
def execMirrorIdentityFrame (ok : Bool) (s : State) : Host.Outcome State Fault Refusal :=
  s.onChip fun c => c.when (c.zmd.mem.run && c.mirSeen) fun c => c.mirrorFrame ok fun c =>
    let word := fun k j => (List.range 8).foldl (fun a b => a + (beBytes 32 (zmdIdent.getD k 0)).getD (8 * j + b) 0 * 256 ^ b) 0
    (c.wr F.MTR_ID_DEVICE_ID (c.rd F.PRT_DEVID_DEVICE_ID)).forEach (List.range 8) fun j c =>
      (c.wr (F.MTR_PUBKEY_KEY j) (word (j / 4) (j % 4))).wr (F.MTR_ATTEST_SIG j) (word (2 + j / 4) (j % 4))

/-- MIRROR_LINK_TIMEOUT (R244): 1 ms without a valid frame; source 415 when LINK falls. The ZMD's temperature is no longer known (R285). -/
def Chip.mirrorDown (c : Chip) : Chip :=
  let c := c.when (c.on F.MTR_STATUS_LINK) fun c => (c.inc F.MTR_LINK_ERR_DOWN).faultPulse { src := 415, cause := 1 }
  (c.wr F.MTR_STATUS_LINK 0).wr F.TH_DIE_ZMD 0x8000

@[inherit_doc Chip.mirrorDown]
def execMirrorLinkTimeout (s : State) : Host.Outcome State Fault Refusal := s.onChip Chip.mirrorDown

end Sys2Proof.Machine
end

