-- ==== Sys2Proof/Machine/Power.lean ====
section
/-!
DEFINITION. Power, reset and start-up (R420–R433), and the shutdown of a die (R295): rails, the four kinds of release, what AON
keeps, deep sleep.
-/

namespace Sys2Proof.Machine

/-! ## What a reset keeps (R423) -/

/-- What a reset keeps among the registers: the AON fields, and RET_VALID and VIO_3V3, which tell of the last cold reset (DESIGN CHOICE, log 3). -/
def aonFlds : List Fld :=
  aonFields ++ [F.PWR_STATUS_RET_VALID, F.PWR_STATUS_VIO_3V3]
  ++ (List.range 9).map F.PRT_CTR_COUNTER
  ++ (List.range 9).flatMap fun f => (List.range 4).map fun j => F.PRT_LATCH_HASH_HASH f j

/-- The board die at its reset values, with what a reset of this kind leaves as it was. -/
def Chip.afterReset (c : Chip) (k : Nat) : Chip :=
  let n : Chip := {
    bus := c.bus
    freeCtr := c.freeCtr
    -- a report on the mirror link is not the next one completed after the reset (R245)
    zmd := (c.setZmd fun z => { z with mem := { z.mem with mir := z.mem.mir.map fun r => (r.1, r.2.1, false) } }).zmd
    tap := c.tap
    railBad := c.railBad
    cnvs := (List.range 2).foldl (fun m d => SMap.put {} m d { hot := (c.cv d).hot }) []
    prt := { pinHigh := c.prt.pinHigh, accepted := c.prt.accepted }
    flt := { ring := c.flt.ring, beacon := c.flt.beacon, held := true }
    pwr := { c.pwr with kind := some k } }
  aonFlds.foldl (fun n f => n.wr f (c.rd f)) n

/-- A reset of a kind of R424 holds the board die; with a cold cause the reset is cold (DEDUCED, log 49). -/
def Chip.holdReset (c : Chip) (k : Nat) : Chip := c.afterReset (if c.pwr.kind = some 0 then 0 else k)

/-- Whether rail `r` is good. -/
def Chip.railGood (c : Chip) (r : Rail) : Bool := !c.railBad.contains r

/-- COLD_RESET (R422). -/
def execColdReset (s : State) : Host.Outcome State Fault Refusal := s.onPkg fun c => c.holdReset 0

/-- PERST_ASSERT (R422). -/
def execPerstAssert (s : State) : Host.Outcome State Fault Refusal :=
  s.onPkg fun c => (c.holdReset 1).wr F.PWR_STATUS_PERST_LEVEL 0

/-- A write of PWR_RST (R422, R433). -/
def Chip.pwrRst (c : Chip) (warm : Bool) (key : Nat) : Chip := c.when (warm && key = 0xA5) fun c => c.holdReset 2

/-- PWR_RST_WARM (R422): PWR_RST is written with WARM = 1 and this key. -/
def execPwrRstWarm (q : Requester) (key : Nat) (s : State) : Host.Outcome State Fault Refusal :=
  s.onAccess q fun c => c.write q 0x1E00008 fun c => c.pwrRst true key

/-! ## Dies and rails (R27, R28, R97, R295, R420) -/

/-- A converter die is lost: its bridge goes down, and it is OFF. -/
def Chip.dieLost (c : Chip) (d : Nat) : Chip := (c.dieOff d).bridgeDown d (some 5)

/-- The good bit of a converter die's rails. -/
def cnvGood (d : Nat) : Fld := if d = 0 then F.PWR_STATUS_CNV_D_GOOD else F.PWR_STATUS_CNV_S_GOOD

/-- The shutdown bit and counter of DCD (0), SCD (1) and ZMD (2). -/
def sdBit (k : Nat) : Fld := if k = 0 then F.TH_SD_SD_DCD else if k = 1 then F.TH_SD_SD_SCD else F.TH_SD_SD_ZMD
@[inherit_doc sdBit]
def sdCnt (k : Nat) : Fld := if k = 0 then F.TH_SD_CNT_DCD else if k = 1 then F.TH_SD_CNT_SCD else F.TH_SD_CNT_ZMD

/-- Whether DCD (0), SCD (1) or ZMD (2) is in shutdown. -/
def Chip.hotDie (c : Chip) (k : Nat) : Bool := if k = 2 then c.zmd.hot else (c.cv k).hot

/-- Mark DCD (0), SCD (1) or ZMD (2) as in shutdown or not. The ZMD's receivers stop, and begin again. -/
def Chip.setHot (c : Chip) (k : Nat) (b : Bool) : Chip :=
  if k = 2 then c.setZmd fun z => { z with hot := b, mem := if b then { z.mem with dwells := [] } else ({ z.mem with dwells := [] } : ZmdMem).beginDwells } else c.setCv k fun x => { x with hot := b }

/-- The cause of source 446 that a rail is reported with (R420). -/
def railCause : Rail → Nat
  | .vddBd => 1
  | .vddCnv _ => 2
  | .vddaCnv _ => 3
  | .vddSer => 4
  | .vddIo => 5
  | .vbat => 0
  | .vddZm => 0

/-- A rail below its fail threshold, as the monitors bring it into a running board die. -/
def Chip.railEffect (c : Chip) (r : Rail) : Chip :=
  let c := (c.faultRise { src := 446, cause := railCause r }).raise F.PWR_INT_STATUS_RAIL_FAIL
  match r with
  | .vddSer => (c.wr F.PWR_STATUS_SER_GOOD 0).forEach [0, 1] fun p c => c.when (c.chlUp p) fun c => c.chlLoss p 1
  | .vddCnv d => (c.wr (cnvGood d) 0).dieLost d
  | .vddaCnv d => (c.wr (cnvGood d) 0).dieLost d
  | _ => c

/-- A supply failure of the board die itself: the fatal event while VBAT is present, and a cold reset (R314, R420); the test access port
starts in Test-Logic-Reset. -/
def Chip.boardRail (c : Chip) (detail : Nat) : Chip := { (c.when (c.railGood .vbat) fun c => c.fatal detail).holdReset 0 with tap := {} }

/-- VBAT_OK becomes 0 (R425), and the seal monitor has lost its retention (R245). -/
def Chip.vbatLow (c : Chip) : Chip := (c.setZmd fun z => { z with vbatLost := true }).when (!c.inReset) fun c => (c.wr F.PWR_STATUS_VBAT_OK 0).raise F.PWR_INT_STATUS_VBAT_LOW

/-- Rail `r` falls below its fail threshold (R420); without VDD_ZM the ZMD holds nothing but its OTP (R224). -/
def Chip.railFail (c : Chip) (r : Rail) : Chip :=
  if !c.railGood r then c else
  let c := { c with railBad := r :: c.railBad }
  match r with
  | .vddBd => c.boardRail 2
  | .vddIo => c.boardRail 5
  | .vbat => c.vbatLow
  | .vddZm => c.zmdStop false
  | r => c.when (!c.inReset) fun c => c.railEffect r

/-- RAIL_FAIL (R420). -/
def execRailFail (rail : Rail) (s : State) : Host.Outcome State Fault Refusal := s.onPkg fun c => c.railFail rail

/-- VBAT_LOW (R425). -/
def execVbatLow (s : State) : Host.Outcome State Fault Refusal := s.onPkg fun c => c.railFail .vbat

/-- The monitors' bits of PWR_STATUS. -/
def Chip.monitors (c : Chip) : Chip :=
  (((c.wrB F.PWR_STATUS_VBAT_OK (c.railGood .vbat)).wrB F.PWR_STATUS_SER_GOOD (c.railGood .vddSer)).wrB
    F.PWR_STATUS_CNV_D_GOOD (c.supplyOk 0)).wrB F.PWR_STATUS_CNV_S_GOOD (c.supplyOk 1)

/-- RAIL_GOOD (R420, R421): a converter die leaves OFF by itself; VIO_SEL is sampled as VDD_IO rises (R442). -/
def execRailGood (rail : Rail) (s : State) : Host.Outcome State Fault Refusal :=
  s.onPkg fun c =>
    if c.railGood rail then c else
    let c := { c with railBad := c.railBad.filter (· ≠ rail) }
    let c := c.when (rail = .vddIo) fun c => { c with pwr := { c.pwr with vioRose := true } }
    if c.inReset ∨ rail = .vddZm then c else
    let c := c.monitors
    let c := c.when (c.railBad.all fun r => railCause r ≠ railCause rail) fun c => c.faultFall 446 (railCause rail)
    match rail with
    | .vddSer => c.raise F.PWR_INT_STATUS_RAIL_GOOD
    | .vddCnv d => (c.raise F.PWR_INT_STATUS_RAIL_GOOD).dieStart d
    | .vddaCnv d => (c.raise F.PWR_INT_STATUS_RAIL_GOOD).dieStart d
    | _ => c

/-- RETENTION_FLAG_CLEAR (R425, R426): the AON supply, which is VDD_IO while good and VBAT otherwise, falls below 1.60 V. -/
def execRetentionFlagClear (s : State) : Host.Outcome State Fault Refusal :=
  s.onPkg fun c => c.when (!c.railGood .vddIo && !c.railGood .vbat) fun c => { c with pwr := { c.pwr with retFlag := false } }

/-! ## Shutdown of a die (R295) -/

/-- DCD (0), SCD (1) or ZMD (2) in shutdown, as a running board die records it. -/
def Chip.hotEffect (c : Chip) (k : Nat) : Chip :=
  let c := ((c.faultRise { src := 409 + k, cause := 1 }).wr (sdBit k) 1).raise F.TH_INT_STATUS_SHUTDOWN
  c.when (k < 2) fun c => c.dieLost k

/-- THERMAL_SHUTDOWN (R295): of BD (0), DCD, SCD or ZMD (3). -/
def Chip.shutdown (c : Chip) (die : Nat) : Chip :=
  match die with
  | 0 =>
    if c.pwr.bdHot then c else
    let c := ((c.inc F.TH_SD_CNT_BD).fatal 1).holdReset 3
    { c with pwr := { c.pwr with bdHot := true } }
  | k + 1 =>
    if c.hotDie k then c else
    (c.setHot k true).when (!c.inReset) fun c => (c.inc (sdCnt k)).hotEffect k

@[inherit_doc Chip.shutdown]
def execThermalShutdown (die : Fin 4) (s : State) : Host.Outcome State Fault Refusal := s.onPkg fun c => c.shutdown die

/-- THERMAL_RELEASE (R295): 1 s below 105 °C. The board die's reset is then released by RESET_RELEASE. -/
def execThermalRelease (die : Fin 4) (s : State) : Host.Outcome State Fault Refusal :=
  s.onPkg fun c =>
    match die.val with
    | 0 =>
      if !c.pwr.bdHot then c else
      { c.wr F.TH_SD_BD_RESTARTED 1 with pwr := { c.pwr with bdHot := false } }
    | k + 1 =>
      if !c.hotDie k then c else
      (c.setHot k false).when (!c.inReset) fun c =>
        let c := ((c.faultOver (409 + k)).wr (sdBit k) 0).raise F.TH_INT_STATUS_RESTART
        c.when (k < 2) fun c => c.dieStart k

/-! ## Release (R424, R426, R431) -/

/-- AON initialisation after a loss of retention (R197, R315, R426). -/
def Chip.aonInit (c : Chip) : Chip :=
  let c := (aonFlds.filter (· ≠ F.PWR_STATUS_VIO_3V3)).foldl (fun c f => c.wr f 0) c
  let c := (((c.wr F.PRT_STATUS_LATCH_LOST 1).prtInt 9).wr F.FLT_BB_STATUS_INVALID 1).raise F.FLT_INT_STATUS_BB_INVALID
  let c := c.setPrt fun x => { x with accepted := [] }
  { (c.wr F.PWR_COUNT_RET_LOST 1).setFlt (fun x => { x with ring := [], beacon := 0 }) with pwr := { c.pwr with retFlag := true } }

/-- The retention decision of a cold release, and its count (R424, R426). -/
def Chip.coldRelease (c : Chip) : Chip :=
  let kept := c.pwr.retFlag
  let c := if kept then c.wr F.PWR_STATUS_RET_VALID 1 else c.aonInit
  c.wr F.PWR_COUNT_COLD (c.rd F.PWR_COUNT_COLD + 1)

/-- The causes that lie on the collector's pairs when the die starts: dies in shutdown and failed rails, the lowest source first (R306,
R307) (DESIGN CHOICE, log 50). -/
def Chip.sampleLevels (c : Chip) : Chip :=
  let c := c.forEach [0, 1, 2] fun k c => c.when (c.hotDie k) fun c => (c.faultRise { src := 409 + k, cause := 1 }).wr (sdBit k) 1
  (c.railBad.filter fun r => railCause r ≠ 0).foldl (fun c r => (c.faultRise { src := 446, cause := railCause r }).raise F.PWR_INT_STATUS_RAIL_FAIL) c

/-- The board die starts after a reset of kind `k` (R195, R418, R424, R431); `vioHigh` is what VIO_SEL gave when VDD_IO
rose, if it has (R442) (PRESUMED, log 4). -/
def Chip.release (c : Chip) (k : Nat) (imgAuto vioHigh : Bool) : Chip :=
  let lost := k = 0 && !c.pwr.retFlag
  let c := if k = 0 then (c.coldRelease.when c.pwr.vioRose fun c => c.wrB F.PWR_STATUS_VIO_3V3 vioHigh) else c.wr F.PWR_COUNT_WARM (c.rd F.PWR_COUNT_WARM + 1)
  let c := { c with pwr := { c.pwr with kind := none, vioRose := false } }
  let c := c.setFlt fun x => { x with held := false }
  let c := ((c.wr F.PWR_STATUS_LAST_RESET k).wr F.PWR_STATUS_PERST_LEVEL 1).monitors
  let c := c.setAt (c.rd F.AIR_EPOCH_EPOCH * sfnCycle)
  let c := c.when (!lost) fun c => c.bbEvent 0x10 (if k = 0 then 0 else if k = 3 then 2 else 1)
  let c := (c.wrB F.PRT_STATUS_PIN_LEVEL c.prt.pinHigh).wrB F.SEC_STATUS_JTAG_STOP c.tap.stops
  let c := (c.refreshStop false).refreshHold.sampleLevels
  let c := c.when (!c.on F.PWR_STATUS_RET_VALID) fun c => c.raise F.PWR_INT_STATUS_RET_LOST
  c.when imgAuto fun c => (c.wr F.TOP_IMG_CTRL_SOURCE 1).imgStart

/-- RESET_RELEASE (R422, R424): every cause of the reset has ended. -/
def execResetRelease (imgAuto vioHigh : Bool) (s : State) : Host.Outcome State Fault Refusal :=
  s.onPkg fun c =>
    match c.pwr.kind with
    | none => c
    | some k =>
      if c.pwr.bdHot ∨ !(c.railGood .vddBd && c.railGood .vddIo) ∨ (k = 0 ∧ !c.railGood .vddSer) then c
      else c.release k imgAuto vioHigh

/-! ## Deep sleep (R427–R430) -/

/-- The code of the first condition of R427 that fails; 0 = none. -/
def Chip.sleepCode (c : Chip) : Nat :=
  if allSquares.any fun n => c.sqState n ≠ 0 then 1
  else if [0, 1].any fun d => c.rd (F.CNV_STATUS_STATE d) ≠ 0 || c.on (F.CNV_CTRL_POWER_EN d) then 2
  else if c.on F.PSU_EN_EN then 3
  else if (List.range 16).any fun e => (c.eng e).cur.isSome then 4
  else if (List.range 10).any fun x => c.rd (F.GPL_STATUS_STATE x) = 2 || c.rd (F.GPL_STATUS_STATE x) = 3 then 5
  else if [0, 1].any fun p => c.rd (F.CHL_STATUS_STATE p) ≠ 0 then 6
  else if !c.prt.pendBox.isEmpty || c.prt.verifying.isSome then 7
  else if c.rd F.TOP_IMG_STATUS_STATE = 1 || c.img.resolving || c.on F.TOP_IMG_STATUS_HASH_BUSY then 8
  else 0

/-- ENTER is written (R427, R428). What R332 does not copy, the order of waiting, is gone (DESIGN CHOICE, log 55). -/
def Chip.sleepEnter (c : Chip) : Chip :=
  let k := c.sleepCode
  if k ≠ 0 then (c.wr F.PWR_SLEEP_REFUSED k).raise F.PWR_INT_STATUS_SLEEP_REFUSED
  else ((c.hkSleep.setInt fun x => { x with waitQ := [], timedOut := [] }).forEach (List.range 4) fun k c => c.countCycles k).wr
    F.PWR_SLEEP_STATE 1

/-- SLEEP_ENTER (R427). -/
def execSleepEnter (q : Requester) (s : State) : Host.Outcome State Fault Refusal :=
  s.onAccess q fun c => c.write q 0x1E00018 Chip.sleepEnter

/-- WAKE (R430): by an inbound TLP, which needs PCI Express and with it VDD_SER (R420), or by a request of source `n` with WAKE = 1; a number without an input makes none (R319). -/
def execWake (tlp : Bool) (n : Nat) (s : State) : Host.Outcome State Fault Refusal :=
  s.onAir fun c =>
    if tlp then c.when (c.reachable .pf) fun c => c.wake 2 0
    else c.when (c.asleep && (c.intInput n || edgeInput n) && c.on (F.INT_SRC_WAKE n)) fun c =>
      (c.wake 1 n).when (edgeInput n) fun c => (c.intPend n).intEval

end Sys2Proof.Machine
end

