-- ==== Sys2Proof/Machine/Collect.lean ====
section
/-!
DEFINITION. The PF's commands to the fault collector (R305–R316), pair faults and injection with the containment they exercise
(R299, R309), and the release of what SEVERE held (R304).
-/

namespace Sys2Proof.Machine

/-! ## Containment (R299, R301, R309) -/

/-- A bridge that is UP is taken down, with this cause of its own source (R27, R34, R299). -/
def Chip.bridgeTrip (c : Chip) (d cause : Nat) : Chip := c.when (decide ((c.br d).st = 2)) fun c => c.bridgeDown d (some cause)

/-- An asserted error of source `s` that no block raised itself: the containment of its block, and the event. RK_STATUS.CAUSE has
no code for such a rank fault. The thermal source of the board or of a converter die takes
bridges down (R27), a converter-die clock its bridge, as the loss of CKM lock does (R97); nothing of the board die reaches the ZMD (R19) (DESIGN CHOICE, log 51). -/
def Chip.contain (c : Chip) (s cause : Nat) : Chip :=
  if s < 128 then c.squareParity s cause
  else if s < 256 then
    c.stabRaise (s - 128) cause
  else if s < 384 then c.oscMute (s - 256) cause 0
  else if s < 400 then
    (c.rankFault (s - 384) cause).when (!c.on (F.RK_STATUS_FAULT (s - 384))) fun c => c.wr (F.RK_STATUS_CAUSE (s - 384)) 0
  else if s < 404 then c.wingParity (s - 400) cause
  else if (s = 406 ∨ s = 407) ∧ (c.br (s - 406)).st = 2 then c.bridgeDown (s - 406) (some cause)
  else
    let c := c.faultPulse { src := s, cause := cause }
    match s with
    | 408 => (c.bridgeTrip 0 5).bridgeTrip 1 5
    | 409 => c.bridgeTrip 0 5
    | 410 => c.bridgeTrip 1 5
    | 412 => c.bridgeTrip 0 4
    | 413 => c.bridgeTrip 1 4
    | _ => c

/-- The decoded level of a source rises (R300, R301): a source that stands asserted gives no event. The level of a source that follows the
state of a block rises with that state; every other event is contained as its block does it, and recorded with what it carries (DEDUCED, log 103). -/
def Chip.levelRise (c : Chip) (e : Ev) : Chip :=
  if c.srcHigh e.src then c
  else if e.src < 404 ∨ e.src = 406 ∨ e.src = 407 then c.contain e.src e.cause
  else if 408 ≤ e.src ∧ e.src < 412 then c.shutdown (e.src - 408)
  else if e.src = 412 ∨ e.src = 413 then
    match e.cause with
    | 1 => c.ckmUnlock (e.src - 412)
    | 2 => c.ckmFail (e.src - 412)
    | 3 => c.synUnlock (e.src - 412) 0
    | 4 => c.synUnlock (e.src - 412) 1
    | _ => c
  else if e.src = 415 then c.mirrorDown
  else if e.src = 416 then c.hkMismatch
  else if e.src = 424 ∨ e.src = 425 then
    match e.cause with
    | 4 => c.trainTimeout (e.src - 424)
    | 5 => c.faultPulse e
    | k => c.when (c.chlUp (e.src - 424)) fun c => c.chlLoss (e.src - 424) k
  else if e.src = 446 then
    match e.cause with
    | 1 => c.railFail .vddBd
    | 4 => c.railFail .vddSer
    | 5 => c.railFail .vddIo
    | _ => c.faultRise e
  else c.faultPulse e

/-- FAULT_EVENT (R300): the decoded level of a source rises. A shadow error marks the register that the event names (R214);
a key-store memory error spoils the verification that runs (R416). -/
def execFaultEvent (src : Fin 512) (cause master access : Nat) (addr : Option Nat) (s : State) : Host.Outcome State Fault Refusal :=
  s.onChip fun c =>
    let c := c.levelRise { src := src, cause := cause, master := master, access := access, addr := addr }
    let c := c.when (src.val = 444 && cause = 2) fun c => c.setPrt fun x => { x with memErr := x.verifying.isSome }
    match addr with
    | none => c
    | some a => c.when (src.val = 423) fun c => c.setGpl fun x => { x with badShadow := setIns (a / 8 * 8) x.badShadow }

/-- PAIR_FAULT (R299): four invalid samples; the containment acts. -/
def execPairFault (src : Fin 512) (s : State) : Host.Outcome State Fault Refusal :=
  s.onChip fun c => if c.srcBit F.FLT_PAIR_PAIR src then c else (c.pairFault src).contain src 255

/-- PAIR_FAULT_END (R299): the first valid sample, which an injection that holds the rails keeps away (R309). What runs from the
last error runs from here (DESIGN CHOICE, log 52). -/
def execPairFaultEnd (src : Fin 512) (s : State) : Host.Outcome State Fault Refusal :=
  s.onChip fun c =>
    if !c.srcBit F.FLT_PAIR_PAIR src ∨ c.flt.inject.has src then c else
    let c := c.wrSrc F.FLT_PAIR_PAIR src false
    let t := c.ceilTempo + c.recov
    let c := c.when (128 ≤ src.val && decide (src.val < 256)) fun c => c.setSq (src - 128) fun q => { q with
      stab := q.stab.map fun p => if p.1 = 255 then (255, t) else p }
    c.when (c.flt.ends.has src) fun c => c.setFlt fun x => { x with ends := SMap.insert src t x.ends }

/-- A write of FLT_INJECT (R309): mode 1 is an event unless the source is asserted already. -/
def Chip.injectFault (c : Chip) (s mode : Nat) : Chip :=
  match mode with
  | 0 => c.setFlt fun x => { x with inject := [] }
  | 1 => if c.srcHigh s then c else c.contain s 0xFE
  | m => c.setFlt fun x => { x with inject := SMap.insert s m x.inject }

/-- BAR0 address of FLT_INJECT. -/
def aInject : Nat := 0x1900040

/-- INJECT_RELEASE (R309): MODE 0. -/
def execInjectRelease (q : Requester) (s : State) : Host.Outcome State Fault Refusal :=
  s.onAccess q fun c => c.write q aInject fun c => c.injectFault 0 0

/-- INJECT_EVENT (R309): MODE 1. -/
def execInjectEvent (q : Requester) (src : Fin 512) (s : State) : Host.Outcome State Fault Refusal :=
  s.onAccess q fun c => c.write q aInject fun c => c.injectFault src 1

/-- INJECT_HOLD_LOW (R309): MODE 2. -/
def execInjectHoldLow (q : Requester) (src : Fin 512) (s : State) : Host.Outcome State Fault Refusal :=
  s.onAccess q fun c => c.write q aInject fun c => c.injectFault src 2

/-- INJECT_HOLD_HIGH (R309): MODE 3. -/
def execInjectHoldHigh (q : Requester) (src : Fin 512) (s : State) : Host.Outcome State Fault Refusal :=
  s.onAccess q fun c => c.write q aInject fun c => c.injectFault src 3

/-! ## Clearing (R304, R305, R307) -/

/-- FAULT_PENDING_CLEAR (R305). -/
def execFaultPendingClear (q : Requester) (j : Fin 8) (value : Nat) (s : State) : Host.Outcome State Fault Refusal :=
  s.onAccess q fun c => c.write q (0x1900080 + 8 * j) fun c => c.pendingClear j value

/-- SEVERE_CLEAR (R305). -/
def execSevereClear (q : Requester) (j : Fin 8) (value : Nat) (s : State) : Host.Outcome State Fault Refusal :=
  s.onAccess q fun c => c.write q (0x1900120 + 8 * j) fun c => c.severeClear j value

/-- What SEVERE held and holds no more is released: squares, ranks and wings whose own exit has passed (R304). -/
def Chip.severeRelease (c : Chip) : Chip :=
  let c := c.forEach allSquares fun n c =>
    let c := if (c.sq n).sevParity && c.severeOver n then (c.setSq n fun q => { q with sevParity := false }).refreshFault n else c
    let c := if (c.sq n).sevStab && c.severeOver (128 + n) then (c.setSq n fun q => { q with sevStab := false }).refreshFault n else c
    if (c.sq n).sevOsc && c.severeOver (256 + n) then c.oscRelease n else c
  let c := c.forEach (List.range 16) fun k c => if (c.rk k).sevHold && c.severeOver (384 + k) then c.rankRelease k else c
  c.forEach c.prt.wingHold fun w c =>
    if !c.severeOver (400 + w) then c else (c.setPrt fun x => { x with wingHold := setDel w x.wingHold }).refreshWing w

/-- SEVERE_HOLD_RELEASE (R304): at a tempo boundary after SEVERE has cleared. -/
def execSevereHoldRelease (s : State) : Host.Outcome State Fault Refusal := s.onChip fun c => c.when c.air.onB Chip.severeRelease

/-- FIRST_REARM (R307). -/
def execFirstRearm (q : Requester) (s : State) : Host.Outcome State Fault Refusal :=
  s.onAccess q fun c => c.write q 0x1900010 Chip.firstRearm

/-! ## Black box (R311–R316) -/

/-- FLT_FREEZE (R314). -/
def execFltFreeze (q : Requester) (s : State) : Host.Outcome State Fault Refusal :=
  s.onAccess q fun c => c.write q 0x1900000 Chip.freeze

/-- BB_READ_REQUEST (R316). -/
def execBbReadRequest (q : Requester) (index : Fin 512) (s : State) : Host.Outcome State Fault Refusal :=
  s.onAccess q fun c => c.write q 0x1900210 fun c => c.bbRead index

/-- BB_ACK (R316). -/
def execBbAck (q : Requester) (s : State) : Host.Outcome State Fault Refusal :=
  s.onAccess q fun c => c.write q 0x1900208 Chip.bbAck

/-- BB_MARK (R311): the PF or a core marks the black box. -/
def execBbMark (q : Requester) (value : Nat) (s : State) : Host.Outcome State Fault Refusal :=
  s.onAccess q fun c => c.write q 0x1900228 fun c => c.bbEvent 0x20 (value % 2 ^ 32)

end Sys2Proof.Machine
end

