-- ==== Sys2Proof/Machine/Tenant.lean ====
section
/-!
DEFINITION. Tenancy (R351–R367): ownership changes, quotas and what they withdraw, function resets, doorbells, and the
stop path on VC1.
-/

namespace Sys2Proof.Machine

/-- The first tempo boundary at least 64 cc from now, as a count (R358, R361, R364): 64 cc are 262,144 / 3,125 Tc. -/
def Chip.boundary64 (c : Chip) : Nat := c.air.tempi + if 262144 ≤ (c.nextBoundary - c.now) * 3125 then 1 else 2

/-! ## Ownership (R357, R358) -/

/-- The squares that move with square `n`: its group, and the group of its TDD partner. -/
def Chip.movesWith (c : Chip) (n : Nat) : List Nat :=
  c.group n ++ if c.on (F.SQ_ID_PAIRED n) then c.group (c.rd (F.SQ_ID_PAIR_SQ n)) else []

/-- The conditions of codes 6 to 8 (R358); 0 when none fails. -/
def Chip.assignLate (c : Chip) (sq func : Nat) : Nat :=
  let l := c.movesWith sq
  if l.any fun n => c.on (F.SQ_CTRL_ENABLE n) || c.sqState n ≠ 0 then 6
  else if l.any fun n => c.claims.has n then 7
  else if c.stopped (c.owner sq) || c.stopped func then 8
  else 0

/-- The code of a request at its write (R358). -/
def Chip.assignCode (c : Chip) (sq func : Nat) : Nat :=
  if c.ten.assign.isSome then 3
  else if 8 < func ∨ (func ≠ 0 ∧ !c.vfExists func) then 4
  else if c.isMember sq then 5
  else if c.assignLate sq func ≠ 0 then c.assignLate sq func
  else 1

/-- RESULT becomes `r` for a request of `sq` and `func`. -/
def Chip.assignResult (c : Chip) (r sq func : Nat) : Chip :=
  let c := ((c.wr F.TEN_ASSIGN_STATUS_RESULT r).wr F.TEN_ASSIGN_STATUS_SQ sq).wr F.TEN_ASSIGN_STATUS_FUNC func
  let c := c.wrB F.TEN_ASSIGN_STATUS_PENDING c.ten.assign.isSome
  if r = 2 then c.raise F.TEN_PF_INT_STATUS_ASSIGN_DONE
  else c.when (decide (3 ≤ r)) fun c => c.raise F.TEN_PF_INT_STATUS_ASSIGN_REFUSED

/-- A write of bits [31:0] of TEN_ASSIGN (R358) (DESIGN CHOICE, log 42). -/
def Chip.assignWrite (c : Chip) (h : Half) (v : Nat) : Chip :=
  if !h.hasLo then c else
  let sq := bits v 0 7
  let func := bits v 8 4
  let r := c.assignCode sq func
  let c := c.when (r = 1) fun c => c.setTen fun x => { x with assign := some (sq, func, c.boundary64) }
  c.assignResult r sq func

/-- ASSIGN_REQUEST (R358). -/
def execAssignRequest (q : Requester) (sq : Fin 128) (func : Fin 16) (s : State) : Host.Outcome State Fault Refusal :=
  s.onAccess q fun c => c.write q 0x1F00000 fun c => c.assignWrite .lo (sq + 256 * func)

/-- Whether an ownership change waits for the boundary at which the block stands: it comes before what else takes effect there (R358). -/
def Chip.assignDue (c : Chip) : Bool := match c.ten.assign with
  | some (_, _, t) => c.dueAt t
  | none => false

/-- ASSIGN_APPLY (R358): at its boundary the request is judged again, and ownership changes. -/
def execAssignApply (s : State) : Host.Outcome State Fault Refusal :=
  s.onChip fun c =>
    match c.ten.assign with
    | none => c
    | some (sq, func, t) =>
      if !c.dueAfter t 0 then c else
      let r := c.assignLate sq func
      let c := c.setTen fun x => { x with assign := none }
      Chip.assessRest <| if r ≠ 0 then c.assignResult r sq func
      else (c.forEach (c.movesWith sq) fun n c => c.setOwner n func).assignResult 2 sq func

/-! ## Quotas (R361, R362) -/

/-- A write to TEN_CFG, TEN_QUOTA, TEN_CAPQ or TEN_ALLOW of tenant `f`: read back at once, in force from its boundary. -/
def Chip.tenWrite (c : Chip) (f : Nat) (rows : List FldRow) (h : Half) (v : Nat) : Chip :=
  let c := c.fieldsWrite rows h v
  let ws := (rows.filter fun r => r.acc = .rw && reaches r.fld h).map fun r => (f, r.fld, c.rd r.fld, c.boundary64)
  c.setTen fun x => { x with waits := x.waits ++ ws }

/-- What a judgement has chosen so far: squares out, and causes. -/
structure Cut where
  out : List Nat := []
  cause : Nat := 0
  deriving DecidableEq, Repr

/-- Square `n` is withdrawn, with its TDD partner (R362). -/
def Chip.cutOne (c : Chip) (k : Cut) (cause n : Nat) : Cut :=
  if k.out.contains n then k else
  let p := c.rd (F.SQ_ID_PAIR_SQ n)
  { out := k.out ++ (n :: if c.on (F.SQ_ID_PAIRED n) && !k.out.contains p && c.on (F.SQ_CTRL_ENABLE p) then [p] else [])
    cause := if bit k.cause cause then k.cause else k.cause + 2 ^ cause }

/-- The enabled squares of tenant `f` that a judgement has left. -/
def Chip.cutLeft (c : Chip) (f : Nat) (k : Cut) : List Nat := c.quotaSet f fun n => c.on (F.SQ_CTRL_ENABLE n) && !k.out.contains n

/-- The active POWER_SET of a square. -/
def Chip.pset (c : Chip) (n : Nat) : Nat := c.rd (F.RK_PSET_POWER_SET (n / 8) (n % 8))

/-- The judgement of tenant `f` (R362): allow-list, then each side's power, then the count, the last two from the highest number
down. -/
def Chip.judge (c : Chip) (f : Nat) : Cut :=
  let k : Cut := (c.cutLeft f {}).foldl (fun k n =>
    if c.allowOk n (c.rd (F.SQ_FREQ_RX_FC_FOLD n)) (c.rd (F.SQ_FREQ_TX_FC_FOLD n)) then k else c.cutOne k 0 n) {}
  let side := fun (ul : Bool) (k : Cut) => (c.cutLeft f k).reverse.foldl (fun k n =>
    if isUl n = ul && c.sideOver f ul (c.cutLeft f k) c.pset then c.cutOne k (if ul then 1 else 2) n else k) k
  let k := side false (side true k)
  (c.cutLeft f k).reverse.foldl (fun k n =>
    if min 128 (c.ten? (F.TEN_QUOTA_SQUARES f)) < c.quotaCount (c.cutLeft f k) then c.cutOne k 3 n else k) k

/-- TEN_CUT of tenant `f` (R362). -/
def Chip.cutNote (c : Chip) (f : Nat) (k : Cut) : Chip :=
  ((c.wr (F.TEN_CUT_CAUSE f) k.cause).wr (F.TEN_CUT_WITHDRAWN f) (c.quotaCount k.out)).wr (F.TEN_CUT_TEMPO f) (c.now / 4096)

/-- QUOTA_UPDATE (R361–R363): at their boundary, after an ownership change, the written values take effect, and each tenant whose
quota, allow-list or configuration changed is judged. -/
def execQuotaUpdate (s : State) : Host.Outcome State Fault Refusal :=
  s.onChip fun c =>
    let due := c.ten.waits.filter fun w => decide (w.2.2.2 ≤ c.air.tempi)
    if !c.air.onB || c.assignDue || due.isEmpty then c else
    let d := c.setTen fun x => { x with
      waits := x.waits.filter fun w => decide (c.air.tempi < w.2.2.2)
      inForce := due.foldl (fun m w => SMap.put w.2.1.rst m w.2.1.key w.2.2.1) x.inForce }
    -- TEN_CAPQ alone is not judged
    let changed := fun f => due.any fun w => w.1 = f && w.2.1.addr % 0x100 ≠ 0x10 && c.ten? w.2.1 ≠ d.ten? w.2.1
    let cuts := (((List.range 8).map (· + 1)).filter changed).map fun f => (f, d.judge f)
    let cuts := cuts.filter fun p => !p.2.out.isEmpty
    let d := d.forEach ((List.range 8).map (· + 1)) fun f d => d.capEngines f (c.ten? (F.TEN_CFG_CAP_ENG f))
    let d := d.forEach (List.range 16) fun e d => d.capServe e
    let d := cuts.foldl (fun d p =>
      ((d.cutNote p.1 p.2).raise (F.TEN_VF_INT_STATUS_QUOTA_CUT p.1)).raise F.TEN_PF_INT_STATUS_WITHDRAW) d
    (d.withdraw (cuts.flatMap fun p => p.2.out)).assessRest

/-! ## Function resets (R364, R365) -/

/-- What a function's configuration space starts with, where the functions are alike (R351, R365). -/
def Ten.configReset (f : Nat) (x : Ten) : Ten :=
  { x with roOff := setDel f x.roOff, dstate := SMap.erase f x.dstate, aer := x.aer.filter fun p => p.1 / 8 ≠ f }

/-- The reset of VF `f` begins (R364). Its MSI-X state returns to the PCI Express defaults, as an FLR leaves it. -/
def Chip.flrStart (c : Chip) (f : Nat) : Chip :=
  if c.on (F.TEN_VF_STATUS_FLR_BUSY f) then c else
  let c := ((c.wr (F.TEN_VF_STATUS_FLR_BUSY f) 1).dropCtx f).intRelease (4 + f)
  let c := (c.setInt fun x => { x with
    msixTable := x.msixTable.filter fun p => p.1 / 2048 ≠ f
    msixEn := setDel f x.msixEn
    msixMask := setDel f x.msixMask }).capFlr f
  let c := c.setTen (Ten.configReset f)
  c.when (c.ten? (F.TEN_CFG_FLR_DISABLE f) ≠ 0) fun c => c.setTen fun x => { x with flrDue := SMap.insert f c.boundary64 x.flrDue }

/-- VF_FLR (R364): an FLR of VF f + 1. -/
def execVfFlr (f : Fin 8) (s : State) : Host.Outcome State Fault Refusal :=
  s.onAccess .pf fun c => c.when (c.vfExists (f + 1)) fun c => c.flrStart (f + 1)

/-- VF_FLR_DONE (R364): no element of VF f + 1 is in flight, and no verification of its mailbox. -/
def execVfFlrDone (f : Fin 8) (s : State) : Host.Outcome State Fault Refusal :=
  s.onChip fun c =>
    let v := f.val + 1
    if !c.on (F.TEN_VF_STATUS_FLR_BUSY v) ∨ c.capRuns v ∨ c.prt.verifying = some v then c else
    let c := [F.TEN_VF_INT_STATUS_QUOTA_CUT v, F.TEN_VF_INT_STATUS_CAP_PAUSED v, F.TEN_VF_INT_STATUS_CAP_RESUMED v,
      F.TEN_VF_INT_STATUS_CMD_DONE v, F.TEN_VF_INT_STATUS_CMD_REJECT v, F.TEN_VF_INT_STATUS_OWNER_CHG v,
      F.TEN_VF_INT_EN_EN v, F.TEN_VF_STATUS_FLR_BUSY v].foldl (fun c g => c.wr g 0) c
    (c.wr (F.TEN_FLR_COUNT v) (c.rd (F.TEN_FLR_COUNT v) + 1)).wrBit F.TEN_PF_INT_STATUS_FLR f true

/-- FLR_WITHDRAWAL (R358, R364): at its boundary, after an ownership change, every enabled square of the VF is withdrawn. -/
def execFlrWithdrawal (f : Fin 8) (s : State) : Host.Outcome State Fault Refusal :=
  s.onChip fun c =>
    let v := f.val + 1
    match c.ten.flrDue.find v with
    | none => c
    | some t =>
      if !c.dueAfter t 0 ∨ c.assignDue then c else
      let c := c.setTen fun x => { x with flrDue := SMap.erase v x.flrDue }
      let l := c.cutLeft v {}
      (if l.isEmpty then c else (c.cutNote v { out := l, cause := 16 }).withdraw l).assessRest

/-- A write of NumVFs, VF Enable and ARI Capable Hierarchy: a VF that no longer exists is reset (R351, R364). -/
def Chip.vfConfig (c : Chip) (en : Bool) (num : Nat) (ari : Bool) : Chip :=
  let d := c.setTen fun x => { x with vfEnable := en, numVfs := min 8 num, ariHier := ari }
  d.forEach ((List.range 8).map (· + 1)) fun f d => if c.vfExists f && !d.vfExists f then d.flrStart f else d

/-- The mirror at the board die is lost: the MTR block reads its reset values until the next status frame, and a report on the link is not
the next one completed after that (R245). -/
def Chip.mirrorReset (c : Chip) : Chip :=
  { c.setZmd fun z => { z with mem := { z.mem with mir := z.mem.mir.map fun r => (r.1, r.2.1, false) } } with
    regs := c.regs.filter fun p => p.1 / 64 / 0x100000 ≠ 0x15, mirSeen := false }

/-- PF_FLR (R365): every VF is reset, the staging of context 0 dropped, the PF's sources completed, its configuration space and
MSI-X state at their defaults; the mirror is lost (R245) (DEDUCED, log 123). -/
def execPfFlr (s : State) : Host.Outcome State Fault Refusal :=
  s.onAccess .pf fun c =>
    let c := (((c.vfConfig false 0 false).dropCtx 0).intRelease 4).mirrorReset
    (c.setInt fun x => { x with
      msixTable := x.msixTable.filter fun p => p.1 / 2048 ≠ 0
      msixEn := setDel 0 x.msixEn
      msixMask := setDel 0 x.msixMask }).setTen fun x => { x.configReset 0 with mps := 0, mrrs := 2, vc1 := false, bars := [] }

/-! ## Doorbells and VC1 (R356, R366) -/

/-- A write of TEN_DBELL[f] (R366). -/
def Chip.doorbell (c : Chip) (f i : Nat) : Chip := c.intPulse (1024 + 16 * (f - 1) + i)

/-- DOORBELL (R366): VF f + 1's doorbell is written with an index. -/
def execDoorbell (q : Requester) (f : Fin 8) (index : Fin 16) (s : State) : Host.Outcome State Fault Refusal :=
  s.onAccess q fun c => c.write q (0x1F011F8 + 0x100 * f) fun c => c.doorbell (f + 1) index

/-- Whether VC1 admits a posted write of function `f` to this address (R356). -/
def vc1Ok (f a : Nat) : Bool :=
  let m := 0x1301000 + 0x100 * f
  (decide (m ≤ a) && decide (a < m + 0xA0)) || a / 8 * 8 = m + 0xF8 || (decide (1 ≤ f) && a / 8 * 8 = 0x1F010F8 + 0x100 * f)

/-- VC1_MISUSE (R356): a TLP of function f on VC1, which carries none before the host enables it. A permitted write is no misuse, and
acts as its own command; a VF being reset has its TLPs turned away first (R364). -/
def execVc1Misuse (f : Fin 9) (posted : Bool) (addr : Nat) (s : State) : Host.Outcome State Fault Refusal :=
  s.onAccess .pf fun c =>
    let q : Requester := if h : f.val = 0 then .pf else .vf ⟨f.val - 1, by omega⟩
    if !c.ten.vc1 then c
    else if !posted then c.unsupported q
    else if c.deaf q then c
    else if vc1Ok f addr then c
    else (c.accessFault q 3 true addr).raise F.TEN_PF_INT_STATUS_VC1_MISUSE

end Sys2Proof.Machine
end

