-- ==== Sys2Proof/Machine/Pcie.lean ====
section
/-!
DEFINITION. The functions' configuration space and BAR2 (R328, R351, R353, R356, R365), at addresses and with a layout of the model's own.
-/

namespace Sys2Proof.Machine

/-- The model's addresses of what lies outside BAR0: the function's configuration space, and its BAR2 (R351, R353) (PRESUMED, log 9). -/
def aConfig : Nat := 0x100000000
@[inherit_doc aConfig] def aBar2 : Nat := 0x200000000

/-- Put a number into a set, or take it out. -/
def setPut (k : Nat) (b : Bool) (m : List Nat) : List Nat := if b then setIns k m else setDel k m

/-- The bits of a word that an access reaches. -/
def halfMask (h : Half) : Nat := (if h.hasLo then 2 ^ 32 - 1 else 0) + (if h.hasHi then 2 ^ 64 - 2 ^ 32 else 0)

/-- Vectors of a function's MSI-X table (R351). -/
def msixCount (f : Nat) : Nat := if f = 0 then 2048 else 64

/-! ## Words of configuration space -/

/-- The size of BAR `i` as a power of two: 0 = BAR0/1, 1 = BAR2/3, 2 = VF BAR0/1, 3 = VF BAR2/3 (R353). -/
def barLog (i : Nat) : Nat := [26, 16, 25, 13].getD i 64

/-- A BAR register as it reads: its address above the size, and the type of 64-bit non-prefetchable memory (R353). -/
def Chip.barWord (c : Chip) (i : Nat) : Nat := SMap.get 0 c.ten.bars i / 2 ^ barLog i * 2 ^ barLog i + 4

/-- What an AER word starts as: status and mask of uncorrectable errors, their severity, status and mask of correctable
ones (PRESUMED, log 9). -/
def aerFirst (k : Nat) : Nat := [0, 0x400000, 0x462030, 0, 0xE000].getD k 0

/-- AER word `k` of function `f`. -/
def Chip.aer (c : Chip) (f k : Nat) : Nat := SMap.get (aerFirst k) c.ten.aer (8 * f + k)

/-- AER word `k` of function `f` takes a value. -/
def Chip.aerPut (c : Chip) (f k v : Nat) : Chip := c.setTen fun x => { x with aer := SMap.put (aerFirst k) x.aer (8 * f + k) v }

/-- The capabilities of a function (R351) by their PCI Express numbers, a byte each: power management, PCI Express, MSI-X; from bit 32 on
AER, ARI, and on the PF SR-IOV and VC. -/
def capList (f : Nat) : Nat := 0x111001 + (0xE01 + if f = 0 then 0x2100000 else 0) * 2 ^ 32

/-- What a function's device and link can do (R351): [2:0] Max_Payload_Size 512, [6:4] Max_Read_Request_Size 4,096, [11:8] 32.0 GT/s,
[17:12] ×8, [19:18] ASPM L1, [20] FLR, [21] 10-bit Tag Requester. -/
def deviceWord : Nat := 2 + 5 * 2 ^ 4 + 5 * 2 ^ 8 + 8 * 2 ^ 12 + 2 * 2 ^ 18 + 2 ^ 20 + 2 ^ 21

/-- InitialVFs, TotalVFs, First VF Offset, VF Stride (R351). -/
def sriovWord : Nat := 8 + 8 * 2 ^ 16 + 2 ^ 32 + 2 ^ 48

/-- A write of Device Control by function `f`: Enable Relaxed Ordering [4], and on the PF Max_Payload_Size [7:5] and
Max_Read_Request_Size [14:12], which take the codes that R351 gives them (PRESUMED, log 43). -/
def Chip.deviceControl (c : Chip) (f w : Nat) : Chip :=
  let c := c.setTen fun x => { x with roOff := setPut f (!bit w 4) x.roOff }
  let c := c.when (f = 0 && decide (bits w 5 3 ≤ 2)) fun c => c.setTen fun x => { x with mps := bits w 5 3 }
  c.when (f = 0 && decide (bits w 12 3 ≤ 5)) fun c => c.setTen fun x => { x with mrrs := bits w 12 3 }

/-- The power state of function `f`: D0 or D3hot, which changes nothing in the signal path (R351). -/
def Chip.powerState (c : Chip) (f w : Nat) : Chip :=
  c.when (bits w 0 2 = 0 || bits w 0 2 = 3) fun c => c.setTen fun x => { x with dstate := SMap.put 0 x.dstate f (bits w 0 2) }

/-- A configuration write by function `f`: 0x00 SR-IOV of the PF (VF Enable [0], ARI Capable Hierarchy [4], NumVFs [31:16]), 0x08 MSI-X
control (Enable [0], Function Mask [1]), 0x10 Device Control, 0x18 VC1 of the PF (Enable and the mapping of TC7 [0]), 0x28 power state
[1:0], 0x30 to 0x48 the PF's BARs and VF BARs, 0x60 to 0x80 AER (PRESUMED, log 9). -/
def Chip.configWrite (c : Chip) (f o : Nat) (h : Half) (v : Nat) : Chip :=
  let w := h.image v
  if 0x30 ≤ o ∧ o < 0x50 ∧ f = 0 then
    let i := (o - 0x30) / 8
    c.setTen fun x => { x with bars := SMap.put 0 x.bars i (mix 64 (halfMask h) (SMap.get 0 x.bars i) w) }
  else if !h.hasLo then c
  else if o = 0 then c.when (f = 0) fun c => c.vfConfig (bit w 0) (bits w 16 16) (bit w 4)
  else if o = 8 then
    c.setInt fun x => { x with msixEn := setPut f (bit w 0) x.msixEn, msixMask := setPut f (bit w 1) x.msixMask }
  else if o = 0x10 then c.deviceControl f w
  else if o = 0x18 then c.when (f = 0) fun c => c.setTen fun x => { x with vc1 := bit w 0 }
  else if o = 0x28 then c.powerState f w
  else if 0x60 ≤ o ∧ o < 0x88 then
    let k := (o - 0x60) / 8
    c.aerPut f k (if k = 0 ∨ k = 3 then Nat.land (c.aer f k) (2 ^ 32 - 1 - bits w 0 32) else bits w 0 32)
  else c

/-- What a read of configuration space returns. -/
def Chip.configWord (c : Chip) (f o : Nat) : Nat :=
  if o = 8 then b2n (c.int.msixEn.contains f) + 2 * b2n (c.int.msixMask.contains f) + (msixCount f - 1) * 2 ^ 32
  else if o = 0x10 then 16 * b2n (!c.ten.roOff.contains f) + (if f = 0 then c.ten.mps * 32 + c.ten.mrrs * 2 ^ 12 else 0)
  else if o = 0x28 then SMap.get 0 c.ten.dstate f
  else if o = 0x50 then capList f
  else if o = 0x58 then deviceWord
  else if 0x60 ≤ o ∧ o < 0x88 then c.aer f ((o - 0x60) / 8)
  else if f ≠ 0 then 0
  else if o = 0 then b2n c.ten.vfEnable + b2n c.ten.ariHier * 16 + c.ten.numVfs * 2 ^ 16
  else if o = 0x18 then b2n c.ten.vc1 + 2 ^ 32
  else if o = 0x20 then sriovWord
  else if 0x30 ≤ o ∧ o < 0x50 then c.barWord ((o - 0x30) / 8)
  else 0

/-! ## BAR2 -/

/-- A write to a function's MSI-X table: address, then data and the mask bit of Vector Control. -/
def Chip.tableWrite (c : Chip) (f o : Nat) (h : Half) (v : Nat) : Chip :=
  let k := o / 16
  if msixCount f ≤ k then c else
  let e := c.msixEntry f k
  let w := h.image v
  let e : Nat × Nat × Bool :=
    if o % 16 = 0 then (mix 64 (halfMask h) e.1 w, e.2)
    else (e.1, if h.hasLo then bits w 0 32 else e.2.1, if h.hasHi then bit w 32 else e.2.2)
  c.setInt fun x => { x with msixTable := SMap.put (0, 0, true) x.msixTable (2048 * f + k) e }

/-- What a read of configuration space or BAR2 returns. -/
def Chip.funcWord (c : Chip) (f a : Nat) : Nat :=
  if a < aBar2 then c.configWord f (a - aConfig)
  else
    let o := a - aBar2
    let p := if f = 0 then 0x8000 else 0x1000
    if o < 16 * msixCount f then
      let e := c.msixEntry f (o / 16)
      if o % 16 = 0 then e.1 else e.2.1 + b2n e.2.2 * 2 ^ 32
    else if p ≤ o ∧ o < p + msixCount f / 8 then
      (List.range 64).foldl (fun w i => w + b2n (c.pba f (8 * (o - p) + i)) * 2 ^ i) 0
    else 0

/-- A write outside BAR0. -/
def Chip.funcWrite (c : Chip) (q : Requester) (a : Nat) (h : Half) (v : Nat) : Chip :=
  match reqFunc q with
  | none => c
  | some f => if a < aBar2 then c.configWrite f (a - aConfig) h v else c.tableWrite f (a - aBar2) h v

end Sys2Proof.Machine
end

