-- ==== Sys2Proof/Machine/Psu.lean ====
section
/-!
DEFINITION. The PA-supply PWM generator (R247–R267): carrier periods and their waveform, banks, dead time, soft start, the
cycle-by-cycle and hard limits, groups and HICCUP. One command ends a carrier period; within a period, instants are PWM
clocks counted from its start.
-/

namespace Sys2Proof.Machine

/-! ## The waveform of a period (R247–R249, R253, R261) -/

/-- A 4-bit number with its bits reversed. -/
def bitrev4 (k : Nat) : Nat := bits k 0 1 * 8 + bits k 1 1 * 4 + bits k 2 1 * 2 + bits k 3 1

/-- A compare as it acts in dither period `k` (R248, R249). -/
def compareAt (per k v : Nat) : Nat := min per (v / 16 + if bitrev4 k < v % 16 then 1 else 0)

/-- The H pulse of a period and what the outputs do with it: where H begins and would end by R248 and R261, where it ends; where
PWMHxx is high, if it gets high; from where on PWMLxx is high before the pulse, and after it; every edge of the two outputs. A
clock at or beyond the end of the period belongs to a later one. -/
structure Wave where
  rise : Nat
  natEnd : Nat
  hEnd : Nat
  high : Option Nat
  lowOld : Option Nat
  lowNew : Option Nat
  edges : List Int
  deriving DecidableEq, Repr

/-- H is 1 in some clock. -/
def Wave.pulse (w : Wave) : Bool := decide (w.rise < w.hEnd)

/-- The waveform of the running period of channel `i`: each output turns on DT after H turned to its side, and off at once. -/
def Chip.wave (c : Chip) (i : Nat) : Wave :=
  let p := c.pw i
  let n := 2 * p.per
  let k := c.rd (F.PSU_CH_STATUS_DITHER_K i)
  let dt := c.rd (F.PSU_CH_STATUS_DT_NOW i)
  let rise := max (compareAt p.per k p.a) p.start
  let lim := if c.rd (F.PSU_CH_STATUS_STATE i) = 1 ∧ p.ss ≠ 0 then rise + n * (p.ssCnt + 1) / p.ss else n
  let natEnd := min (n - compareAt p.per k p.b) lim
  let hEnd := match p.trip with | none => natEnd | some t => min natEnd t
  let pulse := decide (rise < hEnd)
  let goesOn := p.hiAt.isSome && pulse && rise = 0
  let high := if !pulse then none else if goesOn then p.hiAt.map (·.toNat) else some (rise + dt)
  let high := high.filter fun t => decide (t < hEnd) || hEnd = n
  -- PWMLxx before the pulse: high, or to rise; H may have fallen as this period began
  let turn := if p.hiAt.isSome then some dt else p.lowAt
  let lowOld := if goesOn then none else some (turn.getD 0)
  let lowOld := lowOld.filter fun t => !pulse || decide (t < rise)
  let lowWas := !goesOn && turn.all fun t => decide (t < rise)
  let highWas := p.hiAt.any fun t => decide (t < 0)
  let lowNew := if pulse && decide (hEnd < n) then some (hEnd + dt) else none
  let e := (if highWas && !goesOn then [0] else []) ++
    (lowOld.filter fun t => turn.isSome && decide (t < n)).toList ++ (if pulse && lowWas then [rise] else []) ++
    (high.filter fun t => !(goesOn && highWas) && decide (t < hEnd)).toList ++
    (if (high.filter fun t => decide (t < hEnd)).isSome && decide (hEnd < n) then [hEnd] else []) ++
    (lowNew.filter fun t => decide (t < n)).toList
  { rise := rise, natEnd := natEnd, hEnd := hEnd, high := high, lowOld := lowOld, lowNew := lowNew
    edges := p.edges ++ e.map Int.ofNat }

/-- Levels of PWMHxx and PWMLxx in clock `t` of the running period: both low unless the channel switches (R260). -/
def Chip.pwmOut (c : Chip) (i t : Nat) : Bool × Bool :=
  let st := c.rd (F.PSU_CH_STATUS_STATE i)
  if st ≠ 1 ∧ st ≠ 2 then (false, false) else
  let w := c.wave i
  let from' := fun x : Option Nat => x.any fun x => decide (x ≤ t)
  (decide (t < w.hEnd) && from' w.high,
    decide ((c.pw i).start ≤ t) && if w.pulse && decide (w.rise ≤ t) then from' w.lowNew else from' w.lowOld)

/-- Whether a sample of the cycle-by-cycle comparator in clock `t` is masked (R257); before clock 0 by the BLANK of the period before. -/
def Chip.masked (c : Chip) (i : Nat) (t : Int) : Bool :=
  (c.wave i).edges.any fun e => decide (e < t) && decide (t ≤ e + (if t < 0 then (c.pw i).blankWas else (c.pw i).blank : Nat))

/-- The cycle-by-cycle limit that holds in clock `t` (R256). -/
def Pwm.limAt (p : Pwm) (t : Int) : Nat := if t < 0 then p.limWas else p.cbcLim

/-- The class of the running period as it ends (R258). -/
inductive PwmClass where
  | cbc | neutral | clean
  deriving DecidableEq, Repr

/-- The class of the running period of channel `i` (R258). -/
def Chip.pwmClass (c : Chip) (i : Nat) : PwmClass :=
  let w := c.wave i
  let hit := match (c.pw i).trip with | none => false | some t => decide (w.rise ≤ t) && decide (t < w.natEnd)
  if hit then .cbc
  else match w.high.filter fun t => decide (t < w.hEnd) && !(w.rise = 0 && (c.pw i).hiAt.any fun x => decide (x < 0)) with
    | none => .neutral
    | some r => if w.hEnd ≤ r + (c.pw i).blank + 3 then .neutral else .clean

/-! ## States and groups (R260, R263) -/

/-- STATE of channel `i`. -/
def Chip.pst (c : Chip) (i : Nat) : Nat := c.rd (F.PSU_CH_STATUS_STATE i)

/-- Channel `i` and, when its GROUP is not 0, the members of its group. -/
def Chip.pwmGroup (c : Chip) (i : Nat) : List Nat :=
  let g := c.rd (F.PSU_CFG_GROUP i)
  (List.range 16).filter fun j => j = i || (g ≠ 0 && c.rd (F.PSU_CFG_GROUP j) = g)

/-- STATE and the summary bits of PSU_STATUS. -/
def Chip.setPst (c : Chip) (i st : Nat) : Chip :=
  ((c.wr (F.PSU_CH_STATUS_STATE i) st).wrBit F.PSU_STATUS_TRIPPED i (st = 4)).wrBit F.PSU_STATUS_HICCUP i (st = 3)

/-- The band that channel `i` uses (R254, R282). -/
def Chip.pwmBand (c : Chip) (i : Nat) : Nat :=
  let t := c.rd (F.PSU_CFG_TH_SRC i)
  if t < 16 ∧ c.on (F.TH_EXT_CFG_EN t) then c.rd (F.TH_EXT_TEMP_BAND t) else c.rd F.TH_STATUS_BAND_BD

/-- The dead time of a band. -/
def Chip.pwmDt (c : Chip) (i b : Nat) : Nat :=
  c.rd (match b with
    | 0 => F.PSU_DT_DT0 i
    | 1 => F.PSU_DT_DT1 i
    | 2 => F.PSU_DT_DT2 i
    | 3 => F.PSU_DT_DT3 i
    | 4 => F.PSU_DT_DT4 i
    | _ => F.PSU_DT_DT5 i)

/-- What waited for a period end takes effect (R250, R251, R254, R267): an occurrence of PWMF decides the bank (DESIGN CHOICE, log 28). -/
def Chip.pwmLatch (c : Chip) (i : Nat) : Chip :=
  let c := match (c.pw i).pwmf with | none => c | some b => c.wrBit F.PSU_BANKSEL_SEL i b
  let bank := b2n (c.rdBit F.PSU_BANKSEL_SEL i)
  let band := c.pwmBand i
  let dt := c.pwmDt i band
  let c := c.when (bank ≠ c.rd (F.PSU_CH_STATUS_BANK i)) fun c => c.raise (F.PSU_INT_STATUS_BANK_CHG i)
  let c := c.when (dt ≠ c.rd (F.PSU_CH_STATUS_DT_NOW i)) fun c => c.raise (F.PSU_INT_STATUS_DT_CHG i)
  let c := ((c.wr (F.PSU_CH_STATUS_BANK i) bank).wr (F.PSU_CH_STATUS_BAND i) band).wr (F.PSU_CH_STATUS_DT_NOW i) dt
  c.setPw i fun p => { p with
    per := c.rd (F.PSU_BANK_PER i bank), a := c.rd (F.PSU_BANK_CMP_A i bank), b := c.rd (F.PSU_BANK_CMP_B i bank),
    limWas := p.cbcLim, blankWas := p.blank, blank := c.rd (F.PSU_TRIP_CFG_BLANK i), cbcEn := c.on (F.PSU_TRIP_CFG_CBC_EN i), cbcLim := c.rd (F.PSU_TRIP_CFG_CBC_LIM i), hardLim := c.rd (F.PSU_TRIP_CFG_HARD_LIM i),
    ss := c.rd (F.PSU_CFG_SS_PERIODS i), hicN := c.rd (F.PSU_CFG_HICCUP_N i), hicOff := c.rd (F.PSU_CFG_HICCUP_OFF i), pwmf := none }

/-- The channel no longer switches: both outputs low, no period under way. In TRIPPED the count of R262 stands. Without periods, in OFF and
TRIPPED, no occurrence waits for one (R251). -/
def Chip.pwmQuiet (c : Chip) (i st : Nat) : Chip :=
  let on := decide (c.pst i = 1) || decide (c.pst i = 2)
  (((c.setPst i st).wr (F.PSU_CH_STATUS_SS_J i) 0).when (st ≠ 4) fun c => c.wr (F.PSU_CH_STATUS_CBC_RUN i) 0).setPw i fun p =>
    { p with
      start := 0, trip := none, cont := false, hiAt := none, lowAt := none, edges := [], ssCnt := 0, hicCnt := 0
      pwmf := if st = 0 ∨ st = 4 then none else p.pwmf
      fell := if on then some c.air.mono else p.fell, since := if on then 0 else p.since }

/-- SOFTSTART passes to RUN (R260). -/
def Chip.pwmRun (c : Chip) (i : Nat) : Chip :=
  ((c.setPst i 2).wr (F.PSU_CH_STATUS_SS_J i) 0).raise (F.PSU_INT_STATUS_SS_DONE i)

/-- PWM clocks since the outputs of channel `i` were turned off: at least those of its HICCUP periods, and those that AT shows; a PWM clock
is 8,192 / 3,125 Tc (DESIGN CHOICE, log 28). -/
def Chip.offClocks (c : Chip) (i m : Nat) : Nat := max (c.pw i).since ((c.air.mono - m) * 3125 / 8192)

/-- Entry to SOFTSTART (R249, R252, R260, R261): the counter starts at PHASE, k = 0; the edge that turned the outputs
off still masks (R257); an SS_PERIODS of 0 passes to RUN at once. -/
def Chip.pwmStart (c : Chip) (i : Nat) : Chip :=
  let c := ((c.pwmQuiet i 1).pwmLatch i).wr (F.PSU_CH_STATUS_DITHER_K i) 0
  let ph := c.rd (F.PSU_PHASE_PHASE i)
  let st := if 2 * (c.pw i).per ≤ ph then 0 else ph
  let c := (c.setPw i fun p => { p with
    start := st, lowAt := some st, edges := (p.fell.map fun m => (st : Int) - (c.offClocks i m : Nat)).toList, fell := none }).wr (F.PSU_CH_STATUS_SS_J i) 1
  if (c.pw i).ss = 0 then c.pwmRun i else c

/-- The lowest-numbered member in HICCUP of the group of `i`. -/
def Chip.pwmFirst (c : Chip) (i : Nat) : Option Nat := (c.pwmGroup i).find? fun j => c.pst j = 3

/-- An entry to HICCUP because of channel `i` is recorded, with the channels that enter (R264). -/
def Chip.hiccupEvent (c : Chip) (i : Nat) (l : List Nat) : Chip :=
  c.faultPulse { src := 417, cause := 2, detail := putBit 0 i true + (l.foldl (fun m j => putBit m j true) 0) * 2 ^ 16 }

/-- Channel `i` in OFF with EN = 1 starts, joins its group's HICCUP, or waits while a member is TRIPPED (R260, R263). -/
def Chip.pwmTry (c : Chip) (i : Nat) : Chip :=
  if c.pst i ≠ 0 ∨ !c.rdBit F.PSU_EN_EN i ∨ (c.pwmGroup i).any fun j => c.pst j = 4 then c else
  match c.pwmFirst i with
  | none => c.pwmStart i
  | some j =>
    let n := (c.pw j).hicCnt
    let c := ((c.pwmQuiet i 3).pwmLatch i).setPw i fun p => { p with hicCnt := n }
    ((c.inc (F.PSU_COUNT_HICCUPS i)).raise (F.PSU_INT_STATUS_HICCUP i)).hiccupEvent i [i]

/-- TRIPPED channels whose EN reads 0 pass to OFF; then every channel that may start starts. -/
def Chip.pwmSettle (c : Chip) : Chip :=
  let c := c.forEach (List.range 16) fun i c => if c.pst i = 4 ∧ !c.rdBit F.PSU_EN_EN i then c.pwmQuiet i 0 else c
  let ready := (List.range 16).filter fun i => c.pst i = 0 && c.rdBit F.PSU_EN_EN i
  c.forEach ready fun i c => c.pwmTry i

/-- PSU_EN takes the value `en` (R260): channels with EN = 0 go to OFF at once. -/
def Chip.psuEn (c : Chip) (en : Nat) : Chip :=
  let c := c.wr F.PSU_EN_EN en
  let c := c.forEach (List.range 16) fun i c => if c.pst i ≠ 0 ∧ !bit en i then c.pwmQuiet i 0 else c
  c.pwmSettle

/-- PWM_ENABLE (R252, R260): a write of PSU_EN that sets the bits of `mask`. -/
def execPwmEnable (q : Requester) (mask : Nat) (s : State) : Host.Outcome State Fault Refusal :=
  s.onAccess q fun c => c.write q 0x1600000 fun c => c.psuEn (Nat.lor (c.rd F.PSU_EN_EN) (mask % 2 ^ 16))

/-- PWM_DISABLE (R260): a write of PSU_EN that clears the bits of `mask`. -/
def execPwmDisable (q : Requester) (mask : Nat) (s : State) : Host.Outcome State Fault Refusal :=
  s.onAccess q fun c => c.write q 0x1600000 fun c => c.psuEn (Nat.land (c.rd F.PSU_EN_EN) (2 ^ 16 - 1 - mask % 2 ^ 16))

/-- Every output low and every channel OFF: reset, board-die shutdown, supply loss (R260, R265). -/
def Chip.psuOff (c : Chip) : Chip := c.forEach (List.range 16) fun i c => c.pwmQuiet i 0

/-! ## Trips (R256–R259, R264) -/

/-- CBC_TRIP (R256–R258): two consecutive samples of `mv` millivolts, in the two clocks before `t`, neither of them masked; at the
start of a period they lie in the one before. -/
def execCbcTrip (ch : Fin 16) (t mv : Nat) (s : State) : Host.Outcome State Fault Refusal :=
  s.onChip fun c =>
    let p := c.pw ch
    if (c.pst ch = 1 ∨ c.pst ch = 2) ∧ p.cbcEn ∧ 5 * p.limAt ((t : Int) - 1) < mv ∧ 5 * p.limAt ((t : Int) - 2) < mv ∧ p.trip = none ∧ (p.cont ∨ p.start + 2 ≤ t) ∧ t < 2 * p.per ∧
        !c.masked ch ((t : Int) - 1) ∧ !c.masked ch ((t : Int) - 2) then
      c.setPw ch fun p => { p with trip := some t }
    else c

/-- The hard limit of channel `i` in effect; while no carrier period runs, a write acts at once (R267) (DESIGN CHOICE, log 111). -/
def Chip.hardLim (c : Chip) (i : Nat) : Nat :=
  if c.pst i = 1 ∨ c.pst i = 2 ∨ c.pst i = 3 then (c.pw i).hardLim else c.rd (F.PSU_TRIP_CFG_HARD_LIM i)

/-- HARD_TRIP (R259, R263, R264): the levels of the 16 ISNS balls over two samples, in millivolts; all trips are one event. -/
def execHardTrip (levels : List Nat) (s : State) : Host.Outcome State Fault Refusal :=
  s.onChip fun c =>
    let own := (List.range 16).filter fun i => decide (5 * c.hardLim i < levels.getD i 0)
    if own.isEmpty then c else
    let hit := (List.range 16).filter fun i => own.any fun j => (c.pwmGroup j).contains i
    let off := hit.filter fun i => c.pst i = 1 || c.pst i = 2 || c.pst i = 3
    let mask := fun l : List Nat => l.foldl (fun m i => putBit m i true) 0
    let c := ((c.wr F.PSU_LAST_TRIP_CHANNELS (mask own)).wr F.PSU_LAST_TRIP_AFFECTED (mask off)).wr F.PSU_LAST_TRIP_EVENTS
      (c.rd F.PSU_LAST_TRIP_EVENTS + 1)
    let c := c.forEach own fun i c => (c.inc (F.PSU_COUNT_HARD i)).raise (F.PSU_INT_STATUS_HARD i)
    let c := c.forEach (hit.filter fun i => !own.contains i) fun i c => c.raise (F.PSU_INT_STATUS_GROUP i)
    let c := c.forEach (hit.filter fun i => own.contains i || c.rdBit F.PSU_EN_EN i) fun i c => c.pwmQuiet i 4
    (c.faultPulse { src := 417, cause := 1, detail := mask own + mask off * 2 ^ 16 }).pwmSettle

/-! ## The end of a period (R247, R249, R250, R258, R261–R263) -/

/-- The channels of a group enter HICCUP (R262–R264) (DESIGN CHOICE, log 28). -/
def Chip.hiccup (c : Chip) (i : Nat) : Chip :=
  let l := (c.pwmGroup i).filter fun j => c.pst j = 1 || c.pst j = 2
  let c := c.forEach l fun j c => ((c.pwmQuiet j 3).inc (F.PSU_COUNT_HICCUPS j)).raise (F.PSU_INT_STATUS_HICCUP j)
  c.hiccupEvent i l

/-- The count of R262 takes the class of the period that ends. -/
def Chip.pwmCount (c : Chip) (i : Nat) : Chip :=
  match c.pwmClass i with
  | .cbc =>
    let c := (c.inc (F.PSU_COUNT_CBC i)).raise (F.PSU_INT_STATUS_CBC i)
    c.inc (F.PSU_CH_STATUS_CBC_RUN i)
  | .neutral => c
  | .clean => c.wr (F.PSU_CH_STATUS_CBC_RUN i) 0

/-- The next period begins: what the outputs carry over the period end, and k. -/
def Chip.pwmNext (c : Chip) (i : Nat) : Chip :=
  let w := c.wave i
  let n := 2 * (c.pw i).per
  let late := fun x : Option Nat => (x.filter fun t => decide (n ≤ t)).map (· - n)
  let c := c.setPw i fun p => { p with
    start := 0, trip := none, cont := true
    hiAt := if w.pulse && decide (w.hEnd = n) then w.high.map (fun t => (t : Int) - n) else none
    lowAt := if w.pulse then late w.lowNew else late w.lowOld
    edges := (w.edges.map fun e : Int => e - (n : Int)).filter fun e => decide (-1026 < e) }
  c.wr (F.PSU_CH_STATUS_DITHER_K i) (c.rd (F.PSU_CH_STATUS_DITHER_K i) + 1)

/-- PERIOD_END (R247). -/
def execPeriodEnd (ch : Fin 16) (s : State) : Host.Outcome State Fault Refusal :=
  s.onChip fun c =>
    if c.pst ch = 3 then
      ((c.setPw ch fun p => { p with hicCnt := p.hicCnt + 1, since := p.since + 2 * p.per }).wr (F.PSU_CH_STATUS_DITHER_K ch)
        (c.rd (F.PSU_CH_STATUS_DITHER_K ch) + 1)).pwmLatch ch
    else if c.pst ch = 1 ∨ c.pst ch = 2 then
      let last := c.pwmClass ch
      let c := c.pwmCount ch
      let full := last = .cbc && decide ((c.pw ch).hicN ≤ c.rd (F.PSU_CH_STATUS_CBC_RUN ch))
      let c := c.pwmNext ch
      let c := (c.when (c.pst ch = 1) fun c => c.setPw ch fun p => { p with ssCnt := p.ssCnt + 1 }).pwmLatch ch
      let c := c.when (c.pst ch = 1 && decide ((c.pw ch).ssCnt < (c.pw ch).ss)) fun c => c.wr (F.PSU_CH_STATUS_SS_J ch) ((c.pw ch).ssCnt + 1)
      c.when full fun c => c.hiccup ch
    else c

/-- SOFTSTART_DONE (R260): SS_PERIODS periods have ended. -/
def execSoftstartDone (ch : Fin 16) (s : State) : Host.Outcome State Fault Refusal :=
  s.onChip fun c => c.when (c.pst ch = 1 && decide ((c.pw ch).ss ≤ (c.pw ch).ssCnt)) fun c => c.pwmRun ch

/-- HICCUP_END (R260, R263): HICCUP_OFF periods of the lowest-numbered member in HICCUP have ended; all members start again. -/
def execHiccupEnd (ch : Fin 16) (s : State) : Host.Outcome State Fault Refusal :=
  s.onChip fun c =>
    match c.pwmFirst ch with
    | none => c
    | some j =>
      if (c.pw j).hicOff ≤ (c.pw j).hicCnt then
        c.forEach ((c.pwmGroup ch).filter fun i => c.pst i = 3) fun i c => c.pwmStart i
      else c

/-- PWMF_FIRE (R251): the occurrence writes SEL of its channel, and decides the bank of the period that comes if one runs. -/
def execPwmfFire (s : State) : Host.Outcome State Fault Refusal :=
  s.onChip fun c => c.fire 6 fun o c =>
    let p := c.pst o.target
    (c.wrBit F.PSU_BANKSEL_SEL o.target (bit o.arg 0)).when (p = 1 || p = 2 || p = 3) fun c =>
      c.setPw o.target fun p => { p with pwmf := some (bit o.arg 0) }

/-- A write of PSU_CFG or PSU_PHASE (R267): GROUP, TH_SRC and PHASE accept writes only while the channel is in OFF. One that waits
there for a group it leaves starts (R260). -/
def Chip.psuCfgWrite (c : Chip) (l : List FldRow) (i : Nat) (h : Half) (v : Nat) : Chip :=
  let held := [F.PSU_CFG_GROUP i, F.PSU_CFG_TH_SRC i, F.PSU_PHASE_PHASE i]
  (c.fieldsWrite (if c.pst i = 0 then l else l.filter fun r => !held.contains r.fld) h v).pwmSettle

end Sys2Proof.Machine
end

