-- ==== Sys2Proof/Machine/Rfc.lean ====
section
/-!
DEFINITION. Timed T/R and switch outputs (R77, R84, R104, R105) and the RFFE masters (R106, R107).
-/

namespace Sys2Proof.Machine

/-! ## Timed outputs -/

/-- The safe code of output `k` (R104). -/
def Chip.safeCode (c : Chip) (k : Nat) : Nat :=
  if k < 32 then bits (c.rd F.RFC_TR_SAFE0_SAFE) (2 * k) 2 else bits (c.rd F.RFC_TR_SAFE1_SAFE) (2 * (k - 32)) 2

/-- Whether output `k` stands at its safe level (R104) (DEDUCED, log 74). -/
def Chip.trSafe (c : Chip) (k : Nat) : Bool :=
  !bit c.trLive k || (decide (k < 32) && decide (c.rd (F.CNV_STATUS_STATE (k / 16)) ≠ 3))

/-- Whether output `k` accepts a forced level (R105). -/
def Chip.trOpen (c : Chip) (k : Nat) : Bool :=
  decide (32 ≤ k) || (bit c.trTaken k && decide (c.rd (F.CNV_STATUS_STATE (k / 16)) = 3))

/-- Whether output `k` is driven; without its supply none is (R97, R441). -/
def Chip.trDriven (c : Chip) (k : Nat) : Bool :=
  if c.trSafe k then c.safeCode k < 2 && (if k < 32 then c.supplyOk (k / 16) else !c.railBad.contains .vddIo) else true

/-- The level driven on output `k`; 0 while undriven (R111). -/
def Chip.trHigh (c : Chip) (k : Nat) : Bool :=
  c.trDriven k && (if c.trSafe k then c.safeCode k = 1 else bit c.trLevel k)

/-- RFC_TR_LEVEL and RFC_TR_DRIVEN. -/
def Chip.trLevels (c : Chip) : Nat := (List.range 48).foldl (fun a k => a + b2n (c.trHigh k) * 2 ^ k) 0
@[inherit_doc Chip.trLevels]
def Chip.trDrivens (c : Chip) : Nat := (List.range 48).foldl (fun a k => a + b2n (c.trDriven k) * 2 ^ k) 0

/-- Output `k` takes a level. -/
def Chip.trSet (c : Chip) (k : Nat) (b : Bool) : Chip :=
  { c with trTaken := putBit c.trTaken k true, trLive := putBit c.trLive k true, trLevel := putBit c.trLevel k b }

/-- Output `k` takes the level of an occurrence. -/
def Chip.trOccur (c : Chip) (k : Nat) (b : Bool) : Chip :=
  let c := c.trSet k b
  { c with trAt := SMap.insert k c.air.mono c.trAt }

/-- A TR occurrence acts, or is discarded because its die is not in RUN, and is then DROPPED (R77, R84, R97) (DESIGN CHOICE, log 88). -/
def execTrFire (s : State) : Host.Outcome State Fault Refusal :=
  s.onChip fun c =>
    match c.air.taken with
    | [] => c
    | o :: _ =>
      let lost := o.target < 32 && decide (c.rd (F.CNV_STATUS_STATE (o.target / 16)) ≠ 3)
      if o.kind = 1 ∧ lost ∧ c.canBe o.fire.toNat then
        let c := (c.reach o.fire.toNat).setAir fun a => { a with taken := a.taken.drop 1 }
        c.loseOcc 5 o
      else c.fire 1 fun o c => c.trOccur o.target (bit o.arg 0)

/-- Force the named outputs (R105): a converter die's output in RUN and after an occurrence since its bridge was last UP. An
occurrence at this very instant decides the level (DEDUCED, log 81). -/
def Chip.trForce (c : Chip) (m : Nat) (b : Bool) : Chip :=
  c.forEach (List.range 48) fun k c =>
    c.when (bit m k && c.trOpen k && decide (c.trAt.find k ≠ some c.air.mono)) fun c => c.trSet k b

/-- TR_FORCE_HIGH (R105). -/
def execTrForceHigh (q : Requester) (half : Half) (value : Nat) (s : State) : Host.Outcome State Fault Refusal :=
  s.onAccess q fun c => c.write q 0x400020 fun c => c.trForce (half.image value) true

/-- TR_FORCE_LOW (R105). -/
def execTrForceLow (q : Requester) (half : Half) (value : Nat) (s : State) : Host.Outcome State Fault Refusal :=
  s.onAccess q fun c => c.write q 0x400028 fun c => c.trForce (half.image value) false

/-- A write of a safe-code register: each code is an encoding of its own, 3 is reserved (R7, R104). -/
def Chip.safeWrite (c : Chip) (f : Fld) (h : Half) (v : Nat) : Chip :=
  let new := fldNew f h (c.rd f) (h.image v)
  c.wr f ((List.range (f.wd / 2)).foldl (fun a k =>
    a + (if bits new (2 * k) 2 = 3 then bits (c.rd f) (2 * k) 2 else bits new (2 * k) 2) * 2 ^ (2 * k)) 0)

/-! ## RFFE -/

/-- A command is written (R107): queued, or discarded with OVERFLOW. -/
def Chip.rffeQueue (c : Chip) (m : Nat) (k : RffeCmd) : Chip :=
  if 32 ≤ (c.rf m).cmds.length then c.raise (F.RFC_RFFE_STATUS_OVERFLOW m)
  else (c.setRf m fun x => { x with cmds := x.cmds ++ [k] }).rffeGo m

/-- The address of RFC_RFFE_CMD[m]. -/
def aRffeCmd (m : Nat) : Nat := 0x400208 + 0x20 * m

/-- Register address bits that an OP uses (R111): 5, 8 or 16. -/
def opAddr (op a : Nat) : Nat := if op ≤ 3 then a % 32 else if op ≤ 5 then a % 256 else a % 65536

/-- A write of RFC_RFFE_CMD[m] (R106, R111): OP outside 1–7 discards the command; broadcast carries writes only (DESIGN CHOICE, log 127). -/
def Chip.rffeCmd (c : Chip) (m op usid addr bytes data : Nat) : Chip :=
  if op = 0 ∨ 7 < op ∨ (usid = 0 ∧ (op = 3 ∨ op = 5 ∨ op = 7)) then c
  else c.rffeQueue m { op := op, usid := usid, addr := opAddr op addr, bytes := bytes, data := data % 2 ^ 32 }

/-- The register write: DATA is kept from a write of its half; the write of bits [31:0] queues the command (R3). -/
def Chip.rffeWrite (c : Chip) (m : Nat) (h : Half) (v : Nat) : Chip :=
  let w := h.image v
  let c := c.when h.hasHi fun c => c.wr (F.RFC_RFFE_CMD_DATA m) (w / 2 ^ 32)
  c.when h.hasLo fun c => c.rffeCmd m (bits w 0 4) (bits w 4 4) (bits w 8 16) (bits w 24 2) (c.rd (F.RFC_RFFE_CMD_DATA m))

/-- RFFE_REGISTER_0_WRITE (R106). -/
def execRffeRegister0Write (q : Requester) (m : Fin 6) (usid : Fin 16) (data : Nat) (s : State) : Host.Outcome State Fault Refusal :=
  s.onAccess q fun c => c.write q (aRffeCmd m) fun c => c.rffeCmd m 1 usid 0 0 data

/-- RFFE_REGISTER_WRITE (R106). -/
def execRffeRegisterWrite (q : Requester) (m : Fin 6) (usid : Fin 16) (addr data : Nat) (s : State) : Host.Outcome State Fault Refusal :=
  s.onAccess q fun c => c.write q (aRffeCmd m) fun c => c.rffeCmd m 2 usid addr 0 data

/-- RFFE_REGISTER_READ (R106). -/
def execRffeRegisterRead (q : Requester) (m : Fin 6) (usid : Fin 16) (addr : Nat) (s : State) : Host.Outcome State Fault Refusal :=
  s.onAccess q fun c => c.write q (aRffeCmd m) fun c => c.rffeCmd m 3 usid addr 0 0

/-- RFFE_EXTENDED_WRITE (R106): one to four bytes; `bytes` is the count less 1. -/
def execRffeExtendedWrite (q : Requester) (m : Fin 6) (usid : Fin 16) (addr : Nat) (bytes : Fin 4) (data : Nat) (s : State) :
    Host.Outcome State Fault Refusal :=
  s.onAccess q fun c => c.write q (aRffeCmd m) fun c => c.rffeCmd m 4 usid addr bytes data

/-- RFFE_EXTENDED_READ (R106). -/
def execRffeExtendedRead (q : Requester) (m : Fin 6) (usid : Fin 16) (addr : Nat) (bytes : Fin 4) (s : State) :
    Host.Outcome State Fault Refusal :=
  s.onAccess q fun c => c.write q (aRffeCmd m) fun c => c.rffeCmd m 5 usid addr bytes 0

/-- RFFE_EXTENDED_WRITE_LONG (R106). -/
def execRffeExtendedWriteLong (q : Requester) (m : Fin 6) (usid : Fin 16) (addr : Nat) (bytes : Fin 4) (data : Nat) (s : State) :
    Host.Outcome State Fault Refusal :=
  s.onAccess q fun c => c.write q (aRffeCmd m) fun c => c.rffeCmd m 6 usid addr bytes data

/-- RFFE_EXTENDED_READ_LONG (R106). -/
def execRffeExtendedReadLong (q : Requester) (m : Fin 6) (usid : Fin 16) (addr : Nat) (bytes : Fin 4) (s : State) :
    Host.Outcome State Fault Refusal :=
  s.onAccess q fun c => c.write q (aRffeCmd m) fun c => c.rffeCmd m 7 usid addr bytes 0

/-- Whether an OP reads. -/
def opReads (op : Nat) : Bool := op = 3 || op = 5 || op = 7

/-- Bytes a read returns. -/
def RffeCmd.len (k : RffeCmd) : Nat := if k.op = 5 ∨ k.op = 7 then k.bytes + 1 else 1

/-- RFFE_FRAME_DONE (R107): reads return data; an error (for a read, no slave answered) returns 0 with PARITY_ERR; a write
returns a result only when it fails. The results of commands flushed behind it follow. The queue goes on, and becoming empty sets DONE. -/
def execRffeFrameDone (m : Fin 6) (error : Bool) (data : Nat) (s : State) : Host.Outcome State Fault Refusal :=
  s.onChip fun c =>
    match (c.rf m).cmds with
    | [] => c
    | k :: l =>
      if !(c.rf m).busy then c else
      let give := error || opReads k.op
      let r : RffeRes := { data := if error then 0 else data % 256 ^ k.len, parity := error, flushed := false, op := k.op }
      let late := (c.rf m).flushed
      let c := c.setRf m fun x => {
        cmds := l, busy := false, results := (x.results ++ (if give then [r] else []) ++ late).take 32 }
      let c := c.when (error || !late.isEmpty) fun c => c.wrBit F.RFC_INT_STATUS_ERR m true
      (c.when l.isEmpty fun c => c.wrBit F.RFC_INT_STATUS_DONE m true).rffeGo m

/-- What RFC_RFFE_RESULT[m] reads (R107, R111). -/
def Chip.rffeResult (c : Chip) (m : Nat) : Nat :=
  match (c.rf m).results with
  | [] => 0
  | r :: _ => r.data + 2 ^ 32 + b2n r.parity * 2 ^ 33 + b2n r.flushed * 2 ^ 34 + r.op * 2 ^ 35

/-- What RFC_RFFE_STATUS[m] reads. -/
def Chip.rffeStatus (c : Chip) (m : Nat) : Nat :=
  (c.rf m).cmds.length + (c.rf m).results.length * 2 ^ 8 + b2n (c.rf m).busy * 2 ^ 16 + c.rd (F.RFC_RFFE_STATUS_OVERFLOW m) * 2 ^ 17

/-- An access to bits [63:32] removes the entry (R107). -/
def Chip.rffePop (c : Chip) (m : Nat) (h : Half) : Chip :=
  c.when h.hasHi fun c => c.setRf m fun x => { x with results := x.results.drop 1 }

/-- RFFE_RESULT_READ (R107). -/
def execRffeResultRead (q : Requester) (m : Fin 6) (half : Half) (s : State) : Host.Outcome State Fault Refusal :=
  s.onAccess q fun c => c.read q (0x400210 + 0x20 * m) half (fun c => c.rffeResult m) fun c => c.rffePop m half

end Sys2Proof.Machine
end

