-- ==== Sys2Proof/Machine/Sup.lean ====
section
/-!
DEFINITION. The supervisor cores as the block sees them (R336, R342–R346, R350): their memories, the address map of a core and the
window of the PF, release and hold, timer and software interrupts, and the denial of tenants' resources.
-/

namespace Sys2Proof.Machine

/-! ## The address map of a core (R336) -/

/-- What a core finds at a physical address: memory at a BAR0 offset, a register at a BAR0 offset, or nothing. -/
inductive CoreAt where
  | mem (kind : CoreMem) (off : Nat)
  | dev (off : Nat)
  | hole
  deriving DecidableEq, Repr

/-- What core `k` finds at physical address `a`. -/
def coreMap (k a : Nat) : CoreAt :=
  if a < 0x10000 then .mem .tcm (0x2100000 + 0x10000 * k + a)
  else if 0x1000000 ≤ a ∧ a < 0x1040000 then .mem .tcm (0x2100000 + (a - 0x1000000))
  else if 0x8000000 ≤ a ∧ a < 0x8100000 then .mem .sram (0x2000000 + (a - 0x8000000))
  else if 0x40000000 ≤ a ∧ a < 0x42000000 then .dev (a - 0x40000000)
  else if 0x42180000 ≤ a ∧ a < 0x42181000 then .dev (a - 0x40000000)
  else .hole

/-! ## TCM and SRAM (R336, R342, R344) -/

/-- The canonical form of the byte memory: addresses strictly rising, no byte listed that reads as an unlisted one. -/
def Memory.wf (m : List Host.Cell) : Bool := SMap.wf (0 : BitVec 8) m

/-- The byte at BAR0 offset `a`; an unlisted byte reads 0 (R342). -/
def memByte (m : List Host.Cell) (a : Nat) : BitVec 8 := SMap.get 0 m a

/-- The `k` bytes from `a` as a number, byte 0 lowest. -/
def memRead (m : List Host.Cell) (a : Nat) : Nat → Nat
  | 0 => 0
  | k + 1 => (memByte m a).toNat + 256 * memRead m (a + 1) k

/-- Write the low `k` bytes of `v` from `a`. -/
def memWrite (m : List Host.Cell) (a v : Nat) : Nat → List Host.Cell
  | 0 => m
  | k + 1 => memWrite (SMap.put 0 m a (BitVec.ofNat 8 v)) (a + 1) (v / 256) k

/-- Whether a BAR0 offset lies in SRAM or in a TCM (R344). -/
def inMem (a : Nat) : Bool := decide (0x2000000 ≤ a) && decide (a < 0x2140000)

/-- Where an access to the 8 bytes at `a` starts, and how many bytes it moves (R1). -/
def Half.start (h : Half) (a : Nat) : Nat := if h = .hi then a + 4 else a
@[inherit_doc Half.start]
def Half.len (h : Half) : Nat := if h = .full then 8 else 4

/-- The line of SRAM that a BAR0 offset lies in, and the set of a cache that may hold it: 128 sets of 2 ways of 64 bytes (R335). -/
def lineOf (off : Nat) : Nat := (off - 0x2000000) / 64
@[inherit_doc lineOf] def setOf (line : Nat) : Nat := line % 128

/-- The cores take note of a store of the 8 bytes or less at `off`: all but the one that stores, or all (R337). Their data caches lose
the line of SRAM, and a reservation of the bytes is lost. -/
def Chip.storeSeen (c : Chip) (byCore : Option Nat) (off : Nat) : Chip :=
  c.forEach ((List.range 4).filter fun k => byCore ≠ some k) fun k c => c.setHart k fun h => { h with
    dcache := if off < 0x2100000 then h.dcache.filter fun p => p.2 ≠ lineOf off else h.dcache
    resv := h.resv.filter fun r => r ≠ off / 8 }

/-- A store of `len` bytes by core `k`, or by the PF. -/
def State.memStore (s : State) (byCore : Option Nat) (off len v : Nat) : State :=
  { s with mem := memWrite s.mem off v len, chip := s.chip.storeSeen byCore off }

/-- The core that a requester is. -/
def Requester.coreNum : Requester → Option Nat
  | .core k => some k.val
  | _ => none

/-- An access to the memories takes effect: a write, or a read and what it returns. -/
def State.memAccess (s : State) (x : MemAccess) : State :=
  match x.value with
  | some v =>
    let s := s.memStore (Requester.coreNum x.req) (Half.start x.half x.addr) (Half.len x.half) v
    { s with chip := s.chip.respond x.req 0 }
  | none => { s with chip := s.chip.respond x.req (memRead s.mem (Half.start x.half x.addr) (Half.len x.half)) }

/-- An access to the memories; before INIT_DONE it is stalled, not discarded (R342) (DESIGN CHOICE, log 36). -/
def State.memReq (s : State) (x : MemAccess) : State :=
  if s.chip.on F.SUP_STATUS_INIT_DONE then s.memAccess x
  else { s with chip := { s.chip with supHeld := s.chip.supHeld ++ [x] } }

/-- SUP_INIT_DONE (R342): while the clocks run (R428), every word is 0; then the stalled accesses follow in their order. -/
def execSupInitDone (s : State) : Host.Outcome State Fault Refusal :=
  if !s.chip.running || s.chip.on F.SUP_STATUS_INIT_DONE then .next s else
  let held := s.chip.supHeld
  .next (held.foldl State.memAccess { s with mem := [], chip := { s.chip.raise F.SUP_STATUS_INIT_DONE with supHeld := [] } })

/-! ## Release, hold, WFI, timer (R343–R348) -/

/-- Core `k` is released (R343): it starts in machine mode at SUP_BOOT[k], with its CSRs at their reset values and its caches empty. -/
def Chip.coreRelease (c : Chip) (k : Nat) : Chip :=
  if c.rdBit F.SUP_CTRL_RUN k then c
  else (((c.wrBit F.SUP_CTRL_RUN k true).wrBit F.SUP_STATUS_RUNNING k true).wrBit F.SUP_STATUS_IDLE k false).setHart k fun _ =>
    Hart.boot (4 * c.rd (F.SUP_BOOT_ADDR k)) c.supCyc

/-- Core `k` is held (R343, R344). -/
def Chip.coreHold (c : Chip) (k : Nat) : Chip :=
  if !c.rdBit F.SUP_CTRL_RUN k then c else
  (((c.wrBit F.SUP_CTRL_RUN k false).wrBit F.SUP_STATUS_RUNNING k false).wrBit F.SUP_STATUS_IDLE k false).intRelease k

/-- A write of SUP_CTRL (R343). -/
def Chip.supCtrl (c : Chip) (h : Half) (v : Nat) : Chip :=
  c.when h.hasLo fun c => c.forEach (List.range 4) fun k c => if bit v k then c.coreRelease k else c.coreHold k

/-- CORE_RELEASE (R343): a write of SUP_CTRL that sets one RUN bit. -/
def execCoreRelease (q : Requester) (core : Fin 4) (s : State) : Host.Outcome State Fault Refusal :=
  s.onAccess q fun c => c.write q 0x2180000 fun c => c.coreRelease core

/-- CORE_HOLD (R343): a write of SUP_CTRL that clears one RUN bit. -/
def execCoreHold (q : Requester) (core : Fin 4) (s : State) : Host.Outcome State Fault Refusal :=
  s.onAccess q fun c => c.write q 0x2180000 fun c => c.coreHold core

/-- MTIMER_EXPIRE (R345): AT reaches SUP_MTIMECMP; the timer interrupt is pending from then on. -/
def execMtimerExpire (core : Fin 4) (s : State) : Host.Outcome State Fault Refusal :=
  s.onChip fun c =>
    let t := c.rd (F.SUP_MTIMECMP_CMP core)
    if c.canBe t then (c.reach t).coreWake core else c

/-- A write of SUP_MSIP[k] (R346). -/
def Chip.msipWrite (c : Chip) (k : Nat) (h : Half) (v : Nat) : Chip :=
  c.when h.hasLo fun c => (c.wr (F.SUP_MSIP_MSIP k) (v % 2)).coreWake k

/-- A write of SUP_BOOT[k], ignored while the core runs (R343). -/
def Chip.bootWrite (c : Chip) (k : Nat) (h : Half) (v : Nat) : Chip :=
  c.when (!c.rdBit F.SUP_CTRL_RUN k) fun c => c.wr (F.SUP_BOOT_ADDR k) (fldNew (F.SUP_BOOT_ADDR k) h (c.rd (F.SUP_BOOT_ADDR k)) v)

/-! ## Denial (R340) -/

/-- A write of SUP_TEN_DENY (R340): a newly denied tenant whose square context 9 claims costs context 9 its staging. -/
def Chip.tenDeny (c : Chip) (h : Half) (v : Nat) : Chip :=
  if !h.hasLo then c else
  let fresh := fun f => 1 ≤ f && f ≤ 8 && bit v (f - 1) && !c.rdBit F.SUP_TEN_DENY_DENY (f - 1)
  let hit := (c.claimsOf 9).any fun t => decide (t < 128) && fresh (c.owner t)
  (c.wr F.SUP_TEN_DENY_DENY v).when hit fun c => c.dropCtx 9

/-- TEN_DENY_WRITE (R340). -/
def execTenDenyWrite (q : Requester) (value : Nat) (s : State) : Host.Outcome State Fault Refusal :=
  s.onAccess q fun c => c.write q 0x2180010 fun c => c.tenDeny .lo value

end Sys2Proof.Machine
end

