-- ==== Sys2Proof/Machine/Bus.lean ====
section
/-!
DEFINITION. Accesses by address (R1–R8, R339, R354, R447–R451): what a write does at each register, what a read returns where no
stored field says it, and the side effects of reads. The commands of the other families are the same writes and reads by name.
-/

namespace Sys2Proof.Machine

/-! ## Addresses -/

/-- The register an aligned access reaches: a 32-bit access at a register's offset plus 4 reaches its upper half (R1). -/
def regOf (a : Nat) (h : Half) : Option (Nat × Half) :=
  if a % 8 = 0 then some (a, h) else if a % 8 = 4 ∧ h = .lo then some (a - 4, .hi) else none

/-- Whether an address holds a register, a staging view of one, or memory (R6, R209). -/
def holds (a : Nat) : Bool := if inStaging a then (regAt (a - 0x80000)).isSome else (regAt a).isSome || inMem a

/-! ## Writes, block by block -/

/-- A write of TOP_IMG_CTRL (R466): SOURCE, then the first action in the order CLEAR, ABORT, START, HASH_REQ. -/
def Chip.imgCtrl (c : Chip) (h : Half) (v : Nat) : Chip :=
  if !h.hasLo then c else
  let c := c.when (c.rd F.TOP_IMG_STATUS_STATE ≠ 1) fun c => c.wr F.TOP_IMG_CTRL_SOURCE (bits v 0 1)
  if bit v 3 then c.imgClear else if bit v 2 then c.imgAbort else if bit v 1 then c.imgStart
  else if bit v 4 then c.hashReq else c

/-- A write of a TOP register. BASE takes multiples of 8 only (R60) (DESIGN CHOICE, log 61). -/
def Chip.topWrite (c : Chip) (rows : List FldRow) (a : Nat) (h : Half) (v : Nat) : Chip :=
  if a = aImgCtrl then c.imgCtrl h (h.image v)
  else if a = aImgPort then c.imgPort h v
  else
    let n := c.fieldsWrite rows h (h.image v)
    if n.rd F.TOP_IMG_FLASH_BASE % 8 = 0 then n else n.wr F.TOP_IMG_FLASH_BASE (c.rd F.TOP_IMG_FLASH_BASE)

/-- A write of AIR_CELL or AIR_BAND: CFG_ERR is judged again (R68); PCI is judged by RAT (R86). -/
def Chip.cellWrite (c : Chip) (rows : List FldRow) (h : Half) (v : Nat) : Chip :=
  let n := c.fieldsWrite rows h (h.image v)
  let max := if c.on F.AIR_CTRL_RAT then 503 else 1007
  let pci := n.rd F.AIR_CELL_PCI
  ((if pci ≤ max then n else n.wr F.AIR_CELL_PCI (c.rd F.AIR_CELL_PCI))).cfgEval

/-- A write of an AIR register. The lower half of word 0 of an entry arms or disarms it (R78). -/
def Chip.airWrite (c : Chip) (rows : List FldRow) (a : Nat) (h : Half) (v : Nat) : Chip :=
  let o := a - 0x100000
  if o = 0 then c.airCtrl h (h.image v)
  else if o = 8 ∨ (0x80 ≤ o ∧ o < 0xC0) then c.cellWrite rows h v
  else if o = 0x48 then c.epochWrite h v
  else if 0x1000 ≤ o ∧ o % 16 = 0 then c.when h.hasLo fun c => c.schedArm ((o - 0x1000) / 16) (h.image v)
  else c.fieldsWrite rows h (h.image v)

/-- A write of an RFC register. -/
def Chip.rfcWrite (c : Chip) (q : Requester) (rows : List FldRow) (a : Nat) (h : Half) (v : Nat) : Chip :=
  let o := a - 0x400000
  if o = 0 then c.safeWrite F.RFC_TR_SAFE0_SAFE h v
  else if o = 8 then c.safeWrite F.RFC_TR_SAFE1_SAFE h v
  else if o = 0x20 then c.trForce (h.image v) true
  else if o = 0x28 then c.trForce (h.image v) false
  else if 0x40 ≤ o ∧ o < 0xC0 then c.stageWrite q a h v
  else if 0x200 ≤ o ∧ o < 0x2C0 then
    let m := (o - 0x200) / 0x20
    if o % 0x20 = 0 then (c.fieldsWrite rows h (h.image v)).rffeGo m
    else if o % 0x20 = 8 then c.rffeWrite m h v
    else c.fieldsWrite rows h (h.image v)
  else c.fieldsWrite rows h (h.image v)

/-- A write of a square's page (R121, R137, R147, R162). -/
def Chip.sqWrite (c : Chip) (q : Requester) (a : Nat) (h : Half) (v : Nat) : Chip :=
  let n := (a - 0x1000000) / 0x1000
  if a % 0x1000 = 0x128 then c.coefWrite n h v
  else if a % 0x1000 = 0x248 then c.ecWrite n h v
  else c.stageWrite q a h v

/-- A write of a rank's page (R172, R175). -/
def Chip.rkWrite (c : Chip) (q : Requester) (a : Nat) (h : Half) (v : Nat) : Chip :=
  let k := (a - 0x1100000) / 0x4000
  let p := (a - 0x1100000) % 0x4000
  let c := c.when (rankOf a).isSome fun c => c.rankAccess k
  if 0x1000 ≤ p then c.matWrite k ((p - 0x1000) / 0x400) (p % 0x400 / 8) h v else c.stageWrite q a h v

/-- A write of a PRT register. -/
def Chip.prtWrite (c : Chip) (rows : List FldRow) (a : Nat) (h : Half) (v : Nat) : Chip :=
  let o := a - 0x1300000
  let f := (o - 0x1000) / 0x100
  if o = 8 then
    let c := c.fieldsWrite rows h (h.image v)
    c.when (bit (h.image v) 2) Chip.pinAck
  else if o < 0x1000 then c.fieldsWrite rows h (h.image v)
  else if o % 0x100 = 0xF8 then c.goWrite f (h.hasLo && bit (h.image v) 0)
  else c.mboxWrite f (o % 0x100 / 8) h v

/-- A write of a GPL register. -/
def Chip.gplWrite (c : Chip) (q : Requester) (rows : List FldRow) (a : Nat) (h : Half) (v : Nat) : Chip :=
  let o := a - 0x1400000
  if o = 0x18 then c.when h.hasLo fun c => c.releaseCtx q (bits (h.image v) 0 4)
  else if 0x1000 ≤ o ∧ o % 0x100 = 0 then c.commitWrite q ((o - 0x1000) / 0x100) h v
  else if 0x1000 ≤ o ∧ (o - 0x1000) / 0x100 ≠ q.ctx then c
  else c.fieldsWrite rows h (h.image v)

/-- A write of a PSU register. -/
def Chip.psuWrite (c : Chip) (rows : List FldRow) (a : Nat) (h : Half) (v : Nat) : Chip :=
  let o := a - 0x1600000
  if o = 0 then c.when h.hasLo fun c => c.psuEn (bits (h.image v) 0 16)
  else if 0x1000 ≤ o ∧ (o % 0x100 = 0 ∨ o % 0x100 = 0x28) then c.psuCfgWrite rows ((o - 0x1000) / 0x100) h (h.image v)
  else c.fieldsWrite rows h (h.image v)

/-- A write of an HK register; a correction is not written while its converter calibrates (R274). -/
def Chip.hkWrite (c : Chip) (rows : List FldRow) (a : Nat) (h : Half) (v : Nat) : Chip :=
  let o := a - 0x1700000
  if o = 0 then c.hkCtrl h (h.image v)
  else if o = 0x40 ∨ o = 0x48 then c.when (!c.on (hkBusy ((o - 0x40) / 8))) fun c => c.fieldsWrite rows h (h.image v)
  else c.fieldsWrite rows h (h.image v)

/-- A write of a TH register; TH_CFG bears on the cuts before the first evaluation (R286), and they on the wings (R37). -/
def Chip.thWrite (c : Chip) (rows : List FldRow) (a : Nat) (h : Half) (v : Nat) : Chip :=
  let o := a - 0x1800000
  if 8 ≤ o ∧ o < 0x28 then c.bandsWrite rows (decide (o < 0x18)) h (h.image v)
  else if 0x100 ≤ o ∧ o < 0x180 then c.extCfgWrite rows ((o - 0x100) / 8) h (h.image v)
  else if o = 0 then (c.fieldsWrite rows h (h.image v)).refreshWings
  else c.fieldsWrite rows h (h.image v)

/-- A write of an FLT register. -/
def Chip.fltWrite (c : Chip) (rows : List FldRow) (a : Nat) (h : Half) (v : Nat) : Chip :=
  let o := a - 0x1900000
  let w := h.image v
  if o = 0 then c.when (bit w 0) Chip.freeze
  else if o = 0x10 then c.when (bit w 32) Chip.firstRearm
  else if o = 0x40 then c.when h.hasLo fun c => c.injectFault (bits w 0 9) (bits w 12 2)
  else if 0x80 ≤ o ∧ o < 0xC0 then c.pendingClear ((o - 0x80) / 8) w
  else if 0x120 ≤ o ∧ o < 0x160 then c.severeClear ((o - 0x120) / 8) w
  else if o = 0x208 then c.when (bit w 0) Chip.bbAck
  else if o = 0x210 then c.when h.hasLo fun c => c.bbRead (bits w 0 9)
  else if o = 0x228 then c.when h.hasLo fun c => c.bbEvent 0x20 (bits w 0 32)
  else c.fieldsWrite rows h w

/-- A write of an INT register. Only core t completes at INT_EOI[t] (R327). -/
def Chip.intWrite (c : Chip) (q : Requester) (rows : List FldRow) (a : Nat) (h : Half) (v : Nat) : Chip :=
  let o := a - 0x1A00000
  let w := h.image v
  let t := (o - 0x100) / 0x40
  if o = 8 then c.when h.hasLo fun c => c.intSetpend (bits w 0 11)
  else if o = 0x10 then c.when h.hasLo fun c => c.intClrpend (bits w 0 11)
  else if 0x100 ≤ o ∧ o < 0x200 then
    if o % 0x40 = 8 then
      (match q with
      | .core k => if k.val = t then c.when h.hasLo fun c => c.intEoi t (bits w 0 11) else c
      | _ => c.refuse q true a)
    else (c.fieldsWrite rows h w).intEval
  else if 0x300 ≤ o ∧ o < 0x348 then c.when h.hasLo fun c => c.intHeoi ((o - 0x300) / 8) (bits w 0 11)
  else if 0x10000 ≤ o then c.srcWrite ((o - 0x10000) / 8) h w
  else c.fieldsWrite rows h w

/-- A write of a CAP register. -/
def Chip.capWrite (c : Chip) (rows : List FldRow) (a : Nat) (h : Half) (v : Nat) : Chip :=
  let o := a - 0x1B00000
  let w := h.image v
  if 0x100 ≤ o ∧ o < 0x240 ∧ o % 0x20 = 0x10 then
    let c := c.fieldsWrite rows h w
    c.forEach (List.range 16) fun e c => c.capServe e
  else if 0x100 ≤ o ∧ o < 0x240 ∧ o % 0x20 = 0x18 then
    -- ADD spans both halves and acts as a whole on an access to bits [31:0] (R3)
    c.when h.hasLo fun c => c.creditAdd ((o - 0x100) / 0x20) (bits w 0 48)
  else match capQueueOf a with
    | some (e, g) =>
      let p := (o - 0x1100) % 0x1000 % 0x80
      if p = 8 then c.dqCfg e g h w else if p = 0x10 then c.dqTail e g h w else if p = 0x30 then c.cqHead e g h w
      else if p = 0x28 then (c.fieldsWrite rows h w).capServe e
      else c.fieldsWrite rows h w
    | none => c.fieldsWrite rows h w

/-- A write of a CHL register. EN acts after the other fields of CHL_CFG are in place. -/
def Chip.chlWrite (c : Chip) (q : Requester) (rows : List FldRow) (a : Nat) (h : Half) (v : Nat) : Chip :=
  let o := a - 0x1C00000
  let w := h.image v
  let p := (o - 0x100) / 0x100
  if o = 8 then c.when (bit w 0) fun c => c.lstopAck q
  else if 0x100 ≤ o ∧ o < 0x300 then
    if o % 0x100 = 0 then
      let c := c.fieldsWrite (rows.filter fun r => r.fld.lo ≠ 0) h w
      c.when h.hasLo fun c => c.chlEn p (bit w 0)
    else if o % 0x100 = 0x38 then c.txCmd p h w
    else if o % 0x100 = 0x48 then c.when (bit w 24) fun c => c.rxPop p
    else c.fieldsWrite rows h w
  else if 0x1000 ≤ o ∧ o < 0x2000 then c.rxstrWrite ((o - 0x1000) / 0x800) ((o - 0x1000) % 0x800 / 8) rows h w
  else c.fieldsWrite rows h w

/-- A write of a SEC register. -/
def Chip.secWrite (c : Chip) (rows : List FldRow) (a : Nat) (h : Half) (v : Nat) : Chip :=
  let w := h.image v
  if a = 0x1D00008 then c.when h.hasLo fun c => c.keyCmd (bits w 0 4) (bits w 8 2) else c.fieldsWrite rows h w

/-- A write of a PWR register. -/
def Chip.pwrWrite (c : Chip) (rows : List FldRow) (a : Nat) (h : Half) (v : Nat) : Chip :=
  let w := h.image v
  if a = 0x1E00008 then c.when h.hasLo fun c => c.pwrRst (bit w 0) (bits w 8 8)
  else if a = 0x1E00018 then c.when (bit w 0) Chip.sleepEnter
  else c.fieldsWrite rows h w

/-- A write of a TEN register. -/
def Chip.tenRegWrite (c : Chip) (rows : List FldRow) (a : Nat) (h : Half) (v : Nat) : Chip :=
  let o := a - 0x1F00000
  let w := h.image v
  let p := o % 0x100
  let f := (o - 0x1000) / 0x100
  if o = 0 then c.assignWrite h w
  else if o < 0x1000 then c.fieldsWrite rows h w
  else if p ≤ 0x10 ∨ (0x40 ≤ p ∧ p < 0x80) then c.tenWrite f rows h w
  else if p = 0xF8 then c.when h.hasLo fun c => c.doorbell f (bits w 0 4)
  else c.fieldsWrite rows h w

/-- A write of a SUP register. -/
def Chip.supWrite (c : Chip) (rows : List FldRow) (a : Nat) (h : Half) (v : Nat) : Chip :=
  let o := a - 0x2180000
  let w := h.image v
  let k := (o - 0x100) / 0x40
  if o = 0 then c.supCtrl h w
  else if o = 0x10 then c.tenDeny h w
  else if o < 0x100 then c.fieldsWrite rows h w
  else if o % 0x40 = 0 then c.bootWrite k h w
  else if o % 0x40 = 0x08 ∨ o % 0x40 = 0x10 then (c.fieldsWrite rows h w).coreWake k
  else if o % 0x40 = 0x18 then c.msipWrite k h w
  else c.fieldsWrite rows h w

/-- What a write to the register at `a` does (R5, R7, R8). -/
def Chip.regEffect (c : Chip) (q : Requester) (rows : List FldRow) (a : Nat) (h : Half) (v : Nat) : Chip :=
  match a / 0x100000 with
  | 0x00 => c.topWrite rows a h v
  | 0x01 => c.airWrite rows a h v
  | 0x02 => c.cnvWrite q a h v
  | 0x03 => c.cnvWrite q a h v
  | 0x04 => c.rfcWrite q rows a h v
  | 0x10 => c.sqWrite q a h v
  | 0x11 => c.rkWrite q a h v
  | 0x12 => c.stageWrite q a h v
  | 0x13 => c.prtWrite rows a h v
  | 0x14 => c.gplWrite q rows a h v
  | 0x16 => c.psuWrite rows a h v
  | 0x17 => c.hkWrite rows a h v
  | 0x18 => c.thWrite rows a h v
  | 0x19 => c.fltWrite rows a h v
  | 0x1A => c.intWrite q rows a h v
  | 0x1B => c.capWrite rows a h v
  | 0x1C => c.chlWrite q rows a h v
  | 0x1D => c.secWrite rows a h v
  | 0x1E => c.pwrWrite rows a h v
  | 0x1F => c.tenRegWrite rows a h v
  | 0x21 => c.supWrite rows a h v
  | _ => c.fieldsWrite rows h (h.image v)

/-! ## What reads return (R5, R134, R161, R183) -/

/-- A word with field `[lo + wd - 1 : lo]` replaced. -/
def putBits (w lo wd v : Nat) : Nat := w - bits w lo wd * 2 ^ lo + v % 2 ^ wd * 2 ^ lo

/-- A word of 64 bits from a condition on each. -/
def maskOf (wd : Nat) (p : Nat → Bool) : Nat := (List.range wd).foldl (fun w i => w + b2n (p i) * 2 ^ i) 0

/-- Where a read-only register of a square's page is read: members of a group read the leader's (R134, R161). -/
def Chip.viewAddr (c : Chip) (a : Nat) : Nat :=
  match squareOf a with
  | none => a
  | some n =>
    let l := c.leader n
    if a < 0x1100000 then
      let o := a % 0x1000
      if o = 0x38 ∨ o = 0x48 ∨ (0x80 ≤ o ∧ o < 0x108) ∨ o = 0x220 ∨ o = 0x228 ∨ (0x300 ≤ o ∧ o < 0x540)
      then a - 0x1000 * (n - l) else a
    else if (a - 0x1100000) % 0x4000 < 0x1000 then a - 0x80 * (n % 8 - l % 8) else a

/-- The stored fields of the register at `a`: read-only ones as its leader has them. -/
def Chip.storedWord (c : Chip) (a : Nat) : Nat :=
  let own := (regAt a).getD []
  let led := (regAt (c.viewAddr a)).getD []
  c.regWord (own.filter fun r => r.acc ≠ .ro) + c.regWord (led.filter fun r => r.acc = .ro)

/-- SQ_RATE (R113, R137), of a group by its leader's words (R49): 0 while unrouted (DESIGN CHOICE, log 58). -/
def Chip.rateWord (c : Chip) (n : Nat) : Nat :=
  if !c.routed n then 0 else
  let d := decimD (c.subN n)
  let rho := rndOpen 113 ((c.fs (rxDie n) : Int) * 2 ^ d * 2 ^ 11) (512 * c.slotRate n)
  let rate := rndOpen 114 (c.slotRate n) 1000
  c.subN n % 2 ^ 10 + d * 2 ^ 12 + satU 16 rho.toNat * 2 ^ 16 + satU 20 rate.toNat * 2 ^ 32

/-- SQ_COST (R134, R136): 0 for other members of a group, and while unrouted. -/
def Chip.costWord (c : Chip) (n : Nat) : Nat :=
  if !c.acts n then 0 else c.tapBw n % 2 ^ 25 + c.tapsOf n % 2 ^ 13 * 2 ^ 32

/-- SQ registers that show more than stored fields. -/
def Chip.sqView (c : Chip) (a w : Nat) : Nat :=
  let n := (a - 0x1000000) / 0x1000
  let o := a % 0x1000
  if o = 0x40 then c.rateWord (c.leader n)
  else if o = 0x50 then c.costWord n
  else if o = 0x118 then c.rd (F.SQ_CTRL_FIR_BANK n) + 2 * b2n (c.coefLocked n)
  else if o = 0x128 then c.coefRead n
  else if o = 0x248 then c.ecRead n
  else if 0x300 ≤ o ∧ o < 0x500 then
    let p := (o - 0x300) / 8
    putBits w 48 1 (b2n (c.pathOn (c.leader n) (p / 8) (p % 8)))
  else w

/-- RK registers that show more than stored fields. -/
def Chip.rkView (c : Chip) (a w : Nat) : Nat :=
  let k := (a - 0x1100000) / 0x4000
  let p := (a - 0x1100000) % 0x4000
  if p = 0x18 then putBits (putBits w 32 12 (c.predOuter k)) 48 12 (c.predInner k)
  else if 0x1000 ≤ p then c.matRead k ((p - 0x1000) / 0x400) (p % 0x400 / 8)
  else w

/-- WG registers that show more than stored fields: STEP reads 7 before the first evaluation (R36, R286). -/
def Chip.wgView (c : Chip) (a w : Nat) : Nat :=
  let i := (a - 0x1200000) / 0x1000
  let o := a % 0x1000
  if 4 ≤ i then w
  else if o = 0x18 then putBits (if c.on F.TH_STATUS_ACTIVE then w else 7) 16 16 (c.stepCut i)
  else if o = 0x20 then ofS 16 (c.effLimit i)
  else w

/-- GPL registers that show more than stored fields. -/
def Chip.gplView (c : Chip) (a w : Nat) : Nat :=
  let o := a - 0x1400000
  let x := (o - 0x1000) / 0x100
  let p := o % 0x100
  if o = 0x20 then c.inRecovery
  else if o < 0x1000 then w
  else if p = 0x18 then putBits w 32 8 (c.claimsOf x).length
  else if p = 0x20 ∨ p = 0x28 ∨ p = 0x30 then
    maskOf 64 fun i => (c.claimsOf x).contains (64 * ((p - 0x20) / 8) + i)
  else w

/-- TH_STATUS: the modes and the counts of lanes before the first evaluation (R286, R290) (DEDUCED, log 59). -/
def Chip.thView (c : Chip) (a w : Nat) : Nat :=
  if a ≠ 0x1800030 then w else
  let w := putBits (putBits w 12 4 (c.onlineCount 0)) 16 4 (c.onlineCount 1)
  if c.on F.TH_STATUS_ACTIVE then w
  else putBits (putBits w 2 1 (b2n (c.stepped 0))) 3 1 (b2n (c.stepped 1))

/-- FLT registers that show more than stored fields (R318). -/
def Chip.fltView (c : Chip) (a w : Nat) : Nat :=
  let o := a - 0x1900000
  let cnt := fun (f : Nat → Fld) => (List.range 512).countP fun s => c.srcBit f s
  if o = 8 then cnt F.FLT_PENDING_PENDING + cnt F.FLT_SEVERE_SEVERE * 2 ^ 16 + cnt F.FLT_PAIR_PAIR * 2 ^ 32 +
    b2n c.faultNLow * 2 ^ 48
  else if 0xC0 ≤ o ∧ o < 0x100 then maskOf 64 fun i => c.srcActive (64 * ((o - 0xC0) / 8) + i)
  else if 0x2000 ≤ o then
    let s := (o - 0x2000) / 8
    putBits (putBits (putBits (putBits w 8 1 (b2n (c.srcBit F.FLT_PENDING_PENDING s))) 9 1 (b2n (c.srcActive s)))
      10 1 (b2n (c.severe s))) 11 1 (b2n (c.srcBit F.FLT_PAIR_PAIR s))
  else w

/-- INT registers that show more than stored fields (R333). -/
def Chip.intView (c : Chip) (a w : Nat) : Nat :=
  let o := a - 0x1A00000
  let t := (o - 0x100) / 0x40
  if 0x100 ≤ o ∧ o < 0x200 ∧ o % 0x40 = 0x18 then
    let st := c.intStack t
    (match st with | [] => 0 | p :: _ => p.1) + st.length * 2 ^ 11 + c.runPr t * 2 ^ 16 + b2n (c.int.line.contains t) * 2 ^ 25 +
      b2n (c.rdBit F.SUP_STATUS_IDLE t) * 2 ^ 26 + b2n (c.intHeld t) * 2 ^ 27
  else if 0x400 ≤ o ∧ o < 0x500 then maskOf 64 fun i => c.intPending (64 * ((o - 0x400) / 8) + i)
  else if 0x500 ≤ o ∧ o < 0x600 then maskOf 64 fun i => c.intActive (64 * ((o - 0x500) / 8) + i)
  else if 0x10000 ≤ o then
    let n := (o - 0x10000) / 8
    putBits (putBits (putBits w 25 1 (b2n (c.intPending n))) 26 1 (b2n (c.intActive n))) 27 1 (b2n (c.intInput n))
  else w

/-- TEN registers that show more than stored fields (R360, R367); TEN_FLR reads 0 for a VF. -/
def Chip.tenView (c : Chip) (q : Requester) (a w : Nat) : Nat :=
  let f := (a - 0x1F01000) / 0x100
  let p := a % 0x100
  if a < 0x1F01000 then w
  else if p = 0x18 then
    putBits (putBits w 0 8 (c.quotaCount (c.quotaSet f fun n => c.on (F.SQ_CTRL_ENABLE n))))
      8 8 (allSquares.countP fun n => c.owner n = f)
  else if p = 0x30 ∧ q.isVf then 0
  else if p = 0x38 then
    putBits (putBits (putBits w 0 1 (b2n (c.vfExists f))) 2 1 (b2n (c.stopped f))) 3 1 (b2n (c.rdBit F.SUP_TEN_DENY_DENY (f - 1)))
  else w

/-- SUP registers that show more than stored fields (R345). -/
def Chip.supView (c : Chip) (a w : Nat) : Nat :=
  let o := a - 0x2180000
  if o = 0x18 then c.now else w

/-- The register image at `a` as a read by `q` finds it. -/
def Chip.busWord (c : Chip) (q : Requester) (a : Nat) : Nat :=
  let w := c.storedWord a
  match a / 0x100000 with
  | 0x00 => if a = aStructData then c.word (c.rd F.TOP_STRUCT_ADDR_INDEX) else w
  | 0x04 =>
    if a = 0x400010 then c.trLevels else if a = 0x400018 then c.trDrivens
    else if 0x400200 ≤ a ∧ a < 0x4002C0 ∧ a % 0x20 = 0x10 then c.rffeResult ((a - 0x400200) / 0x20)
    else if 0x400200 ≤ a ∧ a < 0x4002C0 ∧ a % 0x20 = 0x18 then c.rffeStatus ((a - 0x400200) / 0x20)
    else w
  | 0x10 => c.sqView a w
  | 0x11 => c.rkView a w
  | 0x12 => c.wgView a w
  | 0x13 => if a = 0x1300020 then putBits w 18 1 (b2n c.alert) else w
  | 0x14 => c.gplView a w
  | 0x17 => if a = 0x1700030 then c.hkHead else w
  | 0x18 => c.thView a w
  | 0x19 => c.fltView a w
  | 0x1A => c.intView a w
  | 0x1C =>
    if (a = 0x1C00108 ∨ a = 0x1C00208) ∧ bits w 0 2 = 1 then putBits w 8 4 (Config.laneLock ((a - 0x1C00108) / 0x100) c.air.mono).toNat
    else if 0x1C06000 ≤ a then c.rxAct ((a - 0x1C06000) / 0x20) ((a - 0x1C06000) % 0x20 / 8) else w
  | 0x1E => if a = 0x1E00000 then putBits w 0 1 (b2n (c.on F.SUP_STATUS_INIT_DONE && c.on F.SEC_STATUS_SELFTEST_DONE)) else w
  | 0x1F => c.tenView q a w
  | 0x21 => c.supView a w
  | _ => w

/-- The staging view of the register at `a`: the shadow of every RWP field, 0 in every other bit (R209). -/
def Chip.stagedWord (c : Chip) (a : Nat) : Nat :=
  ((regAt a).getD []).foldl (fun w r => if r.acc = .rwp then w + c.shadowRd r.fld * 2 ^ r.fld.lo else w) 0

/-- What an access by `q` reads at `a`. -/
def Chip.readWord (c : Chip) (q : Requester) (a : Nat) : Nat :=
  if inStaging a then c.stagedWord (a - 0x80000) else c.busWord q a

/-- The side effects of a read (R451). -/
def Chip.readEffect (c : Chip) (a : Nat) (h : Half) : Chip :=
  if inStaging a then c else
  let c := match rankOf a with
    | none => c
    | some k => c.rankAccess k
  if a = aStructData then c.structAdvance h
  else if a = 0x100038 then c.when h.hasLo Chip.latchPos
  else if 0x400200 ≤ a ∧ a < 0x4002C0 ∧ a % 0x20 = 0x10 then c.rffePop ((a - 0x400200) / 0x20) h
  else if 0x1000000 ≤ a ∧ a < 0x1080000 ∧ a % 0x1000 = 0x128 then c.coefAdvance ((a - 0x1000000) / 0x1000) h
  else if 0x1000000 ≤ a ∧ a < 0x1080000 ∧ a % 0x1000 = 0x248 then
    c.ecAdvance ((a - 0x1000000) / 0x1000) h
  else if a = 0x1700030 then c.hkPop h
  else c.rcClear ((regAt a).getD []) h

/-! ## The accesses -/

/-- Whether an offset lies outside the BAR0 of the requester: a VF's window is 32 MiB (R353). -/
def outsideBar (q : Requester) (a : Nat) : Bool := q.isVf && decide (0x2000000 ≤ a)

/-- An aligned write; the words of the numbers 0 and 2,047 take none (R319). -/
def Chip.busWrite (c : Chip) (q : Requester) (a : Nat) (h : Half) (v : Nat) : Chip :=
  if c.deaf q then c
  else if aConfig ≤ a then (c.respond q 0).funcWrite q a h v
  else if outsideBar q a ∨ !holds a ∨ a = 0x1A10000 ∨ a = 0x1A10000 + 8 * 2047 then c.respond q 0
  else if c.idleWrite q a then c.respond q 0
  else if !c.mayWrite q a then c.refuse q true a
  else
    let c := c.respond q 0
    if inStaging a then c else c.regEffect q ((regAt a).getD []) a h v

/-- A read of INT_CLAIM[t]: bits [31:0] claim, for core t alone (R324) (DESIGN CHOICE, log 33). -/
def Chip.claimRead (c : Chip) (q : Requester) (a t : Nat) (h : Half) : Chip :=
  match q with
  | .core k => if k.val = t then (if h.hasLo then c.intClaim q t else c.respond q 0) else c.refuse q false a
  | _ => c.refuse q false a

/-- An aligned read. -/
def Chip.busRead (c : Chip) (q : Requester) (a : Nat) (h : Half) : Chip :=
  if c.deaf q then c.unsupported q
  else if aConfig ≤ a then c.respond q (h.data (match reqFunc q with | none => 0 | some f => c.funcWord f a))
  else if outsideBar q a ∨ !holds a then c.respond q 0
  else if !c.mayRead q a then c.refuse q false a
  else if 0x1A00100 ≤ a ∧ a < 0x1A00200 ∧ a % 0x40 = 0 then c.claimRead q a ((a - 0x1A00100) / 0x40) h
  else (c.respond q (h.data (c.readWord q a))).readEffect a h

/-- An access of another size or alignment (R2): source 414 records it; a read completes with Unsupported Request. A core's address
is BAR0 offset + 0x4000_0000; it takes an address-misaligned exception at an address no register access can have, else an access
fault (R338). -/
def Chip.sizeFault (c : Chip) (q : Requester) (a : Nat) (isWrite : Bool) : Chip :=
  let c := c.when (!c.deaf q) fun c => c.accessFault q 1 isWrite a
  let c := if isWrite then c else c.unsupported q
  c.except q ((if a % 4 ≠ 0 then 4 else 5) + if isWrite then 2 else 0) (q.addr a)

/-- An access by `q` to the memories. -/
def State.onMem (s : State) (q : Requester) (a : Nat) (h : Half) (v : Option Nat) : Host.Outcome State Fault Refusal :=
  .next (if s.chip.reachable q then { s with chip := s.chip.woken q }.memReq ⟨q, a, h, v⟩ else s)

/-- An access by address: of the PF and a VF by BAR0 offset, of a core by its own physical address (R336, R344, R448). `v` is what a
write carries. A VF does not see the memories. -/
def State.byAddress (s : State) (q : Requester) (addr : Nat) (half : Half) (v : Option Nat) : Host.Outcome State Fault Refusal :=
  let reg := fun off => match regOf off half with
    | none => s.onAccess q fun c => c.sizeFault q off v.isSome
    | some (a, h) => s.onAccess q fun c => match v with | none => c.busRead q a h | some x => c.busWrite q a h x
  let mem := fun off => match regOf off half with
    | none => s.onAccess q fun c => c.except q (if v.isSome then 6 else 4) addr
    | some (a, h) => s.onMem q a h v
  match q with
  | .core k => match coreMap k addr with
    | .mem _ off => mem off
    | .dev off => reg off
    | .hole => s.onAccess q fun c => c.except q (if v.isSome then 7 else 5) addr
  | .pf => if inMem addr && (regOf addr half).isSome then mem addr else reg addr
  | .vf _ => reg addr

/-- REGISTER_WRITE (R5–R8): a write by address (DEDUCED, log 57). -/
def execRegisterWrite (q : Requester) (addr : Nat) (half : Half) (value : Nat) (s : State) : Host.Outcome State Fault Refusal :=
  s.byAddress q addr half (some value)

/-- RC_READ (R5, R451): a read by address. -/
def execRcRead (q : Requester) (addr : Nat) (half : Half) (s : State) : Host.Outcome State Fault Refusal :=
  s.byAddress q addr half none

/-- ACCESS_SIZE_FAULT (R2): a core's address is its own, among its registers (R336). -/
def execAccessSizeFault (q : Requester) (addr : Nat) (isWrite : Bool) (s : State) : Host.Outcome State Fault Refusal :=
  s.onAccess q fun c => match q with
    | .core k => match coreMap k addr with
      | .dev off => c.sizeFault q off isWrite
      | .mem _ _ => c.except q (if isWrite then 6 else 4) addr
      | .hole => c.except q (if isWrite then 7 else 5) addr
    | _ => c.sizeFault q addr isWrite

end Sys2Proof.Machine
end

