-- ==== Sys2Proof/Machine/Fpu.lean ====
section
/-!
DEFINITION. Floating point of the supervisor cores (R334): IEEE 754 binary32 and binary64 as the F and D extensions use them, by
exact arithmetic and one rounding. An operation answers a bit pattern and the exception flags that it raises.
-/

namespace Sys2Proof.Machine

/-! ## Formats and values -/

/-- A format: bits of the exponent and of the stored fraction. -/
structure FFmt where
  ebits : Nat
  mbits : Nat
  deriving DecidableEq, Repr

/-- binary32 and binary64. -/
def binary32 : FFmt := ⟨8, 23⟩
@[inherit_doc binary32] def binary64 : FFmt := ⟨11, 52⟩

/-- Width in bits. -/
def FFmt.width (t : FFmt) : Nat := 1 + t.ebits + t.mbits
/-- The exponent bias. -/
def FFmt.bias (t : FFmt) : Nat := 2 ^ (t.ebits - 1) - 1
/-- The weight exponent of the last bit of the smallest numbers. -/
def FFmt.ulpMin (t : FFmt) : Int := 1 - (t.bias : Int) - t.mbits
/-- Positive infinity, and the quiet NaN that operations give. -/
def FFmt.inf (t : FFmt) : Nat := (2 ^ t.ebits - 1) * 2 ^ t.mbits
@[inherit_doc FFmt.inf] def FFmt.nan (t : FFmt) : Nat := t.inf + 2 ^ (t.mbits - 1)

/-- A value: m × 2^e with its sign (m = 0 for a zero), an infinity, or a NaN. -/
inductive FVal where
  | fin (neg : Bool) (m : Nat) (e : Int)
  | inf (neg : Bool)
  | nan (signalling : Bool)
  deriving DecidableEq, Repr

/-- The value of a bit pattern. -/
def FFmt.unpack (t : FFmt) (b : Nat) : FVal :=
  let neg := bit b (t.width - 1)
  let e := bits b t.mbits t.ebits
  let m := bits b 0 t.mbits
  if e = 2 ^ t.ebits - 1 then (if m = 0 then .inf neg else .nan (!bit m (t.mbits - 1)))
  else if e = 0 then .fin neg m t.ulpMin
  else .fin neg (2 ^ t.mbits + m) (t.ulpMin + e - 1)

/-- The sign bit. -/
def FFmt.signed (t : FFmt) (neg : Bool) (b : Nat) : Nat := b + if neg then 2 ^ (t.width - 1) else 0

/-- Flags: invalid, division by zero, overflow, underflow, inexact. -/
def flagNV : Nat := 16
@[inherit_doc flagNV] def flagDZ : Nat := 8
@[inherit_doc flagNV] def flagOF : Nat := 4
@[inherit_doc flagNV] def flagUF : Nat := 2
@[inherit_doc flagNV] def flagNX : Nat := 1

/-! ## Rounding: 0 nearest even, 1 toward zero, 2 down, 3 up, 4 nearest away -/

/-- Whether a magnitude `q` with a remainder is rounded up: `half` compares the remainder with half a unit (0 below, 1 equal, 2 above),
`exact`: there is none. -/
def roundsUp (rm : Nat) (neg : Bool) (q half : Nat) (exact : Bool) : Bool :=
  match rm with
  | 0 => decide (half = 2) || (decide (half = 1) && decide (q % 2 = 1))
  | 1 => false
  | 2 => neg && !exact
  | 3 => !neg && !exact
  | _ => decide (1 ≤ half)

/-- m × 2^e, with something below if `rest`, as a magnitude in units of 2^q: rounded, and whether it is inexact. -/
def roundTo (rm : Nat) (neg : Bool) (m : Nat) (e : Int) (rest : Bool) (q : Int) : Nat × Bool :=
  if q ≤ e then
    let w := m * 2 ^ (e - q).toNat
    (if rest && roundsUp rm neg w 0 false then w + 1 else w, rest)
  else
    let k := (q - e).toNat
    let w := m / 2 ^ k
    let r := m % 2 ^ k
    let half := if 2 * r < 2 ^ k then 0 else if 2 * r = 2 ^ k then (if rest then 2 else 1) else 2
    let exact := decide (r = 0) && !rest
    (if roundsUp rm neg w half exact then w + 1 else w, !exact)

/-- A magnitude in the format: rounded once, with overflow, underflow after rounding, and inexactness. A result is given enough bits
below its last one when something is left over. -/
def FFmt.pack (t : FFmt) (rm : Nat) (neg : Bool) (m : Nat) (e : Int) (rest : Bool) : Nat × Nat :=
  if m = 0 then (t.signed neg 0, if rest then flagNX + flagUF else 0) else
  let top := e + Nat.log2 m
  let wide := top - t.mbits
  let q := max wide t.ulpMin
  let r := roundTo rm neg m e rest q
  -- the fraction carries into the exponent by itself
  let b := if r.1 < 2 ^ t.mbits then r.1 else (q - t.ulpMin + 1).toNat * 2 ^ t.mbits + (r.1 - 2 ^ t.mbits)
  if t.inf ≤ b then
    let big := rm = 0 || rm = 4 || (rm = 2 && neg) || (rm = 3 && !neg)
    (t.signed neg (if big then t.inf else t.inf - 1), flagOF + flagNX)
  else
    let tiny := decide (wide < t.ulpMin) &&
      !(decide (wide + 1 = t.ulpMin) && decide ((roundTo rm neg m e rest wide).1 = 2 ^ (t.mbits + 1)))
    (t.signed neg b, if r.2 then flagNX + (if tiny then flagUF else 0) else 0)

/-- What an operation with a NaN among its operands gives. -/
def FFmt.nanOf (t : FFmt) (l : List FVal) : Nat × Nat := (t.nan, if l.contains (.nan true) then flagNV else 0)

/-- Whether a value is a NaN. -/
def FVal.isNan : FVal → Bool
  | .nan _ => true
  | _ => false

/-- Whether a value is infinite, is a zero, is negative. -/
def FVal.isInf : FVal → Bool
  | .inf _ => true
  | _ => false
@[inherit_doc FVal.isInf] def FVal.isZero : FVal → Bool
  | .fin _ m _ => decide (m = 0)
  | _ => false
@[inherit_doc FVal.isInf] def FVal.neg : FVal → Bool
  | .fin n _ _ => n
  | .inf n => n
  | .nan _ => false

/-! ## Arithmetic -/

/-- The sum of two finite values, exactly. -/
def addFin (neg : Bool) (m : Nat) (e : Int) (neg' : Bool) (m' : Nat) (e' : Int) : Int × Int :=
  let q := min e e'
  let s := fun (neg : Bool) (m : Nat) (e : Int) => (if neg then -1 else 1 : Int) * (m * 2 ^ (e - q).toNat : Nat)
  (s neg m e + s neg' m' e', q)

/-- a × b + c with one rounding; sums and products are cases of it. -/
def FFmt.fma (t : FFmt) (rm : Nat) (a b c : FVal) : Nat × Nat :=
  if a.isZero && b.isInf || a.isInf && b.isZero then (t.nan, flagNV)
  else if a.isNan || b.isNan || c.isNan then t.nanOf [a, b, c]
  else match a, b, c with
    | .fin n m e, .fin n' m' e', .fin s p f =>
      let neg := n != n'
      let r := addFin neg (m * m') (e + e') s p f
      if r.1 = 0 then (t.signed (if neg = s then neg else rm = 2) 0, 0)
      else t.pack rm (decide (r.1 < 0)) r.1.natAbs r.2 false
    | .fin _ _ _, .fin _ _ _, c => (t.signed c.neg t.inf, 0)
    | a, b, c =>
      let neg := a.neg != b.neg
      if c.isInf && c.neg != neg then (t.nan, flagNV) else (t.signed neg t.inf, 0)

/-- One. -/
def FVal.one : FVal := .fin false 1 0
/-- The value with its sign turned over. -/
def FVal.opp : FVal → FVal
  | .fin n m e => .fin (!n) m e
  | .inf n => .inf (!n)
  | .nan s => .nan s

/-- a + b. -/
def FFmt.add (t : FFmt) (rm : Nat) (a b : FVal) : Nat × Nat := t.fma rm a .one b
/-- a × b: the zero added has the sign of the product. -/
def FFmt.mul (t : FFmt) (rm : Nat) (a b : FVal) : Nat × Nat := t.fma rm a b (.fin (a.neg != b.neg) 0 0)

/-- a ÷ b. -/
def FFmt.div (t : FFmt) (rm : Nat) (a b : FVal) : Nat × Nat :=
  let neg := a.neg != b.neg
  match a, b with
  | .fin _ m e, .fin _ m' e' =>
    if m' = 0 then (if m = 0 then (t.nan, flagNV) else (t.signed neg t.inf, flagDZ))
    else
      let k := t.mbits + 4 + Nat.log2 m'
      let n := m * 2 ^ k
      t.pack rm neg (n / m') (e - e' - k) (n % m' ≠ 0)
  | .inf _, .fin _ _ _ => (t.signed neg t.inf, 0)
  | .fin _ _ _, .inf _ => (t.signed neg 0, 0)
  | .inf _, .inf _ => (t.nan, flagNV)
  | a, b => t.nanOf [a, b]

/-- The square root. -/
def FFmt.sqrt (t : FFmt) (rm : Nat) (a : FVal) : Nat × Nat :=
  match a with
  | .nan _ => t.nanOf [a]
  | .inf n => if n then (t.nan, flagNV) else (t.inf, 0)
  | .fin n m e =>
    if m = 0 then (t.signed n 0, 0) else if n then (t.nan, flagNV)
    else
      let k := 2 * t.mbits + 8
      let k := if (e - k) % 2 = 0 then k else k + 1
      let w := m * 2 ^ k
      let r := isqrt w
      t.pack rm false r ((e - k) / 2) (r * r ≠ w)

/-! ## Comparisons, minima, classes -/

/-- −1, 0 or 1 as a stands to b, neither a NaN. -/
def FVal.cmp (a b : FVal) : Int :=
  match a, b with
  | .inf n, .inf n' => if n = n' then 0 else if n then -1 else 1
  | .inf n, _ => if n then -1 else 1
  | _, .inf n' => if n' then 1 else -1
  | .fin n m e, .fin n' m' e' => (addFin n m e (!n') m' e').1.sign
  | _, _ => 0

/-- a = b, a < b or a ≤ b (0, 1, 2): false with a NaN; the quiet comparison = is invalid for signalling ones only. -/
def fcompare (op : Nat) (a b : FVal) : Bool × Nat :=
  if a.isNan || b.isNan then
    (false, if op ≠ 0 || a = .nan true || b = .nan true then flagNV else 0)
  else
    let k := a.cmp b
    (match op with | 0 => k = 0 | 1 => k < 0 | _ => k ≤ 0, 0)

/-- The smaller or the larger of two patterns: a number over a NaN, and −0 below +0. -/
def FFmt.minmax (t : FFmt) (max : Bool) (x y : Nat) : Nat × Nat :=
  let a := t.unpack x
  let b := t.unpack y
  let f := if a = .nan true || b = .nan true then flagNV else 0
  if a.isNan then (if b.isNan then t.nan else y, f) else if b.isNan then (x, f) else
  let less := decide (a.cmp b < 0) || (decide (a.cmp b = 0) && a.neg && !b.neg)
  (if less != max then x else y, f)

/-- FCLASS. -/
def FFmt.classOf (t : FFmt) (x : Nat) : Nat :=
  match t.unpack x with
  | .inf n => if n then 1 else 2 ^ 7
  | .nan s => if s then 2 ^ 8 else 2 ^ 9
  | .fin n m _ =>
    if m = 0 then (if n then 2 ^ 3 else 2 ^ 4)
    else if m < 2 ^ t.mbits then (if n then 2 ^ 2 else 2 ^ 5)
    else if n then 2 ^ 1 else 2 ^ 6

/-! ## Conversions -/

/-- To an integer of `w` bits, signed or not: rounded; out of range saturates and is invalid. -/
def ftoInt (rm w : Nat) (signed : Bool) (a : FVal) : Int × Nat :=
  let lo : Int := if signed then -(2 ^ (w - 1) : Nat) else 0
  let hi : Int := if signed then (2 ^ (w - 1) : Nat) - 1 else (2 ^ w : Nat) - 1
  match a with
  | .nan _ => (hi, flagNV)
  | .inf n => (if n then lo else hi, flagNV)
  | .fin n m e =>
    let r := roundTo rm n m e false 0
    let v : Int := if n then -(r.1 : Int) else r.1
    if v < lo then (lo, flagNV) else if hi < v then (hi, flagNV) else (v, if r.2 then flagNX else 0)

/-- From an integer. -/
def FFmt.ofInt (t : FFmt) (rm : Nat) (i : Int) : Nat × Nat := t.pack rm (decide (i < 0)) i.natAbs 0 false

/-- From the other format. -/
def FFmt.ofVal (t : FFmt) (rm : Nat) (a : FVal) : Nat × Nat :=
  match a with
  | .nan _ => t.nanOf [a]
  | .inf n => (t.signed n t.inf, 0)
  | .fin n m e => t.pack rm n m e false

end Sys2Proof.Machine
end

