-- ==== Sys2Proof/Machine/Riscv.lean ====
section
/-!
DEFINITION. The instructions of the supervisor cores (R334): RV64IMAFDC with Zicsr and Zifencei and the privileged instructions, their
encodings in 32 and in 16 bits, and integer arithmetic. A compressed instruction decodes to the instruction that it stands for.
-/

namespace Sys2Proof.Machine

/-! ## Instructions -/

/-- Integer operations of two operands. -/
inductive Alu where
  | add | sub | sll | slt | sltu | xor | srl | sra | or | and
  | mul | mulh | mulhsu | mulhu | div | divu | rem | remu
  deriving DecidableEq, Repr

/-- Atomic operations. -/
inductive Amo where
  | swap | add | xor | and | or | min | max | minu | maxu
  deriving DecidableEq, Repr

/-- Floating-point operations that write an f register. -/
inductive Fop where
  | add | sub | mul | div | sqrt
  | madd | msub | nmsub | nmadd
  | sgnj | sgnjn | sgnjx | min | max
  deriving DecidableEq, Repr

/-- An instruction. Registers by number; `dbl`: 64 bits or binary64, else 32 bits or binary32; `rm`: the rounding mode, 7 = frm;
`size`: log2 of the bytes moved (PRESUMED, log 114). -/
inductive Rv where
  | lui (rd : Nat) (imm : Xword)
  | auipc (rd : Nat) (imm : Xword)
  | jal (rd : Nat) (imm : Xword)
  | jalr (rd rs1 : Nat) (imm : Xword)
  | branch (cond rs1 rs2 : Nat) (imm : Xword)
  | load (size : Nat) (unsig : Bool) (rd rs1 : Nat) (imm : Xword)
  | store (size rs1 rs2 : Nat) (imm : Xword)
  | opImm (op : Alu) (dbl : Bool) (rd rs1 : Nat) (imm : Xword)
  | op (op : Alu) (dbl : Bool) (rd rs1 rs2 : Nat)
  | fence
  | fenceI
  | ecall
  | ebreak
  | mret
  | sret
  | wfi
  | sfence (rs1 rs2 : Nat)
  | csr (op : Nat) (imm : Bool) (rd src num : Nat)
  | lr (size rd rs1 : Nat)
  | sc (size rd rs1 rs2 : Nat)
  | amo (op : Amo) (size rd rs1 rs2 : Nat)
  | fload (size rd rs1 : Nat) (imm : Xword)
  | fstore (size rs1 rs2 : Nat) (imm : Xword)
  | fop (op : Fop) (dbl : Bool) (rm rd rs1 rs2 rs3 : Nat)
  | fcmp (op : Nat) (dbl : Bool) (rd rs1 rs2 : Nat)
  | fclass (dbl : Bool) (rd rs1 : Nat)
  | ftoi (dbl long unsig : Bool) (rm rd rs1 : Nat)
  | itof (dbl long unsig : Bool) (rm rd rs1 : Nat)
  | ftof (dbl : Bool) (rm rd rs1 : Nat)
  | fmvX (dbl : Bool) (rd rs1 : Nat)
  | fmvF (dbl : Bool) (rd rs1 : Nat)
  deriving DecidableEq, Repr

/-! ## Integer arithmetic -/

/-- The sign extension of a word. -/
def sext32 (a : BitVec 32) : Xword := a.signExtend 64

/-- One operation on `n` bits: a shift takes its amount modulo the width, a division by 0 gives all ones or the dividend, and the
quotient of the most negative number by −1 is itself. -/
def Alu.eval {n : Nat} (op : Alu) (a b : BitVec n) : BitVec n :=
  let s := b.toNat % n
  let flag := fun p : Bool => BitVec.ofNat n (b2n p)
  match op with
  | .add => a + b
  | .sub => a - b
  | .sll => a <<< s
  | .slt => flag (decide (a.toInt < b.toInt))
  | .sltu => flag (decide (a.toNat < b.toNat))
  | .xor => a ^^^ b
  | .srl => a >>> s
  | .sra => a.sshiftRight s
  | .or => a ||| b
  | .and => a &&& b
  | .mul => a * b
  | .mulh => BitVec.ofInt n (a.toInt * b.toInt / (2 ^ n : Nat))
  | .mulhsu => BitVec.ofInt n (a.toInt * b.toNat / (2 ^ n : Nat))
  | .mulhu => BitVec.ofNat n (a.toNat * b.toNat / 2 ^ n)
  | .div => if b = 0 then BitVec.ofInt n (-1) else BitVec.ofInt n (a.toInt.tdiv b.toInt)
  | .divu => if b = 0 then BitVec.ofInt n (-1) else BitVec.ofNat n (a.toNat / b.toNat)
  | .rem => if b = 0 then a else BitVec.ofInt n (a.toInt.tmod b.toInt)
  | .remu => if b = 0 then a else BitVec.ofNat n (a.toNat % b.toNat)

/-- An operation on registers: on 64 bits, or on words with the result sign-extended. -/
def Alu.run (op : Alu) (dbl : Bool) (a b : Xword) : Xword :=
  if dbl then op.eval a b else sext32 (op.eval (a.setWidth 32) (b.setWidth 32))

/-- An atomic operation on `n` bits: what memory takes from what it held and the operand. -/
def Amo.eval {n : Nat} (op : Amo) (m b : BitVec n) : BitVec n :=
  match op with
  | .swap => b
  | .add => m + b
  | .xor => m ^^^ b
  | .and => m &&& b
  | .or => m ||| b
  | .min => if m.toInt ≤ b.toInt then m else b
  | .max => if b.toInt ≤ m.toInt then m else b
  | .minu => if m.toNat ≤ b.toNat then m else b
  | .maxu => if b.toNat ≤ m.toNat then m else b

/-- Whether a branch is taken: BEQ, BNE, BLT, BGE, BLTU, BGEU by their funct3. -/
def branchTaken (cond : Nat) (a b : Xword) : Bool :=
  match cond with
  | 0 => a = b
  | 1 => a ≠ b
  | 4 => decide (a.toInt < b.toInt)
  | 5 => decide (b.toInt ≤ a.toInt)
  | 6 => decide (a.toNat < b.toNat)
  | _ => decide (b.toNat ≤ a.toNat)

/-! ## Decoding 32 bits -/

/-- The low `w` bits of `n`, sign-extended. -/
def simm (w n : Nat) : Xword := BitVec.ofInt 64 (toS w n)

/-- An OP or OP-32 instruction by funct7 and funct3. -/
def aluOf (f7 f3 : Nat) (dbl : Bool) : Option Alu :=
  let base := [Alu.add, .sll, .slt, .sltu, .xor, .srl, .or, .and]
  let mul := [Alu.mul, .mulh, .mulhsu, .mulhu, .div, .divu, .rem, .remu]
  let op := if f7 = 0 then base[f3]? else if f7 = 1 then mul[f3]? else if f7 = 32 ∧ f3 = 0 then some .sub
    else if f7 = 32 ∧ f3 = 5 then some .sra else none
  op.filter fun o => dbl || [Alu.add, .sub, .sll, .srl, .sra, .mul, .div, .divu, .rem, .remu].contains o

/-- An OP-IMM or OP-IMM-32 instruction: `hi` is what stands above the shift amount. -/
def immOf (f3 hi : Nat) (dbl : Bool) : Option Alu :=
  match f3 with
  | 0 => some .add
  | 1 => if hi = 0 then some .sll else none
  | 2 => if dbl then some .slt else none
  | 3 => if dbl then some .sltu else none
  | 4 => if dbl then some .xor else none
  | 5 => if hi = 0 then some .srl else if hi = 32 then some .sra else none
  | 6 => if dbl then some .or else none
  | _ => if dbl then some .and else none

/-- SYSTEM instructions without a CSR. -/
def decodePriv (w : Nat) : Option Rv :=
  if bits w 7 5 ≠ 0 then none
  else if bits w 25 7 = 9 then some (.sfence (bits w 15 5) (bits w 20 5))
  else if bits w 15 5 ≠ 0 then none
  else match bits w 20 12 with
    | 0x000 => some .ecall
    | 0x001 => some .ebreak
    | 0x102 => some .sret
    | 0x302 => some .mret
    | 0x105 => some .wfi
    | _ => none

/-- The AMO opcode. -/
def decodeAmo (w rd rs1 rs2 : Nat) : Option Rv :=
  let z := bits w 12 3
  if z ≠ 2 ∧ z ≠ 3 then none else
  match bits w 27 5 with
  | 0x02 => if rs2 = 0 then some (.lr z rd rs1) else none
  | 0x03 => some (.sc z rd rs1 rs2)
  | 0x01 => some (.amo .swap z rd rs1 rs2)
  | 0x00 => some (.amo .add z rd rs1 rs2)
  | 0x04 => some (.amo .xor z rd rs1 rs2)
  | 0x0C => some (.amo .and z rd rs1 rs2)
  | 0x08 => some (.amo .or z rd rs1 rs2)
  | 0x10 => some (.amo .min z rd rs1 rs2)
  | 0x14 => some (.amo .max z rd rs1 rs2)
  | 0x18 => some (.amo .minu z rd rs1 rs2)
  | 0x1C => some (.amo .maxu z rd rs1 rs2)
  | _ => none

/-- The OP-FP opcode. Rounding modes 5 and 6 are reserved. -/
def decodeFp (w rd rs1 rs2 : Nat) : Option Rv :=
  let rm := bits w 12 3
  let fmt := bits w 25 2
  let d := fmt = 1
  let rmOk := rm ≠ 5 && rm ≠ 6
  if 2 ≤ fmt then none else
  match bits w 27 5 with
  | 0x00 => if rmOk then some (.fop .add d rm rd rs1 rs2 0) else none
  | 0x01 => if rmOk then some (.fop .sub d rm rd rs1 rs2 0) else none
  | 0x02 => if rmOk then some (.fop .mul d rm rd rs1 rs2 0) else none
  | 0x03 => if rmOk then some (.fop .div d rm rd rs1 rs2 0) else none
  | 0x0B => if rmOk && rs2 = 0 then some (.fop .sqrt d rm rd rs1 0 0) else none
  | 0x04 => [Fop.sgnj, .sgnjn, .sgnjx][rm]?.map fun o => .fop o d 0 rd rs1 rs2 0
  | 0x05 => [Fop.min, .max][rm]?.map fun o => .fop o d 0 rd rs1 rs2 0
  | 0x14 => [2, 1, 0][rm]?.map fun o => .fcmp o d rd rs1 rs2
  | 0x18 => if rmOk && decide (rs2 < 4) then some (.ftoi d (bit rs2 1) (bit rs2 0) rm rd rs1) else none
  | 0x1A => if rmOk && decide (rs2 < 4) then some (.itof d (bit rs2 1) (bit rs2 0) rm rd rs1) else none
  | 0x08 => if rmOk && decide (rs2 = 1 - fmt) then some (.ftof d rm rd rs1) else none
  | 0x1C => if rs2 ≠ 0 then none else if rm = 0 then some (.fmvX d rd rs1) else if rm = 1 then some (.fclass d rd rs1) else none
  | 0x1E => if rs2 = 0 ∧ rm = 0 then some (.fmvF d rd rs1) else none
  | _ => none

/-- The instruction of a 32-bit encoding; none where there is none (PRESUMED, log 114). -/
def decode32 (w : Nat) : Option Rv :=
  let rd := bits w 7 5
  let f3 := bits w 12 3
  let rs1 := bits w 15 5
  let rs2 := bits w 20 5
  let f7 := bits w 25 7
  let immI := simm 12 (bits w 20 12)
  let immS := simm 12 (bits w 25 7 * 32 + rd)
  let fma := fun o : Fop =>
    if bits w 25 2 ≤ 1 ∧ f3 ≠ 5 ∧ f3 ≠ 6 then some (Rv.fop o (bits w 25 2 = 1) f3 rd rs1 rs2 (bits w 27 5)) else none
  match bits w 0 7 with
  | 0x37 => some (.lui rd (simm 32 (bits w 12 20 * 2 ^ 12)))
  | 0x17 => some (.auipc rd (simm 32 (bits w 12 20 * 2 ^ 12)))
  | 0x6F => some (.jal rd (simm 21 (bits w 31 1 * 2 ^ 20 + bits w 12 8 * 2 ^ 12 + bits w 20 1 * 2 ^ 11 + bits w 21 10 * 2)))
  | 0x67 => if f3 = 0 then some (.jalr rd rs1 immI) else none
  | 0x63 => if f3 = 2 ∨ f3 = 3 then none else
    some (.branch f3 rs1 rs2 (simm 13 (bits w 31 1 * 2 ^ 12 + bits w 7 1 * 2 ^ 11 + bits w 25 6 * 2 ^ 5 + bits w 8 4 * 2)))
  | 0x03 => if f3 = 7 then none else some (.load (f3 % 4) (decide (4 ≤ f3)) rd rs1 immI)
  | 0x23 => if 4 ≤ f3 then none else some (.store f3 rs1 rs2 immS)
  | 0x13 => (immOf f3 (f7 / 2 * 2) true).map fun o =>
    .opImm o true rd rs1 (if f3 = 1 ∨ f3 = 5 then BitVec.ofNat 64 (bits w 20 6) else immI)
  | 0x1B => (immOf f3 f7 false).map fun o =>
    .opImm o false rd rs1 (if f3 = 1 ∨ f3 = 5 then BitVec.ofNat 64 rs2 else immI)
  | 0x33 => (aluOf f7 f3 true).map fun o => .op o true rd rs1 rs2
  | 0x3B => (aluOf f7 f3 false).map fun o => .op o false rd rs1 rs2
  | 0x0F => if f3 = 0 then some .fence else if f3 = 1 then some .fenceI else none
  | 0x73 => if f3 = 0 then decodePriv w else if f3 = 4 then none else
    some (.csr (f3 % 4) (decide (4 ≤ f3)) rd rs1 (bits w 20 12))
  | 0x2F => decodeAmo w rd rs1 rs2
  | 0x07 => if f3 = 2 ∨ f3 = 3 then some (.fload f3 rd rs1 immI) else none
  | 0x27 => if f3 = 2 ∨ f3 = 3 then some (.fstore f3 rs1 rs2 immS) else none
  | 0x43 => fma .madd
  | 0x47 => fma .msub
  | 0x4B => fma .nmsub
  | 0x4F => fma .nmadd
  | 0x53 => decodeFp w rd rs1 rs2
  | _ => none

/-! ## Decoding 16 bits -/

/-- Quadrant 0. -/
def decodeC0 (w : Nat) : Option Rv :=
  let rd := 8 + bits w 2 3
  let rs := 8 + bits w 7 3
  let offW := BitVec.ofNat 64 (bits w 10 3 * 8 + bits w 6 1 * 4 + bits w 5 1 * 64)
  let offD := BitVec.ofNat 64 (bits w 10 3 * 8 + bits w 5 2 * 64)
  match bits w 13 3 with
  | 0 =>
    let imm := bits w 7 4 * 64 + bits w 11 2 * 16 + bits w 5 1 * 8 + bits w 6 1 * 4
    if imm = 0 then none else some (.opImm .add true rd 2 (BitVec.ofNat 64 imm))
  | 1 => some (.fload 3 rd rs offD)
  | 2 => some (.load 2 false rd rs offW)
  | 3 => some (.load 3 false rd rs offD)
  | 5 => some (.fstore 3 rs rd offD)
  | 6 => some (.store 2 rs rd offW)
  | 7 => some (.store 3 rs rd offD)
  | _ => none

/-- Quadrant 1. -/
def decodeC1 (w : Nat) : Option Rv :=
  let rd := bits w 7 5
  let rp := 8 + bits w 7 3
  let imm := simm 6 (bits w 12 1 * 32 + bits w 2 5)
  let sh := BitVec.ofNat 64 (bits w 12 1 * 32 + bits w 2 5)
  let offJ := simm 12 (bits w 12 1 * 2 ^ 11 + bits w 8 1 * 2 ^ 10 + bits w 9 2 * 2 ^ 8 + bits w 6 1 * 2 ^ 7 + bits w 7 1 * 2 ^ 6 +
    bits w 2 1 * 2 ^ 5 + bits w 11 1 * 2 ^ 4 + bits w 3 3 * 2)
  let offB := simm 9 (bits w 12 1 * 2 ^ 8 + bits w 5 2 * 2 ^ 6 + bits w 2 1 * 2 ^ 5 + bits w 10 2 * 2 ^ 3 + bits w 3 2 * 2)
  match bits w 13 3 with
  | 0 => some (.opImm .add true rd rd imm)
  | 1 => if rd = 0 then none else some (.opImm .add false rd rd imm)
  | 2 => some (.opImm .add true rd 0 imm)
  | 3 =>
    if imm = 0 then none
    else if rd = 2 then
      some (.opImm .add true 2 2 (simm 10 (bits w 12 1 * 2 ^ 9 + bits w 3 2 * 2 ^ 7 + bits w 5 1 * 2 ^ 6 + bits w 2 1 * 2 ^ 5 +
        bits w 6 1 * 2 ^ 4)))
    else some (.lui rd (imm <<< 12))
  | 4 =>
    match bits w 10 2 with
    | 0 => some (.opImm .srl true rp rp sh)
    | 1 => some (.opImm .sra true rp rp sh)
    | 2 => some (.opImm .and true rp rp imm)
    | _ =>
      let rs := 8 + bits w 2 3
      match bits w 12 1 * 4 + bits w 5 2 with
      | 0 => some (.op .sub true rp rp rs)
      | 1 => some (.op .xor true rp rp rs)
      | 2 => some (.op .or true rp rp rs)
      | 3 => some (.op .and true rp rp rs)
      | 4 => some (.op .sub false rp rp rs)
      | 5 => some (.op .add false rp rp rs)
      | _ => none
  | 5 => some (.jal 0 offJ)
  | 6 => some (.branch 0 rp 0 offB)
  | _ => some (.branch 1 rp 0 offB)

/-- Quadrant 2. -/
def decodeC2 (w : Nat) : Option Rv :=
  let rd := bits w 7 5
  let rs2 := bits w 2 5
  let hi := bits w 12 1
  let offW := BitVec.ofNat 64 (hi * 32 + bits w 4 3 * 4 + bits w 2 2 * 64)
  let offD := BitVec.ofNat 64 (hi * 32 + bits w 5 2 * 8 + bits w 2 3 * 64)
  let outW := BitVec.ofNat 64 (bits w 9 4 * 4 + bits w 7 2 * 64)
  let outD := BitVec.ofNat 64 (bits w 10 3 * 8 + bits w 7 3 * 64)
  match bits w 13 3 with
  | 0 => some (.opImm .sll true rd rd (BitVec.ofNat 64 (hi * 32 + rs2)))
  | 1 => some (.fload 3 rd 2 offD)
  | 2 => if rd = 0 then none else some (.load 2 false rd 2 offW)
  | 3 => if rd = 0 then none else some (.load 3 false rd 2 offD)
  | 4 =>
    if hi = 0 then
      if rs2 ≠ 0 then some (.op .add true rd 0 rs2) else if rd = 0 then none else some (.jalr 0 rd 0)
    else if rs2 ≠ 0 then some (.op .add true rd rd rs2)
    else if rd = 0 then some .ebreak else some (.jalr 1 rd 0)
  | 5 => some (.fstore 3 2 rs2 outD)
  | 6 => some (.store 2 2 rs2 outW)
  | _ => some (.store 3 2 rs2 outD)

/-- The instruction of a 16-bit encoding (PRESUMED, log 114). -/
def decode16 (w : Nat) : Option Rv :=
  match bits w 0 2 with
  | 0 => decodeC0 w
  | 1 => decodeC1 w
  | 2 => decodeC2 w
  | _ => none

end Sys2Proof.Machine
end

