-- ==== Sys2Proof/Machine/HartMem.lean ====
section
/-!
DEFINITION. What a supervisor core reaches in memory (R335–R339, R341, R347): translation by Sv39 with its TLB, physical memory
protection, the caches, loads, stores and atomics in TCM and SRAM, and the device region through the register fabric.
-/

namespace Sys2Proof.Machine

/-! ## Accesses and their exceptions -/

/-- What an access is for; an atomic, and a store-conditional, count as stores. -/
inductive CoreAcc where
  | fetch
  | load
  | store
  deriving DecidableEq, Repr

/-- The causes of its exceptions: address misaligned, access fault, page fault. -/
def CoreAcc.misaligned : CoreAcc → Nat
  | .fetch => 0
  | .load => 4
  | .store => 6
@[inherit_doc CoreAcc.misaligned] def CoreAcc.refused (t : CoreAcc) : Nat := t.misaligned + 1
@[inherit_doc CoreAcc.misaligned] def CoreAcc.page : CoreAcc → Nat
  | .fetch => 12
  | .load => 13
  | .store => 15

/-- The permission bit that the access needs, as PMP has it: R 0, W 1, X 2. -/
def CoreAcc.perm : CoreAcc → Nat
  | .fetch => 2
  | .load => 0
  | .store => 1

/-- A part of an instruction: the state after it, and its value or the cause of the exception that it raises. -/
abbrev Attempt (α : Type) := State × Except Nat α

/-- Go on with the value, if there is one. -/
def Attempt.then {α β : Type} (x : Attempt α) (g : State → α → Attempt β) : Attempt β :=
  match x.2 with
  | .ok a => g x.1 a
  | .error e => (x.1, .error e)

/-- Change core `k`. -/
def State.setHart (s : State) (k : Nat) (g : Hart → Hart) : State := { s with chip := s.chip.setHart k g }

/-- A free value for core `k`, and the state after drawing it. -/
def State.drawn (s : State) : State := { s with chip := s.chip.tick }

/-! ## Physical memory protection (R335) -/

/-- The mode whose rights a data access has (MPRV), or a fetch. -/
def Hart.accMode (h : Hart) (t : CoreAcc) : Priv := if t ≠ .fetch ∧ h.status 17 then h.mpp else h.mode

/-- The bytes that PMP entry `i` covers, from and up to: none while it is OFF. The granularity is 8 bytes. -/
def Hart.pmpRange (h : Hart) (i : Nat) : Option (Nat × Nat) :=
  let a := h.csr (0x3B0 + i)
  match pmpA (h.pmpCfg i) with
  | 1 => some (if i = 0 then 0 else h.csr (0x3B0 + i - 1) / 2 * 8, a / 2 * 8)
  | 3 =>
    let n := ((List.range 54).takeWhile fun j => bit a j).length
    some (a / 2 ^ (n + 1) * 2 ^ (n + 3), (a / 2 ^ (n + 1) + 1) * 2 ^ (n + 3))
  | _ => none

/-- Whether the lowest-numbered entry that matches a byte allows the access: it must match all of it; machine mode is bound by locked
entries only; an access of another mode that no entry matches fails. -/
def Hart.pmpOk (h : Hart) (m : Priv) (perm pa len : Nat) : Bool :=
  match (List.range 16).findSome? fun i => (h.pmpRange i).bind fun r =>
      if pa < r.2 ∧ r.1 < pa + len ∧ r.1 < r.2 then some (i, decide (r.1 ≤ pa) && decide (pa + len ≤ r.2)) else none with
  | none => m = .machine
  | some (i, all) => all && (bit (h.pmpCfg i) perm || (decide (m = .machine) && !bit (h.pmpCfg i) 7))

/-! ## Errors in the memories (R341) -/

/-- The byte address of a BAR0 offset within its memory. -/
def memOfs (off : Nat) : Nat := if off < 0x2100000 then off - 0x2000000 else off % 0x10000

/-- An uncorrectable error that core `k` meets: counted, and source 418 + k or 422 (DESIGN CHOICE, log 104). -/
def Chip.memBad (c : Chip) (k : Nat) (m : CoreMem) (access addr : Nat) : Chip :=
  (c.inc (F.SUP_ERR_UNCORR k)).faultPulse
    { src := if m = .tcm then 418 + k else 422, cause := 1, master := 9 + k, access := access, addr := some addr }

/-- Core `k` reads `len` bytes of a memory, which may meet an error. -/
def State.memGet (s : State) (k : Nat) (t : CoreAcc) (m : CoreMem) (off len : Nat) : Attempt Nat :=
  if (s.chip.hart k).bad = some m then
    ({ s with chip := (s.chip.setHart k fun h => { h with bad := none }).memBad k m (if t = .fetch then 3 else 4) (memOfs off) },
      .error t.refused)
  else (s, .ok (memRead s.mem off len))

/-! ## Translation (R335, R347) -/

/-- The leaf of a TLB entry or of a walk: its level and its page-table entry. -/
structure Leaf where
  level : Nat
  pte : Nat
  deriving DecidableEq, Repr

/-- Whether a leaf allows the access: its page is aligned, its bits and the mode allow it, and A, for a store D, is set, since the
hardware sets neither. -/
def Hart.leafOk (h : Hart) (t : CoreAcc) (l : Leaf) : Bool :=
  let p := bit l.pte
  let user := decide (h.accMode t = .user)
  (match t with
    | .fetch => p 3
    | .load => p 1 || (p 3 && h.status 19)
    | .store => p 2) &&
  (if user then p 4 else !p 4 || (decide (t ≠ .fetch) && h.status 18)) && p 6 && (decide (t ≠ .store) || p 7) &&
  decide (bits l.pte 10 (9 * l.level) = 0)

/-- The physical address that a leaf gives. -/
def Leaf.addr (l : Leaf) (va : Nat) : Nat :=
  bits l.pte (10 + 9 * l.level) (44 - 9 * l.level) * 2 ^ (12 + 9 * l.level) + va % 2 ^ (12 + 9 * l.level)

/-- The ASID of satp. -/
def Hart.asid (h : Hart) : Nat := bits (h.csr 0x180) 44 16

/-- What the TLB holds for an address. -/
def Hart.tlbHit (h : Hart) (va : Nat) : Option Leaf :=
  (h.tlb.find? fun e => e.vpn = va / 2 ^ (12 + 9 * e.level) && (e.asid = h.asid || bit e.pte 5)).map fun e => ⟨e.level, e.pte⟩

/-- Core `k` reads the entry for an address in one page table: a leaf, or the next table. The entry must lie in TCM or SRAM. -/
def State.walkOne (s : State) (k : Nat) (t : CoreAcc) (va base level : Nat) : Attempt (Leaf ⊕ Nat) :=
  let a := base + 8 * bits va (12 + 9 * level) 9
  if !(s.chip.hart k).pmpOk .supervisor 0 a 8 then (s, .error t.refused) else
  match coreMap k a with
  | .mem m off =>
    (s.memGet k t m off 8).then fun s pte =>
      if !bit pte 0 || (!bit pte 1 && bit pte 2) || decide (bits pte 54 10 ≠ 0) then (s, .error t.page)
      else if bit pte 1 || bit pte 3 then (s, .ok (.inl ⟨level, pte⟩))
      else if bit pte 4 || bit pte 6 || bit pte 7 then (s, .error t.page) else (s, .ok (.inr (bits pte 10 44 * 2 ^ 12)))
  | _ => (s, .error t.refused)

/-- Core `k` walks the page tables from the one at `base`, with so many levels below it. -/
def State.walk (s : State) (k : Nat) (t : CoreAcc) (va base : Nat) : Nat → Attempt Leaf
  | 0 => (s.walkOne k t va base 0).then fun s r =>
    match r with
    | .inl l => (s, .ok l)
    | .inr _ => (s, .error t.page)
  | n + 1 => (s.walkOne k t va base (n + 1)).then fun s r =>
    match r with
    | .inl l => (s, .ok l)
    | .inr b => s.walk k t va b n

/-- The TLB of core `k` takes an entry; which others it loses is left open (DESIGN CHOICE, log 119). -/
def State.tlbFill (s : State) (k va : Nat) (l : Leaf) : State :=
  let f := s.chip.free
  (s.setHart k fun h => { h with
    tlb := { vpn := va / 2 ^ (12 + 9 * l.level), level := l.level, asid := h.asid, pte := l.pte } ::
      (h.tlb.zipIdx.filter fun e => bit f e.2).map Prod.fst }).drawn

/-- Whether addresses are translated: Sv39 in satp, and a mode below machine mode. -/
def Hart.sv39 (h : Hart) (t : CoreAcc) : Bool := decide (h.accMode t ≠ .machine) && decide (bits (h.csr 0x180) 60 4 = 8)

/-- The physical address of a virtual one. An address whose upper bits do not repeat bit 38 is no Sv39 address. -/
def State.translate (s : State) (k : Nat) (t : CoreAcc) (va : Nat) : Attempt Nat :=
  let h := s.chip.hart k
  if !h.sv39 t then (s, .ok va)
  else if bits va 38 26 ≠ 0 ∧ bits va 38 26 ≠ 2 ^ 26 - 1 then (s, .error t.page)
  else match h.tlbHit va with
    | some l => (s, if h.leafOk t l then .ok (l.addr va) else .error t.page)
    | none => (s.walk k t va (bits (h.csr 0x180) 0 44 * 2 ^ 12) 2).then fun s l =>
      if (s.chip.hart k).leafOk t l then (s.tlbFill k va l, .ok (l.addr va)) else (s, .error t.page)

/-! ## Caches (R335, R337) -/

/-- The slot of a two-way cache that takes a line of this set: an empty way, else the one that `f` says. -/
def fillSlot {α : Type} (m : SMap α) (set f : Nat) : Nat :=
  if !m.has (2 * set) then 2 * set else if !m.has (2 * set + 1) then 2 * set + 1 else 2 * set + f % 2

/-- The slot of the instruction cache that holds a line, and its bytes. -/
def Hart.iHit (h : Hart) (line : Nat) : Option (Nat × Nat × Nat) := h.icache.find? fun p => p.2.1 = line

/-- The instruction cache of core `k` takes a line of SRAM; the way is free when both are in use (DESIGN CHOICE, log 119). -/
def State.iFill (s : State) (k line : Nat) : State :=
  let f := s.chip.free
  let d := memRead s.mem (0x2000000 + 64 * line) 64
  (s.setHart k fun h => { h with icache := SMap.insert (fillSlot h.icache (setOf line) f) (line, d) h.icache }).drawn

/-- The data cache of core `k` takes a line of SRAM. -/
def State.dFill (s : State) (k line : Nat) : State :=
  let f := s.chip.free
  (s.setHart k fun h => { h with dcache := SMap.insert (fillSlot h.dcache (setOf line) f) line h.dcache }).drawn

/-- The 16 bits of a line's bytes at a BAR0 offset. -/
def lineParcel (d off : Nat) : Nat := bits d (8 * (off % 64)) 16

/-! ## Fetching -/

/-- Core `k` fetches the 16 bits at a virtual address: from TCM, or from SRAM through its instruction cache, which may be stale. -/
def State.fetchParcel (s : State) (k va : Nat) : Attempt Nat :=
  (s.translate k .fetch va).then fun s pa =>
    let h := s.chip.hart k
    if !h.pmpOk h.mode 2 pa 2 then (s, .error 1) else
    match coreMap k pa with
    | .mem .tcm off => s.memGet k .fetch .tcm off 2
    | .mem .sram off =>
      match h.iHit (lineOf off) with
      | some e => (s, .ok (lineParcel e.2.2 off))
      | none =>
        ((s.setHart k fun h => h.event 2 1).memGet k .fetch .sram off 2).then fun s w => (s.iFill k (lineOf off), .ok w)
    | _ => (s, .error 1)

/-- What a wrong-path fetch finds (R347): no walk, no exception and no fault; a line with an error is not filled. -/
def State.wrongParcel (s : State) (k va : Nat) : Option (State × Nat) :=
  let h := s.chip.hart k
  let pa := if !h.sv39 .fetch then some va else (h.tlbHit va).bind fun l => if h.leafOk .fetch l then some (l.addr va) else none
  pa.bind fun pa =>
    if !h.pmpOk h.mode 2 pa 2 then none else
    match coreMap k pa with
    | .mem .tcm off => if h.bad = some .tcm then none else some (s, memRead s.mem off 2)
    | .mem .sram off =>
      match h.iHit (lineOf off) with
      | some e => some (s, lineParcel e.2.2 off)
      | none => if h.bad = some .sram then none else
        some ((s.setHart k fun h => h.event 2 1).iFill k (lineOf off), memRead s.mem off 2)
    | _ => none

/-! ## Data -/

/-- Core `k` reads `len` bytes of a memory: TCM, or SRAM through its data cache. -/
def State.dataGet (s : State) (k : Nat) (t : CoreAcc) (m : CoreMem) (off len : Nat) : Attempt Nat :=
  let line := lineOf off
  if m = .tcm ∨ (s.chip.hart k).dcache.any fun p => p.2 = line then
    (if m = .tcm then s.memGet k t m off len else (s, .ok (memRead s.mem off len)))
  else ((s.setHart k fun h => h.event 3 1).memGet k t m off len).then fun s v => (s.dFill k line, .ok v)

/-- A load or store in the device region that breaks R1: recorded under R2 (R338). -/
def State.devSize (s : State) (k : Fin 4) (t : CoreAcc) (off : Nat) : State :=
  { s with chip := s.chip.sizeFault (.core k) off (decide (t = .store)) }

/-- The physical address of an aligned access that PMP allows, and what lies there (DEDUCED, log 121). -/
def State.reach (s : State) (k : Fin 4) (t : CoreAcc) (va len : Nat) : Attempt CoreAt :=
  (s.translate k t va).then fun s pa =>
    let h := s.chip.hart k
    let ok := h.pmpOk (h.accMode t) t.perm pa len
    match coreMap k pa with
    | .hole => (s, .error t.refused)
    | .mem m off => (s, if va % len ≠ 0 then .error t.misaligned else if ok then .ok (.mem m off) else .error t.refused)
    | .dev off =>
      if va % len ≠ 0 then (if ok then s.devSize k t off else s, .error t.misaligned)
      else if !ok then (s, .error t.refused)
      else if len < 4 then (s.devSize k t off, .error t.refused) else (s, .ok (.dev off))

/-- The half of a register that an aligned access of `len` bytes reaches. -/
def devHalf (off len : Nat) : Half := if len = 8 then .full else if off % 8 = 4 then .hi else .lo

/-- The register fabric as an access finds it: no exception yet. -/
def State.busClear (s : State) : State := { s with chip := { s.chip with bus := { s.chip.bus with exc := none } } }

/-- A load from the device region waits for the fabric, for so many cycles as it takes (R338, R349). -/
def State.devStall (s : State) (k : Nat) : State := (s.setHart k fun h => h.event 6 s.chip.free).drawn.busClear

/-- What the last access through the fabric gives: the data, or the exception that a refused load raises (R339). -/
def Chip.busTake (c : Chip) : Except Nat Nat :=
  match c.bus.exc with
  | some e => .error e.1
  | none => .ok c.bus.data

/-- Core `k` loads `len` bytes; of the device region, through the fabric. -/
def State.coreLoad (s : State) (k : Fin 4) (va len : Nat) : Attempt Nat :=
  (s.reach k .load va len).then fun s at' =>
    match at' with
    | .mem m off => s.dataGet k .load m off len
    | .dev off =>
      let s := s.devStall k
      let c := s.chip.busRead (.core k) (off / 8 * 8) (devHalf off len)
      ({ s with chip := c }, c.busTake)
    | .hole => (s, .error 5)

/-- Core `k` stores `len` bytes. A store to the device region is posted: a refused one raises no exception. -/
def State.coreStore (s : State) (k : Fin 4) (va len v : Nat) : Attempt Unit :=
  (s.reach k .store va len).then fun s at' =>
    match at' with
    | .mem _ off => (s.memStore (some k) off len v, .ok ())
    | .dev off => ({ s.busClear with chip := s.busClear.chip.busWrite (.core k) (off / 8 * 8) (devHalf off len) v }, .ok ())
    | .hole => (s, .error 7)

/-- LR: the core holds the 8 bytes around (R335). In the device region it faults. -/
def State.coreLr (s : State) (k : Fin 4) (va len : Nat) : Attempt Nat :=
  (s.reach k .load va len).then fun s at' =>
    match at' with
    | .mem m off => (s.dataGet k .load m off len).then fun s v => (s.setHart k fun h => { h with resv := some (off / 8) }, .ok v)
    | _ => (s, .error 5)

/-- SC: stores if the core holds the bytes, and answers 0; else 1. It holds nothing afterwards. -/
def State.coreSc (s : State) (k : Fin 4) (va len v : Nat) : Attempt Nat :=
  (s.reach k .store va len).then fun s at' =>
    match at' with
    | .mem _ off =>
      let held := (s.chip.hart k).resv = some (off / 8)
      let s := s.setHart k fun h => { h with resv := none }
      (if held then s.memStore (some k) off len v else s, .ok (if held then 0 else 1))
    | _ => (s, .error 7)

/-- An atomic operation: what memory held. -/
def State.coreAmo (s : State) (k : Fin 4) (va len : Nat) (g : Nat → Nat) : Attempt Nat :=
  (s.reach k .store va len).then fun s at' =>
    match at' with
    | .mem m off => (s.dataGet k .store m off len).then fun s v => (s.memStore (some k) off len (g v), .ok v)
    | _ => (s, .error 7)

end Sys2Proof.Machine
end

