-- ==== Sys2Proof/Machine/HartExec.lean ====
section
/-!
DEFINITION. The supervisor cores execute (R334, R335, R341, R343, R347–R349): what each instruction does, branch prediction and the
wrong path, the step of a core, and the two commands about a core's instruction: WFI, and a memory error.
-/

namespace Sys2Proof.Machine

/-! ## Registers of an instruction -/

/-- Write x`r` of core `k`. -/
def State.putX (s : State) (k r : Nat) (v : Xword) : State := s.setHart k fun h => h.setX r v

/-- What f`r` holds as an operand of a format: a binary32 is boxed in ones, else it reads as NaN. -/
def Hart.fval (h : Hart) (dbl : Bool) (r : Nat) : Nat :=
  let v := (h.f r).toNat
  if dbl then v else if bits v 32 32 = 2 ^ 32 - 1 then v % 2 ^ 32 else binary32.nan

/-- Write f`r` with a result of a format. -/
def Hart.putF (h : Hart) (dbl : Bool) (r v : Nat) : Hart :=
  h.setF r (BitVec.ofNat 64 (if dbl then v else (2 ^ 32 - 1) * 2 ^ 32 + v % 2 ^ 32))

/-- The format. -/
def fmtOf (dbl : Bool) : FFmt := if dbl then binary64 else binary32

/-- Exception flags accrue in fflags. -/
def Hart.flags (h : Hart) (f : Nat) : Hart :=
  if f = 0 then h else (h.setCsr 3 (Nat.lor (h.csr 3) f)).setCsr 0x300 (Nat.lor (h.csr 0x300) 0x6000)

/-- The rounding mode of an instruction; none where frm holds no mode. -/
def Hart.rounding (h : Hart) (rm : Nat) : Option Nat :=
  let r := if rm = 7 then bits (h.csr 3) 5 3 else rm
  if r < 5 then some r else none

/-! ## What an instruction does -/

/-- What follows an instruction: the next one, or the one at an address. -/
inductive Onward where
  | next
  | jump (pc : Xword)
  deriving DecidableEq, Repr

/-- The instruction is done and the next follows. -/
def State.went (s : State) : Attempt Onward := (s, .ok .next)

/-- A floating-point operation that writes an f register: the result and the flags. -/
def Fop.eval (t : FFmt) (op : Fop) (rm a b c : Nat) : Nat × Nat :=
  let u := t.unpack
  let top := 2 ^ (t.width - 1)
  match op with
  | .add => t.add rm (u a) (u b)
  | .sub => t.add rm (u a) (u b).opp
  | .mul => t.mul rm (u a) (u b)
  | .div => t.div rm (u a) (u b)
  | .sqrt => t.sqrt rm (u a)
  | .madd => t.fma rm (u a) (u b) (u c)
  | .msub => t.fma rm (u a) (u b) (u c).opp
  | .nmsub => t.fma rm (u a).opp (u b) (u c)
  | .nmadd => t.fma rm (u a).opp (u b) (u c).opp
  | .sgnj => (a % top + b / top * top, 0)
  | .sgnjn => (a % top + (1 - b / top) * top, 0)
  | .sgnjx => (a % top + (a / top + b / top) % 2 * top, 0)
  | .min => t.minmax false a b
  | .max => t.minmax true a b

/-- A floating-point instruction on registers of core `h`; none where it is none, since frm holds no rounding mode. -/
def Hart.float (h : Hart) (i : Rv) : Option Hart :=
  let long := fun (l : Bool) => if l then 64 else 32
  match i with
  | .fop op d rm rd a b c => (h.rounding rm).map fun r =>
    let v := op.eval (fmtOf d) r (h.fval d a) (h.fval d b) (h.fval d c)
    (h.putF d rd v.1).flags v.2
  | .fcmp op d rd a b =>
    let v := fcompare op ((fmtOf d).unpack (h.fval d a)) ((fmtOf d).unpack (h.fval d b))
    some ((h.setX rd (BitVec.ofNat 64 (b2n v.1))).flags v.2)
  | .fclass d rd a => some (h.setX rd (BitVec.ofNat 64 ((fmtOf d).classOf (h.fval d a))))
  | .ftoi d l u rm rd a => (h.rounding rm).map fun r =>
    let v := ftoInt r (long l) (!u) ((fmtOf d).unpack (h.fval d a))
    (h.setX rd (if l then BitVec.ofInt 64 v.1 else sext32 (BitVec.ofInt 32 v.1))).flags v.2
  | .itof d l u rm rd a => (h.rounding rm).map fun r =>
    let x := h.x a
    let n : Int := match l, u with
      | true, true => x.toNat
      | true, false => x.toInt
      | false, true => (x.setWidth 32).toNat
      | false, false => (x.setWidth 32).toInt
    let v := (fmtOf d).ofInt r n
    (h.putF d rd v.1).flags v.2
  | .ftof d rm rd a => (h.rounding rm).map fun r =>
    let v := (fmtOf d).ofVal r ((fmtOf !d).unpack (h.fval (!d) a))
    (h.putF d rd v.1).flags v.2
  | .fmvX d rd a => some (h.setX rd (if d then h.f a else sext32 ((h.f a).setWidth 32)))
  | .fmvF d rd a => some (h.putF d rd (h.x a).toNat)
  | _ => none

/-- A read-modify-write of CSR `n`: 1 write, 2 set, 3 clear. Reading a value and writing none is no write. -/
def State.coreCsr (s : State) (k op : Nat) (imm : Bool) (rd src n : Nat) : Attempt Onward :=
  let h := s.chip.hart k
  let writes := decide (op = 1) || decide (src ≠ 0)
  let v := if imm then src else (h.x src).toNat
  let old := s.chip.csrOld k n
  if !h.csrOk n writes then (s, .error 2) else
  match s.chip.csrRead k n with
  | none => (s, .error 2)
  | some r =>
    let new := match op with
      | 1 => v
      | 2 => Nat.lor old v
      | _ => Nat.land old (2 ^ 64 - 1 - v)
    (s.setHart k fun h => (if writes then h.csrWrite n new else h).setX rd (BitVec.ofNat 64 r)).went

/-- WFI (R348): the core waits, unless an interrupt is pending and enabled; a source that was held is then delivered (R330). -/
def Chip.coreWait (c : Chip) (k : Nat) : Chip := ((c.wrBit F.SUP_STATUS_IDLE k true).coreWake k).intEval

/-- Drop what the TLB holds for an address, an ASID, both or all; entries of every address space stay when one ASID is named. -/
def Hart.fenceTlb (h : Hart) (va asid : Option Nat) : Hart :=
  { h with tlb := h.tlb.filter fun e =>
    (match va with
      | none => false
      | some a => e.vpn ≠ a / 2 ^ (12 + 9 * e.level)) ||
    (match asid with
      | none => false
      | some x => bit e.pte 5 || e.asid ≠ x % 2 ^ 16) }

/-- Core `k` carries out an instruction at `pc` of `len` bytes. An exception is given by its cause. -/
def State.carry (s : State) (k : Fin 4) (i : Rv) (pc : Xword) (len : Nat) : Attempt Onward :=
  let h := s.chip.hart k
  let link := pc + BitVec.ofNat 64 len
  let put := fun (s : State) (r : Nat) (v : Xword) => (s.putX k r v).went
  let ext := fun (n : Nat) (v : Nat) => BitVec.ofInt 64 (toS (8 * n) v)
  let float := bits (h.csr 0x300) 13 2 ≠ 0
  match i with
  | .lui rd imm => put s rd imm
  | .auipc rd imm => put s rd (pc + imm)
  | .jal rd imm => (s.putX k rd link, .ok (.jump (pc + imm)))
  | .jalr rd a imm => (s.putX k rd link, .ok (.jump ((h.x a + imm) &&& ~~~1#64)))
  | .branch cond a b imm => (s, .ok (if branchTaken cond (h.x a) (h.x b) then .jump (pc + imm) else .next))
  | .load z u rd a imm =>
    (s.coreLoad k (h.x a + imm).toNat (2 ^ z)).then fun s v => put s rd (if u then BitVec.ofNat 64 v else ext (2 ^ z) v)
  | .store z a b imm => (s.coreStore k (h.x a + imm).toNat (2 ^ z) (h.x b).toNat).then fun s _ => s.went
  | .opImm op d rd a imm => put s rd (op.run d (h.x a) imm)
  | .op op d rd a b => put s rd (op.run d (h.x a) (h.x b))
  | .fence => s.went
  | .fenceI => (s.setHart k fun h => { h with icache := [] }).went
  | .ecall => (s, .error (8 + h.mode.num))
  | .ebreak => (s, .error 3)
  | .mret =>
    if h.mode ≠ .machine then (s, .error 2)
    else (s.setHart k Hart.mret, .ok (.jump h.mret.pc))
  | .sret =>
    if h.mode = .user ∨ (h.mode = .supervisor ∧ h.status 22) then (s, .error 2)
    else (s.setHart k Hart.sret, .ok (.jump h.sret.pc))
  | .wfi =>
    if h.mode = .user ∨ (h.mode = .supervisor ∧ h.status 21) then (s, .error 2)
    else ({ s with chip := s.chip.coreWait k }).went
  | .sfence a b =>
    if h.mode = .user ∨ (h.mode = .supervisor ∧ h.status 20) then (s, .error 2)
    else
      let arg := fun r : Nat => if r = 0 then none else some (h.x r).toNat
      (s.setHart k fun h => h.fenceTlb (arg a) (arg b)).went
  | .csr op imm rd src n => s.coreCsr k op imm rd src n
  | .lr z rd a => (s.coreLr k (h.x a).toNat (2 ^ z)).then fun s v => put s rd (ext (2 ^ z) v)
  | .sc z rd a b => (s.coreSc k (h.x a).toNat (2 ^ z) (h.x b).toNat).then fun s v => put s rd (BitVec.ofNat 64 v)
  | .amo op z rd a b =>
    let g := fun m : Nat => if z = 3 then (op.eval (BitVec.ofNat 64 m) (h.x b)).toNat
      else (op.eval (BitVec.ofNat 32 m) ((h.x b).setWidth 32)).toNat
    (s.coreAmo k (h.x a).toNat (2 ^ z) g).then fun s v => put s rd (ext (2 ^ z) v)
  | .fload z rd a imm =>
    if !float then (s, .error 2) else
    (s.coreLoad k (h.x a + imm).toNat (2 ^ z)).then fun s v => (s.setHart k fun h => h.putF (z = 3) rd v).went
  | .fstore z a b imm =>
    if !float then (s, .error 2) else
    (s.coreStore k (h.x a + imm).toNat (2 ^ z) (h.f b).toNat).then fun s _ => s.went
  | i =>
    if !float then (s, .error 2) else
    match h.float i with
    | none => (s, .error 2)
    | some n => (s.setHart k fun _ => n).went

/-- The address or the encoding that an exception reports in mtval or stval (DESIGN CHOICE, log 117). -/
def Hart.tval (h : Hart) (i : Rv) (pc : Xword) (enc cause : Nat) : Nat :=
  match i with
  | .load _ _ _ a imm => (h.x a + imm).toNat
  | .store _ a _ imm => (h.x a + imm).toNat
  | .lr _ _ a => (h.x a).toNat
  | .sc _ _ a _ => (h.x a).toNat
  | .amo _ _ _ a _ => (h.x a).toNat
  | .fload _ _ a imm => if cause = 2 then enc else (h.x a + imm).toNat
  | .fstore _ a _ imm => if cause = 2 then enc else (h.x a + imm).toNat
  | .ebreak => pc.toNat
  | .ecall => 0
  | _ => enc

/-! ## Branch prediction and the wrong path (R335, R347) -/

/-- Whether a register is a link register. -/
def isLink (r : Nat) : Bool := r = 1 || r = 5

/-- Where the predictor takes the instruction at `pc` to go: a branch by its history, a return by the stack, another jump by the
target buffer, to the next instruction when that has no entry. -/
def Hart.predict (h : Hart) (i : Rv) (pc len : Nat) : Nat :=
  let next := (pc + len) % 2 ^ 64
  let btb := (h.btb.find (Config.btbSlot pc)).getD next
  match i with
  | .branch _ _ _ imm =>
    if Config.bhtTakes (SMap.get 0 h.bht (Config.bhtSlot pc)) then (BitVec.ofNat 64 pc + imm).toNat else next
  | .jal _ _ => btb
  | .jalr rd a _ => if !isLink rd && isLink a then h.ras.headD btb else btb
  | _ => next

/-- The predictor learns where the instruction went. -/
def Hart.learn (h : Hart) (i : Rv) (pc len dest : Nat) : Hart :=
  let next := (pc + len) % 2 ^ 64
  let push := fun (h : Hart) (rd : Nat) => if isLink rd then { h with ras := (next :: h.ras).take 8 } else h
  match i with
  | .branch _ _ _ _ =>
    { h with bht := SMap.put 0 h.bht (Config.bhtSlot pc) (Config.bhtNext (SMap.get 0 h.bht (Config.bhtSlot pc)) (dest ≠ next)) }
  | .jal rd _ => push { h with btb := SMap.insert (Config.btbSlot pc) dest h.btb } rd
  | .jalr rd a _ =>
    if !isLink rd && isLink a then { h with ras := h.ras.drop 1 } else push { h with btb := SMap.insert (Config.btbSlot pc) dest h.btb } rd
  | _ => h

/-- The instruction of an encoding, its length in bytes, and the encoding. -/
def decodeAt (lo hi : Nat) : Option Rv × Nat × Nat :=
  if lo % 4 = 3 then (decode32 (lo + hi * 2 ^ 16), 4, lo + hi * 2 ^ 16) else (decode16 lo, 2, lo)

/-- At most `n` instructions of the wrong path from `pc`: it may fill the instruction cache, and answers how many it fetched. -/
def State.wrongPath (s : State) (k pc : Nat) : Nat → State × Nat
  | 0 => (s, 0)
  | n + 1 =>
    match s.wrongParcel k pc with
    | none => (s, 0)
    | some (s, lo) =>
      match if lo % 4 = 3 then s.wrongParcel k (pc + 2) else some (s, 0) with
      | none => (s, 0)
      | some (s, hi) =>
        let d := decodeAt lo hi
        let dest := match d.1 with
          | none => pc + d.2.1
          | some i => (s.chip.hart k).predict i pc d.2.1
        let r := s.wrongPath k dest n
        (r.1, r.2 + 1)

/-- A misprediction: up to eight instructions are fetched on the wrong path and discarded; how many is left open. -/
def State.mispredict (s : State) (k pc : Nat) : State :=
  let n := s.chip.free % 9
  let r := s.drawn.wrongPath k pc n
  r.1.setHart k fun h => (h.event 4 1).event 1 r.2

/-! ## The step of a core -/

/-- Core `k` traps. -/
def State.trapTo (s : State) (k : Nat) (irq : Bool) (cause tval : Nat) : State := s.setHart k fun h => h.trap irq cause tval

/-- An instruction at `pc` is retired, and the core goes on at `dest` (R349, R350). Whether two were issued together is left open; what
an instruction writes to minstret stands. -/
def State.retire (s : State) (k : Nat) (i : Rv) (pc dest : Xword) : State :=
  let f := s.chip.free
  let own := match i with
    | .csr op _ _ src n => decide (n = 0xB02) && (op = 1 || src ≠ 0)
    | _ => false
  let s := (s.setHart k fun h => { (if own then h else h.count 2 1).event 5 (f % 2) with pc := dest }).drawn
  { s with chip := s.chip.wr (F.SUP_PC_PC k) pc.toNat }

/-- Whether an instruction is predicted. -/
def Rv.jumps : Rv → Bool
  | .branch _ _ _ _ => true
  | .jal _ _ => true
  | .jalr _ _ _ => true
  | _ => false

/-- Where the core goes on after an instruction that is followed by the one at `next`. -/
def Onward.target (o : Onward) (next : Xword) : Xword :=
  match o with
  | .next => next
  | .jump t => t

/-- A predicted instruction of core `k` went `dest`: it may have been mispredicted, and the predictor learns. -/
def State.resolve (s : State) (k : Nat) (i : Rv) (pc len guess dest : Nat) : State :=
  if i.jumps then (if guess = dest then s else s.mispredict k guess).setHart k fun h => h.learn i pc len dest else s

/-- Core `k` executes this instruction at its pc: it is retired, or traps. -/
def State.runInstr (s : State) (k : Fin 4) (i : Rv) (len enc : Nat) : State :=
  let h := s.chip.hart k
  let pc := h.pc
  let guess := h.predict i pc.toNat len
  let r := s.carry k i pc len
  match r.2 with
  | .error e => r.1.trapTo k false e (h.tval i pc enc e)
  | .ok o =>
    let dest := o.target (pc + BitVec.ofNat 64 len)
    (r.1.resolve k i pc.toNat len guess dest.toNat).retire k i pc dest

/-- The upper 16 bits of an encoding that starts with `lo`, if it has any. -/
def State.fetchTail (s : State) (k pc lo : Nat) : Attempt Nat :=
  if lo % 4 = 3 then s.fetchParcel k ((pc + 2) % 2 ^ 64) else (s, .ok 0)

/-- Core `k` fetches the instruction at its pc and executes it. -/
def State.coreInstr (s : State) (k : Fin 4) : State :=
  let pc := (s.chip.hart k).pc.toNat
  let r := s.fetchParcel k pc
  match r.2 with
  | .error e => r.1.trapTo k false e pc
  | .ok lo =>
    let q := r.1.fetchTail k pc lo
    match q.2 with
    | .error e => q.1.trapTo k false e ((pc + 2) % 2 ^ 64)
    | .ok hi =>
      match decodeAt lo hi with
      | (none, _, enc) => q.1.trapTo k false 2 enc
      | (some i, len, enc) => q.1.runInstr k i len enc

/-- Whether core `k` may execute now: the board die runs, its memories are ready, it is released, and does not wait (DESIGN CHOICE, log 35). -/
def Chip.coreGoes (c : Chip) (k : Nat) : Bool := c.running && c.on F.SUP_STATUS_INIT_DONE && c.coreRuns k

/-- Core `k` in one cycle: mcycle, the wake from WFI, an interrupt that it takes, or one instruction (DESIGN CHOICE, log 35). -/
def State.coreStep (s : State) (k : Fin 4) : State :=
  if !s.chip.running || !s.chip.rdBit F.SUP_CTRL_RUN k then s else
  let s := { s with chip := (s.chip.countCycles k).when (s.chip.rdBit F.SUP_STATUS_IDLE k) fun c => c.coreWake k }
  if !s.chip.coreGoes k then s else
  match s.chip.hartIrq k with
  | some n => (s.setHart k fun h => h.event 7 1).trapTo k true n 0
  | none => s.coreInstr k

/-! ## Commands about a core's instruction -/

/-- CORE_WFI (R348): the core executes WFI at its pc: the command gives the instruction that it fetches (DESIGN CHOICE, log 35). -/
def execCoreWfi (core : Fin 4) (s : State) : Host.Outcome State Fault Refusal :=
  .next (if s.chip.coreGoes core then s.runInstr core .wfi 4 0x10500073 else s)

/-- An uncorrectable error that core `k` meets with its next instruction (R341); one that this does not meet is recorded with a free
address (DESIGN CHOICE, log 122). -/
def State.meetBad (s : State) (k : Fin 4) (m : CoreMem) : State :=
  let t := (s.setHart k fun h => { h with bad := some m }).coreInstr k
  if s.chip.coreGoes k ∧ (t.chip.hart k).bad = none then t
  else { s with chip := (s.chip.memBad k m 4 (s.chip.free % if m = .tcm then 2 ^ 16 else 2 ^ 20)).tick }

/-- A parity error in a cache of core `k` (R341): the line is refilled, so an instruction line is no longer stale. -/
def State.cacheParity (s : State) (k : Nat) (data : Bool) : State :=
  let a := s.chip.free % 2 ^ 14
  let line := (SMap.find (s.chip.hart k).icache (a / 64)).map Prod.fst
  let c := ((s.chip.inc (F.SUP_ERR_PARITY k)).faultPulse
    { src := 418 + k, cause := if data then 3 else 2, master := 9 + k, access := if data then 4 else 3, addr := some a }).tick
  let s := { s with chip := c }
  match if data then none else line with
  | none => s
  | some l => s.setHart k fun h => { h with
      icache := SMap.insert (a / 64) (l, memRead s.mem (0x2000000 + 64 * l) 64) h.icache }

/-- SUP_ECC_ERROR (R341) that core `core` meets: 0 = corrected, 1 = uncorrectable in TCM, 2 = uncorrectable in SRAM, 3 = parity in the
instruction cache, 4 = parity in the data cache. -/
def execSupEccError (core : Fin 4) (kind : Fin 5) (s : State) : Host.Outcome State Fault Refusal :=
  .next (if !s.chip.running then s else
    match kind.val with
    | 0 => { s with chip := (s.chip.inc (F.SUP_ERR_CORRECTED core)).setHart core fun h => h.event 8 1 }
    | 1 => s.meetBad core .tcm
    | 2 => s.meetBad core .sram
    | 3 => s.cacheParity core false
    | _ => s.cacheParity core true)

end Sys2Proof.Machine
end

