-- ==== Sys2Proof/Machine/Tick.lean ====
section
/-!
DEFINITION. What time does when no command waits: one cycle of AIR and of ZM_CORE, which tick at the same rate (R62, R63, R226), and
one step of each supervisor core.
-/

namespace Sys2Proof.Machine

/-- One cycle with nothing commanded: ZT counts, AT advances, and Chain Link moves what waits. In reset only the ZMD runs; in deep
sleep it and AIR do (R422, R428). -/
def Chip.cycle (c : Chip) : Chip :=
  let c := c.when c.zmd.mem.run fun c => c.setZm fun m => { m with zt := m.zt + 1 }
  if c.inReset then c else if c.asleep then c.airCycle else
  let d := c.airCycle
  d.when (d.air.mono ≠ c.air.mono) Chip.chlTick

/-- The block idles for one cycle; each core that executes does so. -/
def State.idle (s : State) : State := [0, 1, 2, 3].foldl State.coreStep { s with chip := s.chip.cycle }

end Sys2Proof.Machine
end

