-- ==== Sys2Proof/Machine/Dispatch.lean ====
section
/-!
DEFINITION. The dispatch: one arm per command.
-/

namespace Sys2Proof.Machine

/-- The effect of a command on everything but the queue. -/
def exec (i : Instr) (s : State) : Host.Outcome State Fault Refusal :=
  match i with
  | .registerWrite q addr half value => Sys2Proof.Machine.execRegisterWrite q addr half value s
  | .accessSizeFault q addr isWrite => Sys2Proof.Machine.execAccessSizeFault q addr isWrite s
  | .rcRead q addr half => Sys2Proof.Machine.execRcRead q addr half s
  | .stageWrite q addr half value => Sys2Proof.Machine.execStageWrite q addr half value s
  | .sampleFlitCrcFail die toBoard lane => Sys2Proof.Machine.execSampleFlitCrcFail die toBoard lane s
  | .controlFlitCrcFail die toBoard resent => Sys2Proof.Machine.execControlFlitCrcFail die toBoard resent s
  | .controlFlitRetransmit die => Sys2Proof.Machine.execControlFlitRetransmit die s
  | .bridgeLoss die cause => Sys2Proof.Machine.execBridgeLoss die cause s
  | .bridgeTrainStart die => Sys2Proof.Machine.execBridgeTrainStart die s
  | .bridgeUp die => Sys2Proof.Machine.execBridgeUp die s
  | .bridgeTrainTimeout die => Sys2Proof.Machine.execBridgeTrainTimeout die s
  | .bridgeMuteClear sq => Sys2Proof.Machine.execBridgeMuteClear sq s
  | .powerSumUpdate => Sys2Proof.Machine.execPowerSumUpdate s
  | .imgStart q => Sys2Proof.Machine.execImgStart q s
  | .imgAbort q => Sys2Proof.Machine.execImgAbort q s
  | .imgClear q => Sys2Proof.Machine.execImgClear q s
  | .clearEraseDone => Sys2Proof.Machine.execClearEraseDone s
  | .hashReq q => Sys2Proof.Machine.execHashReq q s
  | .hashDone => Sys2Proof.Machine.execHashDone s
  | .imgPortWrite q half value => Sys2Proof.Machine.execImgPortWrite q half value s
  | .flashBurstDone words => Sys2Proof.Machine.execFlashBurstDone words s
  | .imageWriteHeader => Sys2Proof.Machine.execImageWriteHeader s
  | .imageDataWord => Sys2Proof.Machine.execImageDataWord s
  | .imageEndRecord => Sys2Proof.Machine.execImageEndRecord s
  | .imageBadHeader => Sys2Proof.Machine.execImageBadHeader s
  | .flashRangeExhausted => Sys2Proof.Machine.execFlashRangeExhausted s
  | .resolutionDone => Sys2Proof.Machine.execResolutionDone s
  | .structDataRead q half => Sys2Proof.Machine.execStructDataRead q half s
  | .tempoBoundary => Sys2Proof.Machine.execTempoBoundary s
  | .epochRollover => Sys2Proof.Machine.execEpochRollover s
  | .airEpochWrite q value => Sys2Proof.Machine.execAirEpochWrite q value s
  | .airCtrlWrite q half value => Sys2Proof.Machine.execAirCtrlWrite q half value s
  | .airRestart q => Sys2Proof.Machine.execAirRestart q s
  | .cellDetection corr pci pbchOk pos => Sys2Proof.Machine.execCellDetection corr pci pbchOk pos s
  | .ppsEdge rising => Sys2Proof.Machine.execPpsEdge rising s
  | .syncEdge rising => Sys2Proof.Machine.execSyncEdge rising s
  | .atStep => Sys2Proof.Machine.execAtStep s
  | .coastTimeout => Sys2Proof.Machine.execCoastTimeout s
  | .holdTimeout => Sys2Proof.Machine.execHoldTimeout s
  | .holdoverTimeout => Sys2Proof.Machine.execHoldoverTimeout s
  | .holdRelease => Sys2Proof.Machine.execHoldRelease s
  | .schedArm q entry value => Sys2Proof.Machine.execSchedArm q entry value s
  | .schedDisarm q entry value => Sys2Proof.Machine.execSchedDisarm q entry value s
  | .schedTake entry => Sys2Proof.Machine.execSchedTake entry s
  | .trFire => Sys2Proof.Machine.execTrFire s
  | .dirFire => Sys2Proof.Machine.execDirFire s
  | .planFire => Sys2Proof.Machine.execPlanFire s
  | .calFire => Sys2Proof.Machine.execCalFire s
  | .captureFire => Sys2Proof.Machine.execCaptureFire s
  | .pwmfFire => Sys2Proof.Machine.execPwmfFire s
  | .markFire => Sys2Proof.Machine.execMarkFire s
  | .timingOutputRise sync => Sys2Proof.Machine.execTimingOutputRise sync s
  | .timingOutputFall sync => Sys2Proof.Machine.execTimingOutputFall sync s
  | .airAtRead q half => Sys2Proof.Machine.execAirAtRead q half s
  | .cnvPowerEnWrite q die on => Sys2Proof.Machine.execCnvPowerEnWrite q die on s
  | .cnvRecal q die => Sys2Proof.Machine.execCnvRecal q die s
  | .cnvStatusRefresh die overloads => Sys2Proof.Machine.execCnvStatusRefresh die overloads s
  | .ckmLock die => Sys2Proof.Machine.execCkmLock die s
  | .cnvClockingDone die => Sys2Proof.Machine.execCnvClockingDone die s
  | .ckmFail die => Sys2Proof.Machine.execCkmFail die s
  | .ckmUnlock die => Sys2Proof.Machine.execCkmUnlock die s
  | .startcalPhaseDone die results => Sys2Proof.Machine.execStartcalPhaseDone die results s
  | .synWrite q die syn half value => Sys2Proof.Machine.execSynWrite q die syn half value s
  | .synLock die syn => Sys2Proof.Machine.execSynLock die syn s
  | .synUnlock die syn => Sys2Proof.Machine.execSynUnlock die syn s
  | .synBlankEnd die syn => Sys2Proof.Machine.execSynBlankEnd die syn s
  | .cnvLaneWrite q die lane half value => Sys2Proof.Machine.execCnvLaneWrite q die lane half value s
  | .laneOnline die lane => Sys2Proof.Machine.execLaneOnline die lane s
  | .calStepStart die => Sys2Proof.Machine.execCalStepStart die s
  | .calStepDone die results => Sys2Proof.Machine.execCalStepDone die results s
  | .calApply die => Sys2Proof.Machine.execCalApply die s
  | .calWindowClose die => Sys2Proof.Machine.execCalWindowClose die s
  | .skewBandSwitch die => Sys2Proof.Machine.execSkewBandSwitch die s
  | .trForceHigh q half value => Sys2Proof.Machine.execTrForceHigh q half value s
  | .trForceLow q half value => Sys2Proof.Machine.execTrForceLow q half value s
  | .rffeRegister0Write q m usid data => Sys2Proof.Machine.execRffeRegister0Write q m usid data s
  | .rffeRegisterWrite q m usid addr data => Sys2Proof.Machine.execRffeRegisterWrite q m usid addr data s
  | .rffeRegisterRead q m usid addr => Sys2Proof.Machine.execRffeRegisterRead q m usid addr s
  | .rffeExtendedWrite q m usid addr bytes data => Sys2Proof.Machine.execRffeExtendedWrite q m usid addr bytes data s
  | .rffeExtendedRead q m usid addr bytes => Sys2Proof.Machine.execRffeExtendedRead q m usid addr bytes s
  | .rffeExtendedWriteLong q m usid addr bytes data => Sys2Proof.Machine.execRffeExtendedWriteLong q m usid addr bytes data s
  | .rffeExtendedReadLong q m usid addr bytes => Sys2Proof.Machine.execRffeExtendedReadLong q m usid addr bytes s
  | .rffeFrameDone m error data => Sys2Proof.Machine.execRffeFrameDone m error data s
  | .rffeResultRead q m half => Sys2Proof.Machine.execRffeResultRead q m half s
  | .sqCoefWrite q sq half value => Sys2Proof.Machine.execSqCoefWrite q sq half value s
  | .sqCoefRead q sq half => Sys2Proof.Machine.execSqCoefRead q sq half s
  | .coarseBlock sq donor service => Sys2Proof.Machine.execCoarseBlock sq donor service s
  | .fillDone sq => Sys2Proof.Machine.execFillDone sq s
  | .rampEnd sq => Sys2Proof.Machine.execRampEnd sq s
  | .unmuteStart sq => Sys2Proof.Machine.execUnmuteStart sq s
  | .placementMute sq => Sys2Proof.Machine.execPlacementMute sq s
  | .squareParityError sq inCoef => Sys2Proof.Machine.execSquareParityError sq inCoef s
  | .ecCoefWrite q sq half value => Sys2Proof.Machine.execEcCoefWrite q sq half value s
  | .ecCoefRead q sq half => Sys2Proof.Machine.execEcCoefRead q sq half s
  | .estimatePublish sq => Sys2Proof.Machine.execEstimatePublish sq s
  | .stabilityFaultClear sq => Sys2Proof.Machine.execStabilityFaultClear sq s
  | .muBandSwitch sq => Sys2Proof.Machine.execMuBandSwitch sq s
  | .deadline rank => Sys2Proof.Machine.execDeadline rank s
  | .outerStep rank => Sys2Proof.Machine.execOuterStep rank s
  | .rkEccCorrected rank => Sys2Proof.Machine.execRkEccCorrected rank s
  | .rkMemoryError rank inMatrix => Sys2Proof.Machine.execRkMemoryError rank inMatrix s
  | .arrayFault rank => Sys2Proof.Machine.execArrayFault rank s
  | .rankFaultClear rank => Sys2Proof.Machine.execRankFaultClear rank s
  | .matrixWrite q rank sub w2 half value => Sys2Proof.Machine.execMatrixWrite q rank sub w2 half value s
  | .oscillationClear sq => Sys2Proof.Machine.execOscillationClear sq s
  | .noiseRiseRelease => Sys2Proof.Machine.execNoiseRiseRelease s
  | .permitReport die present => Sys2Proof.Machine.execPermitReport die present s
  | .permitMuteRelease die => Sys2Proof.Machine.execPermitMuteRelease die s
  | .protectNLow => Sys2Proof.Machine.execProtectNLow s
  | .protectNHigh => Sys2Proof.Machine.execProtectNHigh s
  | .pinAck q => Sys2Proof.Machine.execPinAck q s
  | .pinStopRelease => Sys2Proof.Machine.execPinStopRelease s
  | .mailboxWrite q f w half value => Sys2Proof.Machine.execMailboxWrite q f w half value s
  | .mailboxGo q f => Sys2Proof.Machine.execMailboxGo q f s
  | .verifyStart => Sys2Proof.Machine.execVerifyStart s
  | .resign => Sys2Proof.Machine.execResign s
  | .resume => Sys2Proof.Machine.execResume s
  | .stopRelease => Sys2Proof.Machine.execStopRelease s
  | .planCommit q planId discard => Sys2Proof.Machine.execPlanCommit q planId discard s
  | .planCommitSched q planId discard => Sys2Proof.Machine.execPlanCommitSched q planId discard s
  | .planDiscard q => Sys2Proof.Machine.execPlanDiscard q s
  | .planRelease q ctx => Sys2Proof.Machine.execPlanRelease q ctx s
  | .planApply ctx => Sys2Proof.Machine.execPlanApply ctx s
  | .zmdReset => Sys2Proof.Machine.execZmdReset s
  | .zmdStartDone otpOk found monOk calen => Sys2Proof.Machine.execZmdStartDone otpOk found monOk calen s
  | .clockFault => Sys2Proof.Machine.execClockFault s
  | .zmdRestart => Sys2Proof.Machine.execZmdRestart s
  | .referenceCheck input corr => Sys2Proof.Machine.execReferenceCheck input corr s
  | .dwellEnd input blocks above ok => Sys2Proof.Machine.execDwellEnd input blocks above ok s
  | .reportPeriodEnd => Sys2Proof.Machine.execReportPeriodEnd s
  | .reportSigned => Sys2Proof.Machine.execReportSigned s
  | .guardDecision blocks => Sys2Proof.Machine.execGuardDecision blocks s
  | .guardHoldEnd ceiling => Sys2Proof.Machine.execGuardHoldEnd ceiling s
  | .guardHoldReset => Sys2Proof.Machine.execGuardHoldReset s
  | .getId tag len => Sys2Proof.Machine.execGetId tag len s
  | .getStatus tag len => Sys2Proof.Machine.execGetStatus tag len s
  | .getReport tag payload => Sys2Proof.Machine.execGetReport tag payload s
  | .setWindows tag input recs => Sys2Proof.Machine.execSetWindows tag input recs s
  | .setTiming tag period dwell => Sys2Proof.Machine.execSetTiming tag period dwell s
  | .setNonce tag payload => Sys2Proof.Machine.execSetNonce tag payload s
  | .getGuard tag len => Sys2Proof.Machine.execGetGuard tag len s
  | .calWrite tag offset data => Sys2Proof.Machine.execCalWrite tag offset data s
  | .calLock tag len outcome => Sys2Proof.Machine.execCalLock tag len outcome s
  | .unknownCmd cmd tag => Sys2Proof.Machine.execUnknownCmd cmd tag s
  | .mirrorStatusFrame ok temp => Sys2Proof.Machine.execMirrorStatusFrame ok temp s
  | .mirrorReportFrame ok last => Sys2Proof.Machine.execMirrorReportFrame ok last s
  | .mirrorIdentityFrame ok => Sys2Proof.Machine.execMirrorIdentityFrame ok s
  | .mirrorLinkTimeout => Sys2Proof.Machine.execMirrorLinkTimeout s
  | .periodEnd ch => Sys2Proof.Machine.execPeriodEnd ch s
  | .cbcTrip ch t mv => Sys2Proof.Machine.execCbcTrip ch t mv s
  | .hardTrip levels => Sys2Proof.Machine.execHardTrip levels s
  | .softstartDone ch => Sys2Proof.Machine.execSoftstartDone ch s
  | .hiccupEnd ch => Sys2Proof.Machine.execHiccupEnd ch s
  | .pwmEnable q mask => Sys2Proof.Machine.execPwmEnable q mask s
  | .pwmDisable q mask => Sys2Proof.Machine.execPwmDisable q mask s
  | .hkRoundStart => Sys2Proof.Machine.execHkRoundStart s
  | .hkResult conv sum sum2 clips => Sys2Proof.Machine.execHkResult conv sum sum2 clips s
  | .hkRefEnWrite q on => Sys2Proof.Machine.execHkRefEnWrite q on s
  | .hkRefReady => Sys2Proof.Machine.execHkRefReady s
  | .hkCal q conv => Sys2Proof.Machine.execHkCal q conv s
  | .hkCalDone conv offset gain => Sys2Proof.Machine.execHkCalDone conv offset gain s
  | .hkFlush q => Sys2Proof.Machine.execHkFlush q s
  | .hkQueueRead q half => Sys2Proof.Machine.execHkQueueRead q half s
  | .thermalShutdown die => Sys2Proof.Machine.execThermalShutdown die s
  | .thermalRelease die => Sys2Proof.Machine.execThermalRelease die s
  | .faultEvent src cause master access addr => Sys2Proof.Machine.execFaultEvent src cause master access addr s
  | .pairFault src => Sys2Proof.Machine.execPairFault src s
  | .pairFaultEnd src => Sys2Proof.Machine.execPairFaultEnd src s
  | .faultWindowClose src => Sys2Proof.Machine.execFaultWindowClose src s
  | .faultPendingClear q j value => Sys2Proof.Machine.execFaultPendingClear q j value s
  | .severeClear q j value => Sys2Proof.Machine.execSevereClear q j value s
  | .severeHoldRelease => Sys2Proof.Machine.execSevereHoldRelease s
  | .datapathFaultClear src => Sys2Proof.Machine.execDatapathFaultClear src s
  | .wingParityError wing combiner => Sys2Proof.Machine.execWingParityError wing combiner s
  | .firstRearm q => Sys2Proof.Machine.execFirstRearm q s
  | .injectRelease q => Sys2Proof.Machine.execInjectRelease q s
  | .injectEvent q src => Sys2Proof.Machine.execInjectEvent q src s
  | .injectHoldLow q src => Sys2Proof.Machine.execInjectHoldLow q src s
  | .injectHoldHigh q src => Sys2Proof.Machine.execInjectHoldHigh q src s
  | .bbRecordWrite => Sys2Proof.Machine.execBbRecordWrite s
  | .fltFreeze q => Sys2Proof.Machine.execFltFreeze q s
  | .atBeacon => Sys2Proof.Machine.execAtBeacon s
  | .bbReadRequest q index => Sys2Proof.Machine.execBbReadRequest q index s
  | .bbReadDone => Sys2Proof.Machine.execBbReadDone s
  | .bbAck q => Sys2Proof.Machine.execBbAck q s
  | .bbMark q value => Sys2Proof.Machine.execBbMark q value s
  | .faultNInitDone => Sys2Proof.Machine.execFaultNInitDone s
  | .intRequest n => Sys2Proof.Machine.execIntRequest n s
  | .intWithdraw n => Sys2Proof.Machine.execIntWithdraw n s
  | .intSetpend q n => Sys2Proof.Machine.execIntSetpend q n s
  | .intClrpend q n => Sys2Proof.Machine.execIntClrpend q n s
  | .intClaim q t => Sys2Proof.Machine.execIntClaim q t s
  | .intEoi q t n => Sys2Proof.Machine.execIntEoi q t n s
  | .intHeoi q f n => Sys2Proof.Machine.execIntHeoi q f n s
  | .msixIssue => Sys2Proof.Machine.execMsixIssue s
  | .coalesceTimeout t => Sys2Proof.Machine.execCoalesceTimeout t s
  | .intRouteWrite q n half value => Sys2Proof.Machine.execIntRouteWrite q n half value s
  | .coreRelease q core => Sys2Proof.Machine.execCoreRelease q core s
  | .coreHold q core => Sys2Proof.Machine.execCoreHold q core s
  | .supInitDone => Sys2Proof.Machine.execSupInitDone s
  | .mtimerExpire core => Sys2Proof.Machine.execMtimerExpire core s
  | .coreWfi core => Sys2Proof.Machine.execCoreWfi core s
  | .supEccError core kind => Sys2Proof.Machine.execSupEccError core kind s
  | .tenDenyWrite q value => Sys2Proof.Machine.execTenDenyWrite q value s
  | .assignRequest q sq func => Sys2Proof.Machine.execAssignRequest q sq func s
  | .assignApply => Sys2Proof.Machine.execAssignApply s
  | .quotaUpdate => Sys2Proof.Machine.execQuotaUpdate s
  | .vfFlr f => Sys2Proof.Machine.execVfFlr f s
  | .vfFlrDone f => Sys2Proof.Machine.execVfFlrDone f s
  | .flrWithdrawal f => Sys2Proof.Machine.execFlrWithdrawal f s
  | .pfFlr => Sys2Proof.Machine.execPfFlr s
  | .doorbell q f index => Sys2Proof.Machine.execDoorbell q f index s
  | .vc1Misuse f posted addr => Sys2Proof.Machine.execVc1Misuse f posted addr s
  | .dqTailWrite q eng queue tail => Sys2Proof.Machine.execDqTailWrite q eng queue tail s
  | .descriptorFetched eng ok bytes total => Sys2Proof.Machine.execDescriptorFetched eng ok bytes total s
  | .gatherFetched eng ok offset pages rest => Sys2Proof.Machine.execGatherFetched eng ok offset pages rest s
  | .elementStart eng => Sys2Proof.Machine.execElementStart eng s
  | .captureStartAt eng => Sys2Proof.Machine.execCaptureStartAt eng s
  | .snapshotDone eng => Sys2Proof.Machine.execSnapshotDone eng s
  | .recordWrite eng at0 lost behind bad samples => Sys2Proof.Machine.execRecordWrite eng at0 lost behind bad samples s
  | .writeAck => Sys2Proof.Machine.execWriteAck s
  | .capAbort q eng queue => Sys2Proof.Machine.execCapAbort q eng queue s
  | .capRestart q eng queue => Sys2Proof.Machine.execCapRestart q eng queue s
  | .creditAdd q f value => Sys2Proof.Machine.execCreditAdd q f value s
  | .cqHeadWrite q eng queue head => Sys2Proof.Machine.execCqHeadWrite q eng queue head s
  | .captureResume eng queue => Sys2Proof.Machine.execCaptureResume eng queue s
  | .chlEnWrite q port on => Sys2Proof.Machine.execChlEnWrite q port on s
  | .linkUp port => Sys2Proof.Machine.execLinkUp port s
  | .trainTimeout port => Sys2Proof.Machine.execTrainTimeout port s
  | .linkLoss port align => Sys2Proof.Machine.execLinkLoss port align s
  | .stopFrameRx port seq kind func counter devId hash => Sys2Proof.Machine.execStopFrameRx port seq kind func counter devId hash s
  | .messageRx port seq blocks => Sys2Proof.Machine.execMessageRx port seq blocks s
  | .resumeRx port seq words => Sys2Proof.Machine.execResumeRx port seq words s
  | .timingRx port t1 state hops devId t2 => Sys2Proof.Machine.execTimingRx port t1 state hops devId t2 s
  | .delayReqRx port t4 => Sys2Proof.Machine.execDelayReqRx port t4 s
  | .delayRespRx port t4 => Sys2Proof.Machine.execDelayRespRx port t4 s
  | .samplesRx port seq stream ul lane slotBw stamp words => Sys2Proof.Machine.execSamplesRx port seq stream ul lane slotBw stamp words s
  | .ackRx port control busy next => Sys2Proof.Machine.execAckRx port control busy next s
  | .initRx port master hops => Sys2Proof.Machine.execInitRx port master hops s
  | .retransmit port control => Sys2Proof.Machine.execRetransmit port control s
  | .timingTx port => Sys2Proof.Machine.execTimingTx port s
  | .delayReqTx port => Sys2Proof.Machine.execDelayReqTx port s
  | .samplesTx sq lane stamp back => Sys2Proof.Machine.execSamplesTx sq lane stamp back s
  | .alignTx port => Sys2Proof.Machine.execAlignTx port s
  | .initTx port => Sys2Proof.Machine.execInitTx port s
  | .send q port slot len => Sys2Proof.Machine.execSend q port slot len s
  | .cancel q port slot => Sys2Proof.Machine.execCancel q port slot s
  | .pop q port => Sys2Proof.Machine.execPop q port s
  | .lstopAck q => Sys2Proof.Machine.execLstopAck q s
  | .linkStopRelease => Sys2Proof.Machine.execLinkStopRelease s
  | .keyLoad q slot => Sys2Proof.Machine.execKeyLoad q slot s
  | .keyClear q slot => Sys2Proof.Machine.execKeyClear q slot s
  | .keyLock q slot => Sys2Proof.Machine.execKeyLock q slot s
  | .selftestDone katFail => Sys2Proof.Machine.execSelftestDone katFail s
  | .extest => Sys2Proof.Machine.execExtest s
  | .samplePreload pwmH pwmL others => Sys2Proof.Machine.execSamplePreload pwmH pwmL others s
  | .idcode => Sys2Proof.Machine.execIdcode s
  | .clamp => Sys2Proof.Machine.execClamp s
  | .highz => Sys2Proof.Machine.execHighz s
  | .bypass opcode => Sys2Proof.Machine.execBypass opcode s
  | .jtagStopRelease => Sys2Proof.Machine.execJtagStopRelease s
  | .railFail rail => Sys2Proof.Machine.execRailFail rail s
  | .railGood rail => Sys2Proof.Machine.execRailGood rail s
  | .coldReset => Sys2Proof.Machine.execColdReset s
  | .perstAssert => Sys2Proof.Machine.execPerstAssert s
  | .pwrRstWarm q key => Sys2Proof.Machine.execPwrRstWarm q key s
  | .resetRelease imgAuto vioHigh => Sys2Proof.Machine.execResetRelease imgAuto vioHigh s
  | .vbatLow => Sys2Proof.Machine.execVbatLow s
  | .retentionFlagClear => Sys2Proof.Machine.execRetentionFlagClear s
  | .sleepEnter q => Sys2Proof.Machine.execSleepEnter q s
  | .wake tlp n => Sys2Proof.Machine.execWake tlp n s
  | .meterPortCrcFail tag => Sys2Proof.Machine.execMeterPortCrcFail tag s
  | .chlFrameCrcErr port => Sys2Proof.Machine.execChlFrameCrcErr port s
  | .cmdReject => Sys2Proof.Machine.execCmdReject s

end Sys2Proof.Machine
end

