-- ==== Sys2Proof/Machine/Step.lean ====
section
/-!
DEFINITION. The step: the command at the front of the queue, or one idle cycle.
-/

namespace Sys2Proof.Machine

/-- One step (DESIGN CHOICE, notes/assumptions/1.md): the front command acts on the state with the rest of the queue; an empty queue
lets one cycle pass (DESIGN CHOICE, log 1). -/
def step (s : State) : Host.Outcome State Fault Refusal :=
  match s.pending with
  | [] => .next s.idle
  | c :: l => exec c { s with pending := l }

/-- The state with the command that a table word spells in front; no row of the table gives bits, so no word spells one. -/
def State.withFetchWord (s : State) (nbits w : Nat) : State :=
  match decodeTableWord nbits w with
  | none => s
  | some c => { s with pending := c :: s.pending }

end Sys2Proof.Machine
end

