-- ==== Sys2Proof/Machine/Pads.lean ====
section
/-!
DEFINITION. The balls (R437, R438, R440–R442): the rail of each, what biases it inside, and what is on it, in a reset of the board die,
without its rail, under the test access port (R418), and else as its block drives it.
-/

namespace Sys2Proof.Machine

/-- The balls that the package drives: TXDn and TXVn as lanes 0–15; TRD, TRS and SWB as outputs 0–47; the RFFE buses by master; PWMHxx and
PWMLxx; and the single ones. -/
inductive Ball where
  | tx (lane : Fin 16)
  | tr (k : Fin 48)
  | sclk (m : Fin 6)
  | sdata (m : Fin 6)
  | pwmH (i : Fin 16)
  | pwmL (i : Fin 16)
  | faultN | alertN | ppsOut | syncOut
  | xspiClk | xspiCsN | xspiDqs
  | xspiDq (k : Fin 8)
  | tdo | hkVref | mpTxd | mpEvtN
  deriving DecidableEq, Repr

/-- What is on a ball: driven high or low; undriven, with a weak pull or without; held by a bus keeper; the zero code of a DAC; the
reference voltage; what its interface sends. -/
inductive Pad where
  | high | low | pulledUp | pulledDown | undriven | kept | zeroCode | reference | sending
  deriving DecidableEq, Repr

/-- A ball driven to this level. -/
def Pad.ofBool (b : Bool) : Pad := if b then .high else .low

/-- The inputs that have an internal bias (R441): RX and CPL pairs, and single balls. -/
inductive InBall where
  | rx (lane : Fin 16)
  | cpl (lane : Fin 16)
  | protectN | imgAuto | testmode | trstN | tck | tms | tdi
  deriving DecidableEq, Repr

/-- An internal bias (R441). -/
inductive Bias where
  | termination | pullUp | pullDown
  deriving DecidableEq, Repr

/-- The internal bias of an input, with or without its rail (R441). -/
def InBall.bias : InBall → Bias
  | .rx _ | .cpl _ => .termination
  | .protectN | .tms | .tdi => .pullUp
  | .imgAuto | .testmode | .trstN | .tck => .pullDown

/-- What an input that is left open reads as (R441, R442); a pair gives no level. -/
def InBall.leftOpen (b : InBall) : Option Bool :=
  match b.bias with
  | .termination => none
  | .pullUp => some true
  | .pullDown => some false

/-- The rail of a ball (R437, R438). -/
def Ball.rail : Ball → Rail
  | .tx i => .vddaCnv ⟨i.val / 8, by omega⟩
  | .tr k => if h : k.val < 32 then .vddaCnv ⟨k.val / 16, by omega⟩ else .vddIo
  | .sclk m | .sdata m => .vddaCnv ⟨m.val / 3, by omega⟩
  | .mpTxd | .mpEvtN => .vddZm
  | .pwmH _ | .pwmL _ | .faultN | .alertN | .ppsOut | .syncOut | .xspiClk | .xspiCsN | .xspiDqs | .xspiDq _ | .tdo | .hkVref => .vddIo

/-- Whether the boundary-scan chain drives a ball (R418): the board die's digital outputs, TDO excepted. -/
def Ball.scanned : Ball → Bool
  | .tr k => decide (32 ≤ k.val)
  | .pwmH _ | .pwmL _ | .faultN | .alertN | .ppsOut | .syncOut | .xspiClk | .xspiCsN | .xspiDqs | .xspiDq _ => true
  | .tx _ | .sclk _ | .sdata _ | .tdo | .hkVref | .mpTxd | .mpEvtN => false

/-- What a ball shows that nothing drives (R104, R441). -/
def Ball.loose : Ball → Pad
  | .pwmH _ | .pwmL _ => .pulledDown
  | .xspiDqs | .xspiDq _ => .pulledUp
  | _ => .undriven

/-- The number of a scanned ball among those whose cells the spec does not place (R418). -/
def Ball.cell : Ball → Nat
  | .tr k => k.val - 32
  | .faultN => 16
  | .alertN => 17
  | .ppsOut => 18
  | .syncOut => 19
  | .xspiClk => 20
  | .xspiCsN => 21
  | .xspiDqs => 22
  | .xspiDq k => 23 + k.val
  | _ => 31

/-- What the boundary cells put on a ball (R418): a PWM pair never both high; of the others the spec gives no order; ALERT_N has an open drain (DESIGN CHOICE, log 48). -/
def Tap.pad (t : Tap) (b : Ball) : Pad :=
  match b with
  | .pwmH i => .ofBool (bit t.pwm.1 i)
  | .pwmL i => .ofBool (bit t.pwm.2 i)
  | .alertN => if bit t.others (Config.cellPlace b.cell) then .undriven else .low
  | b => .ofBool (bit t.others (Config.cellPlace b.cell))

/-- Whether the flash port is in use: a load from it runs (R55). -/
def Chip.flashLoads (c : Chip) : Bool := !c.inReset && c.rd F.TOP_IMG_STATUS_STATE = 1 && c.rd F.TOP_IMG_CTRL_SOURCE = 1

/-- What a block of the package puts on its ball, with its rail good, in clock `t` of the running PWM period (DESIGN CHOICE, log 134). -/
def Chip.driven (c : Chip) (t : Nat) (b : Ball) : Pad :=
  match b with
  | .tx i => if c.inReset || c.dacZero i then .zeroCode else .sending
  | .tr k => if c.trDriven k then .ofBool (c.trHigh k) else if c.safeCode k < 2 then .undriven else .pulledDown
  | .sclk m => if (c.rf m).busy then .sending else .low
  | .sdata m => if (c.rf m).busy then .sending else .kept
  | .pwmH i => .ofBool (!c.inReset && (c.pwmOut i t).1)
  | .pwmL i => .ofBool (!c.inReset && (c.pwmOut i t).2)
  | .faultN => .ofBool (!c.faultNLow)
  | .alertN => if !c.inReset && c.alert then .low else .undriven
  | .ppsOut => .ofBool (!c.inReset && c.air.ppsOut)
  | .syncOut => .ofBool (!c.inReset && c.air.syncOut)
  | .xspiClk => if c.flashLoads then .sending else .low
  | .xspiCsN => if c.flashLoads then .sending else .high
  | .xspiDqs => .pulledUp
  | .xspiDq _ => if c.flashLoads then .sending else .pulledUp
  | .tdo => .undriven
  | .hkVref => if !c.inReset && c.on F.HK_CTRL_REF_EN then .reference else .low
  | .mpTxd | .mpEvtN => .sending

/-- What is on a ball, in clock `t` of the running PWM period (R418, R441): without its rail nothing drives it; HIGHZ releases the scanned
balls, EXTEST and CLAMP give them their cells. -/
def Chip.pad (c : Chip) (t : Nat) (b : Ball) : Pad :=
  if c.railBad.contains b.rail then b.loose
  else if b.scanned && c.tap.ir = 5 then b.loose
  else if b.scanned && (c.tap.ir = 0 || c.tap.ir = 4) then c.tap.pad b
  else c.driven t b

end Sys2Proof.Machine
end

