-- ==== Sys2Proof/Safety.lean ====
section
/-!
DEFINITION. The terms in which claims are made: that a command completes, that an access reaches its register, what stays as it
was, and the invariant of every step.
-/

namespace Sys2Proof.Machine

/-- A run is safe at a state whose step answers a next state: the block never stops. -/
def Safe (s : State) : Prop := ∃ t, step s = .next t

/-- The invariant that every step keeps: the byte memories stand in their canonical form. -/
def State.Inv (s : State) : Prop := Memory.wf s.mem = true

/-- Command `i` completes from `s` and leaves the block as `P` says; the byte memories and the queue stay as they are. -/
def Completes (i : Instr) (s : State) (P : Chip → Prop) : Prop := ∃ d : Chip, exec i s = .next { s with chip := d } ∧ P d

/-- An access by `q` reaches the registers: the board die is not in reset, the requester's path works, and its function exists and
is not being reset (R351, R364, R422, R428). -/
def Reaches (s : State) (q : Requester) : Prop := s.chip.reachable q = true ∧ (s.chip.woken q).deaf q = false

/-- An access by `q` reaches the register at `a`, and `q` may write it (R339, R354, R449). -/
def MayWrite (s : State) (q : Requester) (a : Nat) : Prop := Reaches s q ∧ (s.chip.woken q).mayWrite q a = true

/-- An access by `q` reaches the register at `a`, and `q` may read it. -/
def MayRead (s : State) (q : Requester) (a : Nat) : Prop := Reaches s q ∧ (s.chip.woken q).mayRead q a = true

/-- Who sends the access that a command is; none for an event of the device or of the outside. -/
def sender : Instr → Option Requester
  | .registerWrite q _ _ _ | .accessSizeFault q _ _ | .rcRead q _ _ | .stageWrite q _ _ _ | .imgStart q | .imgAbort q
    | .imgClear q | .hashReq q | .imgPortWrite q _ _ | .structDataRead q _ | .airEpochWrite q _ | .airCtrlWrite q _ _
    | .airRestart q | .schedArm q _ _ | .schedDisarm q _ _ | .airAtRead q _ | .cnvPowerEnWrite q _ _ | .cnvRecal q _
    | .synWrite q _ _ _ _ | .cnvLaneWrite q _ _ _ _ | .trForceHigh q _ _ | .trForceLow q _ _
    | .rffeRegister0Write q _ _ _ | .rffeRegisterWrite q _ _ _ _ | .rffeRegisterRead q _ _ _
    | .rffeExtendedWrite q _ _ _ _ _ | .rffeExtendedRead q _ _ _ _ | .rffeExtendedWriteLong q _ _ _ _ _
    | .rffeExtendedReadLong q _ _ _ _ | .rffeResultRead q _ _ | .sqCoefWrite q _ _ _ | .sqCoefRead q _ _
    | .ecCoefWrite q _ _ _ | .ecCoefRead q _ _ | .matrixWrite q _ _ _ _ _ | .pinAck q | .mailboxWrite q _ _ _ _
    | .mailboxGo q _ | .planCommit q _ _ | .planCommitSched q _ _ | .planDiscard q | .planRelease q _ | .pwmEnable q _
    | .pwmDisable q _ | .hkRefEnWrite q _ | .hkCal q _ | .hkFlush q | .hkQueueRead q _ | .faultPendingClear q _ _
    | .severeClear q _ _ | .firstRearm q | .injectRelease q | .injectEvent q _ | .injectHoldLow q _
    | .injectHoldHigh q _ | .fltFreeze q | .bbReadRequest q _ | .bbAck q | .bbMark q _ | .intSetpend q _
    | .intClrpend q _ | .intClaim q _ | .intEoi q _ _ | .intHeoi q _ _ | .intRouteWrite q _ _ _ | .coreRelease q _
    | .coreHold q _ | .tenDenyWrite q _ | .assignRequest q _ _ | .doorbell q _ _ | .dqTailWrite q _ _ _
    | .capAbort q _ _ | .capRestart q _ _ | .creditAdd q _ _ | .cqHeadWrite q _ _ _ | .chlEnWrite q _ _
    | .send q _ _ _ | .cancel q _ _ | .pop q _ | .lstopAck q | .keyLoad q _ | .keyClear q _ | .keyLock q _
    | .pwrRstWarm q _ | .sleepEnter q => some q
  | .sampleFlitCrcFail _ _ _ | .controlFlitCrcFail _ _ _ | .controlFlitRetransmit _ | .bridgeLoss _ _
    | .bridgeTrainStart _ | .bridgeUp _ | .bridgeTrainTimeout _ | .bridgeMuteClear _ | .powerSumUpdate
    | .clearEraseDone | .hashDone | .flashBurstDone _ | .imageWriteHeader | .imageDataWord | .imageEndRecord
    | .imageBadHeader | .flashRangeExhausted | .resolutionDone | .tempoBoundary | .epochRollover
    | .cellDetection _ _ _ _ | .ppsEdge _ | .syncEdge _ | .atStep | .coastTimeout | .holdTimeout | .holdoverTimeout
    | .holdRelease | .schedTake _ | .trFire | .dirFire | .planFire | .calFire | .captureFire | .pwmfFire | .markFire
    | .timingOutputRise _ | .timingOutputFall _ | .cnvStatusRefresh _ _ | .ckmLock _ | .cnvClockingDone _ | .ckmFail _
    | .ckmUnlock _ | .startcalPhaseDone _ _ | .synLock _ _ | .synUnlock _ _ | .synBlankEnd _ _ | .laneOnline _ _
    | .calStepStart _ | .calStepDone _ _ | .calApply _ | .calWindowClose _ | .skewBandSwitch _ | .rffeFrameDone _ _ _
    | .coarseBlock _ _ _ | .fillDone _ | .rampEnd _ | .unmuteStart _ | .placementMute _ | .squareParityError _ _
    | .estimatePublish _ | .stabilityFaultClear _ | .muBandSwitch _ | .deadline _ | .outerStep _ | .rkEccCorrected _
    | .rkMemoryError _ _ | .arrayFault _ | .rankFaultClear _ | .oscillationClear _ | .noiseRiseRelease
    | .permitReport _ _ | .permitMuteRelease _ | .protectNLow | .protectNHigh | .pinStopRelease | .verifyStart
    | .resign | .resume | .stopRelease | .planApply _ | .zmdReset | .zmdStartDone _ _ _ _ | .clockFault | .zmdRestart
    | .referenceCheck _ _ | .dwellEnd _ _ _ _ | .reportPeriodEnd | .reportSigned | .guardDecision _ | .guardHoldEnd _
    | .guardHoldReset | .getId _ _ | .getStatus _ _ | .getReport _ _ | .setWindows _ _ _ | .setTiming _ _ _
    | .setNonce _ _ | .getGuard _ _ | .calWrite _ _ _ | .calLock _ _ _ | .unknownCmd _ _ | .mirrorStatusFrame _ _
    | .mirrorReportFrame _ _ | .mirrorIdentityFrame _ | .mirrorLinkTimeout | .periodEnd _ | .cbcTrip _ _ _
    | .hardTrip _ | .softstartDone _ | .hiccupEnd _ | .hkRoundStart | .hkResult _ _ _ _ | .hkRefReady
    | .hkCalDone _ _ _ | .thermalShutdown _ | .thermalRelease _ | .faultEvent _ _ _ _ _ | .pairFault _
    | .pairFaultEnd _ | .faultWindowClose _ | .severeHoldRelease | .datapathFaultClear _ | .wingParityError _ _
    | .bbRecordWrite | .atBeacon | .bbReadDone | .faultNInitDone | .intRequest _ | .intWithdraw _ | .msixIssue
    | .coalesceTimeout _ | .supInitDone | .mtimerExpire _ | .coreWfi _ | .supEccError _ _ | .assignApply
    | .quotaUpdate | .vfFlr _ | .vfFlrDone _ | .flrWithdrawal _ | .pfFlr | .vc1Misuse _ _ _
    | .descriptorFetched _ _ _ _ | .gatherFetched _ _ _ _ _ | .elementStart _ | .captureStartAt _ | .snapshotDone _
    | .recordWrite _ _ _ _ _ _ | .writeAck | .captureResume _ _ | .linkUp _ | .trainTimeout _ | .linkLoss _ _
    | .stopFrameRx _ _ _ _ _ _ _ | .messageRx _ _ _ | .resumeRx _ _ _ | .timingRx _ _ _ _ _ _ | .delayReqRx _ _
    | .delayRespRx _ _ | .samplesRx _ _ _ _ _ _ _ _ | .ackRx _ _ _ _ | .initRx _ _ _ | .retransmit _ _ | .timingTx _
    | .delayReqTx _ | .samplesTx _ _ _ _ | .alignTx _ | .initTx _ | .linkStopRelease | .selftestDone _ | .extest
    | .samplePreload _ _ _ | .idcode | .clamp | .highz | .bypass _ | .jtagStopRelease | .railFail _ | .railGood _
    | .coldReset | .perstAssert | .resetRelease _ _ | .vbatLow | .retentionFlagClear | .wake _ _ | .meterPortCrcFail _
    | .chlFrameCrcErr _ | .cmdReject => none

/-- Every register field but those of the list holds in `d` what it held in `c`. -/
def Keeps (c d : Chip) (l : List Fld) : Prop := ∀ f : Fld, (∀ g ∈ l, f.key ≠ g.key) → d.rd f = c.rd f

/-- Every register field whose register lies outside the addresses of `p` holds in `d` what it held in `c`. -/
def KeepsOff (c d : Chip) (p : Nat → Prop) : Prop := ∀ f : Fld, ¬ p (f.key / 64) → d.rd f = c.rd f

/-! ## How a command completes -/

/-- In every state in which the clocks of the board die run, the event `i` completes, and takes the block from `c` to a `d` with
`P c d`; memories and queue stay. -/
def Runs (i : Instr) (P : Chip → Chip → Prop) : Prop := ∀ s : State, s.chip.running = true → Completes i s (P s.chip)

/-- The same for an event of AIR or AON, which go on in deep sleep: in every state outside reset. -/
def RunsAwakeOrAsleep (i : Instr) (P : Chip → Chip → Prop) : Prop :=
  ∀ s : State, s.chip.inReset = false → Completes i s (P s.chip)

/-- The same for an event of the package, which needs no board die: in every state. -/
def RunsAlways (i : Instr) (P : Chip → Chip → Prop) : Prop := ∀ s : State, Completes i s (P s.chip)

/-- In every state in which `q` may write the register at `a`, the write `i` completes; `c` is the block as the access finds it, with
the access acknowledged, and `P c d` says what it becomes. -/
def Writes (i : Instr) (q : Requester) (a : Nat) (P : Chip → Chip → Prop) : Prop :=
  ∀ s : State, MayWrite s q a → Completes i s (P ((s.chip.woken q).respond q 0))

/-- In every state in which `q` may read the register at `a`, the read `i` completes; `c` is the block as the access finds it. -/
def Reads (i : Instr) (q : Requester) (a : Nat) (P : Chip → Chip → Prop) : Prop :=
  ∀ s : State, MayRead s q a → Completes i s (P (s.chip.woken q))

/-- The address `x` that `q` uses reaches the byte of SRAM or TCM at BAR0 offset `a`: the PF uses the offset, a core its own address. -/
def findsMem (q : Requester) (x a : Nat) : Bool :=
  match q with
  | .pf => x = a && inMem a
  | .core k => match coreMap k x with
    | .mem _ off => off = a
    | _ => false
  | .vf _ => false

/-- Nothing but register fields of the list differs. -/
def RegsOnly (c d : Chip) (l : List Fld) : Prop := Keeps c d l ∧ d = { c with regs := d.regs }

/-! ## Registers without an effect of their own -/

/-- Addresses of registers whose write acts on their fields by their access codes and does nothing else (R5, R7). -/
def plainReg (a : Nat) : Bool :=
  let o := a % 0x100000
  match a / 0x100000 with
  | 0x01 => decide (o ≠ 0 ∧ o ≠ 8 ∧ ¬ (0x80 ≤ o ∧ o < 0xC0) ∧ o ≠ 0x48 ∧ ¬ (0x1000 ≤ o ∧ o % 16 = 0))
  | 0x04 => decide (0x2C0 ≤ o ∧ o < 0x80000)
  | 0x13 => decide (o < 0x1000 ∧ o ≠ 8)
  | 0x14 => decide (o < 0x1000 ∧ o ≠ 0x18)
  | 0x15 => true
  | 0x16 => decide (o ≠ 0 ∧ ¬ (0x1000 ≤ o ∧ (o % 0x100 = 0 ∨ o % 0x100 = 0x28)))
  | 0x17 => decide (o ≠ 0 ∧ o ≠ 0x40 ∧ o ≠ 0x48)
  | 0x18 => decide (¬ (8 ≤ o ∧ o < 0x28) ∧ ¬ (0x100 ≤ o ∧ o < 0x180))
  | 0x19 => decide (0x300 ≤ o)
  | 0x1B => decide (o < 0x100)
  | 0x1C => decide (o < 0x100 ∧ o ≠ 8)
  | 0x1D => decide (o ≠ 8)
  | 0x1E => decide (o ≠ 8 ∧ o ≠ 0x18)
  | 0x1F => decide (0 < o ∧ o < 0x1000)
  | 0x21 => decide (0x80020 ≤ o ∧ o < 0x80100)
  | _ => false

/-- Addresses of registers whose read has no other effect than to clear their RC fields (R5, R451). -/
def plainRead (a : Nat) : Bool :=
  decide ((0x15 ≤ a / 0x100000 ∧ a / 0x100000 ≤ 0x1F ∧ a ≠ 0x1700030 ∧ ¬ (0x1A00100 ≤ a ∧ a < 0x1A00200 ∧ a % 0x40 = 0)) ∨
    (0x100000 ≤ a ∧ a < 0x400000 ∧ a ≠ 0x100038) ∨ (0x1300000 ≤ a ∧ a < 0x1500000))

/-- The value that field `f` takes from a written image in which the bits of `h` count. -/
def Chip.written (c : Chip) (f : Fld) (h : Half) (v : Nat) : Nat := fldNew f h (c.rd f) (h.image v)

/-- What a write does to one field by its access code (R5, R7). -/
def FldWritten (r : FldRow) (h : Half) (v : Nat) (c d : Chip) : Prop :=
  let hit := fun i : Nat => bit (fldMask r.fld h) i && bit (h.image v) (r.fld.lo + i)
  (r.acc = .rw → d.rd r.fld = if r.vmin ≤ c.written r.fld h v ∧ c.written r.fld h v ≤ r.vmax then c.written r.fld h v else c.rd r.fld) ∧
  (r.acc = .w1c → ∀ i, i < r.fld.wd → d.rdBit r.fld i = (c.rdBit r.fld i && !hit i)) ∧
  (r.acc = .w1s → ∀ i, i < r.fld.wd → d.rdBit r.fld i = (c.rdBit r.fld i || hit i)) ∧
  (r.acc ≠ .rw → r.acc ≠ .w1c → r.acc ≠ .w1s → d.rd r.fld = c.rd r.fld)

/-! ## Faults and frames by block -/

/-- Addresses of the fault collector. -/
def inFlt (a : Nat) : Prop := 0x1900000 ≤ a ∧ a < 0x1A00000

/-- Nothing but the fault collector differs: its registers and its memory. -/
def FaultOnly (c d : Chip) : Prop := KeepsOff c d inFlt ∧ d = { c with regs := d.regs, flt := d.flt }

/-- One event of source `src` with this cause is recorded between `c` and `d`, unless an invalid pair holds the source asserted
(R300, R305). -/
def Recorded (c d : Chip) (src cause : Nat) : Prop :=
  c.srcBit F.FLT_PAIR_PAIR src = false →
    d.rd (F.FLT_SRC_EVENTS src) = satU (F.FLT_SRC_EVENTS src).wd (c.rd (F.FLT_SRC_EVENTS src) + 1) ∧
    d.rd (F.FLT_SRC_LAST_CAUSE src) = cause ∧ d.srcBit F.FLT_PENDING_PENDING src = true

/-- Sources whose level no block's state stands behind: an event from outside is all that raises them. -/
def plainSrc (s : Nat) : Bool :=
  s = 404 || s = 405 || s = 414 || (decide (417 ≤ s) && decide (s ≤ 423)) || (decide (426 ≤ s) && decide (s ≤ 445)) || decide (447 ≤ s)

/-- COUNT of source `s` after its next event: one more in an open window, else 1 (R303). -/
def Chip.countNext (c : Chip) (s : Nat) : Nat :=
  match c.flt.winClose.find s with
  | some t => if c.air.tempi < t then satU 8 (c.rd (F.FLT_SRC_COUNT s) + 1) else 1
  | none => 1

/-- A write forwarded to converter die `e` (R31, R87): in a control flit while its bridge is UP and no flit waits to be sent again; held, up
to 64; else discarded and recorded. -/
def Forwarded (e : Nat) (w : CnvWrite) (P : Chip → Chip → Prop) (c d : Chip) : Prop :=
  let goes := (c.br e).st = 2 ∧ (c.br e).retxDn = none
  (goes → d.br e = { (c.flitSeen e 17 false).br e with seqDn := ((c.br e).seqDn + 1) % 256 } ∧ (∀ j, j ≠ e → d.br j = c.br j) ∧
    P { c with bridges := d.bridges } d) ∧
  (¬ goes → (c.cv e).held.length < 64 → (d.cv e).held = (c.cv e).held ++ [w] ∧ d = { c with cnvs := d.cnvs }) ∧
  (¬ goes → 64 ≤ (c.cv e).held.length → FaultOnly c d ∧ Recorded c d 414 2)

/-! ## The timeline and the schedule -/

/-- A detection that counts moves the timeline from `c` to `d` (R70–R72): in ACQUIRE it justifies a step, then counts towards lock; in
LOCKED it is followed if it lies in the window; HOLDOVER ends in LOCKED, or with LOST in ACQUIRE. -/
def Detected (x : Detection) (c d : Chip) : Prop :=
  let lock := x.err.natAbs ≤ 256 * c.rd F.AIR_WIN_LOCK_WIN
  let slew := x.err.natAbs ≤ 256 * c.rd F.AIR_WIN_SLEW_WIN
  d.rdS F.AIR_STATUS_LAST_ERR = satS 16 (rndDiv x.err 256) ∧ d.now = c.now ∧ d.air.mono = c.air.mono ∧
  (c.rd F.AIR_STATUS_STATE = 0 → c.air.stepped = false → c.air.pendStep = none →
    d.rd F.AIR_STATUS_STATE = 0 ∧ d.air = { c.air with pendStep := some x }) ∧
  (c.rd F.AIR_STATUS_STATE = 0 → c.air.stepped = true → lock →
    d.air.lastDet = some x ∧ d.rd F.AIR_STATUS_STATE = if c.rd F.AIR_TIMING_LOCK_COUNT ≤ c.air.lockCnt + 1 then 1 else 0) ∧
  (c.rd F.AIR_STATUS_STATE = 0 → c.air.stepped = true → ¬ lock →
    d.rd F.AIR_STATUS_STATE = 0 ∧ d.air = { c.air with lockCnt := 0 }) ∧
  (c.rd F.AIR_STATUS_STATE = 1 → lock → d.rd F.AIR_STATUS_STATE = 1 ∧ d.rd F.AIR_STATUS_COAST = 0 ∧
    d.air = { c.air with lastDet := some x, slewed := 0 }) ∧
  (c.rd F.AIR_STATUS_STATE = 1 → ¬ lock → d.rd F.AIR_STATUS_STATE = 1 ∧ d.air = c.air) ∧
  (c.rd F.AIR_STATUS_STATE = 2 → slew → d.rd F.AIR_STATUS_STATE = 1 ∧ d.air = { c.air with lastDet := some x, slewed := 0 }) ∧
  (c.rd F.AIR_STATUS_STATE = 2 → ¬ slew → d.rd F.AIR_STATUS_STATE = 0 ∧ d.air.pendStep = some x ∧ d.air.stepped = false) ∧
  (c.rd F.AIR_STATUS_STATE = 3 → d.rd F.AIR_STATUS_STATE = 0 ∧ d.air.pendStep = some x ∧ d.air.stepped = false)

/-- `o` is the first of the taken occurrences, of kind `k`, and its instant lies before the next tempo boundary (R77, R79). -/
def Fires (k : Nat) (o : Occ) (l : List Occ) (c : Chip) : Prop :=
  c.air.taken = o :: l ∧ o.kind = k ∧ c.canBe o.fire.toNat = true

/-- The occurrence `o` has left the list, AT has reached its fire time, and an absolute entry reads DONE (R75, R77). -/
def Fired (o : Occ) (l : List Occ) (c d : Chip) : Prop :=
  d.air.taken = l ∧ d.air.mono = c.air.mono + (o.fire.toNat - c.now) ∧
  (c.sameArming o = true → bits (d.w0 o.entry) 32 32 = 2 ∧ d.air.armed.find o.entry = none)

/-! ## Gain plans -/

/-- No judgement of the boundary, of a floor or of CHECK, is outstanding (R156, R157). -/
def Chip.judged (c : Chip) : Prop := ∀ n, n < 128 → (c.sq n).assessDue = false

/-- Context `x` has lost its staging between `c` and `d`, and no other context has (R217): its claims and staged values are gone, nothing
of it is due, a committed plan reads ABORTED, a STAGING or FAILED one EMPTY. -/
def Dropped (x : Nat) (c d : Chip) : Prop :=
  d.claimsOf x = [] ∧ (∀ t y, y ≠ x → c.claims.find t = some y → d.claims.find t = some y) ∧
  (∀ f : Fld, c.claims.find (targetOf (keyAddr f.key)) = some x → d.shadow.find f.key = none) ∧
  (∀ f : Fld, c.claims.find (targetOf (keyAddr f.key)) ≠ some x → d.shadow.find f.key = c.shadow.find f.key) ∧
  (∀ p ∈ d.gpl.due, p.1 ≠ x) ∧
  (c.rd (F.GPL_STATUS_STATE x) = 2 ∨ c.rd (F.GPL_STATUS_STATE x) = 3 →
    d.rd (F.GPL_STATUS_STATE x) = 6 ∧ d.rd (F.GPL_STATUS_REASON x) = 14 ∧ d.rd (F.GPL_STATUS_TARGET x) = 0xFF ∧
    d.rd (F.GPL_CTX_INT_STATUS_ABORTED x) = 1) ∧
  (c.rd (F.GPL_STATUS_STATE x) = 1 ∨ c.rd (F.GPL_STATUS_STATE x) = 5 → d.rd (F.GPL_STATUS_STATE x) = 0) ∧
  Keeps c d [F.GPL_STATUS_STATE x, F.GPL_STATUS_REASON x, F.GPL_STATUS_TARGET x, F.GPL_CTX_INT_STATUS_ABORTED x,
    F.GPL_DROPS_COMMIT_DROP x, F.GPL_CTX_INT_STATUS_COMMIT_DROP x] ∧
  d = { c with regs := d.regs, claims := d.claims, shadow := d.shadow, gpl := d.gpl }

/-- What drops the staging of context `x` acts at once; where the boundary of that context's plan has begun, it waits for the plan, which
it finds applied (R217). -/
def Drops (x : Nat) (c d : Chip) : Prop :=
  (c.planHere x = false → Dropped x c d) ∧ (c.planHere x = true → d.gpl = { c.gpl with late := setIns x c.gpl.late } ∧
    Keeps c d [F.GPL_DROPS_COMMIT_DROP x, F.GPL_CTX_INT_STATUS_COMMIT_DROP x] ∧ d = { c with regs := d.regs, gpl := d.gpl })

/-- A commit of context `x` was dropped and counted (R210). -/
def CommitDropped (x : Nat) (c d : Chip) : Prop :=
  d.rd (F.GPL_DROPS_COMMIT_DROP x) = satU (F.GPL_DROPS_COMMIT_DROP x).wd (c.rd (F.GPL_DROPS_COMMIT_DROP x) + 1) ∧
  d.rd (F.GPL_CTX_INT_STATUS_COMMIT_DROP x) = 1

/-! ## The metrology die -/

/-- Nothing but the ZMD differs, and of it neither its periods, windows, reports and sums nor its guard. -/
def MeterStays (c d : Chip) : Prop :=
  d = { c with zmd := d.zmd } ∧ d.zmd.mem.run = c.zmd.mem.run ∧ d.zmd.mem.sealed = c.zmd.mem.sealed ∧ d.zmd.mem.wins = c.zmd.mem.wins ∧
  d.zmd.mem.period = c.zmd.mem.period ∧ d.zmd.mem.dwell = c.zmd.mem.dwell ∧ d.zmd.mem.nonce = c.zmd.mem.nonce ∧
  d.zmd.mem.hold = c.zmd.mem.hold ∧ d.zmd.mem.acc = c.zmd.mem.acc ∧ d.zmd.mem.seq = c.zmd.mem.seq ∧
  d.zmd.mem.reports = c.zmd.mem.reports ∧ d.zmd.hot = c.zmd.hot ∧ d.zmd.bootEpoch = c.zmd.bootEpoch

/-- The meter port answers command `cmd` with a frame of this `status` and `data` (R242). -/
def Answered (cmd tag status : Nat) (data : List Nat) (c d : Chip) : Prop :=
  d.zmd.resp = some (mpFrame cmd tag status data) ∧ MeterStays c d

/-- The ZMD has stopped: its memory is lost, so it gives no permit; its OTP and its seal monitor stay (R224, R227, R228). A report still
on the mirror link is lost to the board die (R244; that it counts so is the model's choice, log 110). -/
def MeterStopped (wait : Bool) (c d : Chip) : Prop :=
  d.zmd.mem.run = false ∧ d.zmd.permit = false ∧ d.zmd.mem.reports = [] ∧ d.zmd.mem.zt = 0 ∧ d.zmd.clkWait = wait ∧
  d.zmd.bootEpoch = c.zmd.bootEpoch ∧ d.zmd.used = c.zmd.used ∧ d.zmd.slots = c.zmd.slots ∧
  (∀ n r, c.zmd.mem.mir = some (n, r, true) → d.rd F.MTR_STATUS_REPORT_LOST = 1) ∧
  ((∀ n r, c.zmd.mem.mir ≠ some (n, r, true)) → d.regs = c.regs) ∧
  Keeps c d [F.MTR_STATUS_REPORT_LOST] ∧ d = { c with regs := d.regs, zmd := d.zmd }

/-! ## Interrupts -/

/-- Nothing differs but the interrupt controller's memory and the IDLE bits of the cores. -/
def IntOnly (c d : Chip) : Prop := Keeps c d [F.SUP_STATUS_IDLE] ∧ d = { c with regs := d.regs, int := d.int }

/-- The four lines stand as R324 and R330 have them: low with no eligible source, high where one is to be delivered. -/
def LinesRight (d : Chip) : Prop :=
  ∀ t, t < 4 → (d.eligible t = [] → d.int.line.contains t = false) ∧
    (d.eligible t ≠ [] → d.delivers t (d.eligible t) = true → d.int.line.contains t = true)

/-! ## Capture -/

/-- Addresses of the capture block. -/
def inCap (a : Nat) : Prop := 0x1B00000 ≤ a ∧ a < 0x1C00000

/-- Nothing but the capture block differs: its registers and its memory. -/
def CapOnly (c d : Chip) : Prop := KeepsOff c d inCap ∧ d = { c with regs := d.regs, cap := d.cap }

/-- Engine `e` is idle only while every queue with work waits for a completion slot; WAIT_CQ shows which do (R372). -/
def Serves (d : Chip) (e : Nat) : Prop :=
  ((d.eng e).cur = none → ∀ q, q < 10 → d.capWork e q = true → (d.capq e q).paused = none ∧ d.cqFree e q = false) ∧
  ∀ q, q < 10 → d.rd (F.CAP_DQ_STATUS_WAIT_CQ e q) = b2n (d.capWork e q && !d.slotFree e q)

/-- The WAIT_CQ fields of engine `e`. -/
def waitsOf (e : Nat) : List Fld := (List.range 10).map fun q => F.CAP_DQ_STATUS_WAIT_CQ e q

/-- Engine `e` has asked host memory for `bytes` bytes at `addr`, under the function of queue `q` and with Relaxed Ordering clear (R352). -/
def Asked (d : Chip) (q addr bytes : Nat) : Prop :=
  d.cap.lastRead = some { func := capFunc q, relaxed := false, addr := addr, bytes := bytes }

/-- The descriptor of run `r` in engine `e` has ended with a completion of this status and index, and HEAD has moved on (R374, R375). -/
def Ended (e : Nat) (r : CapRun) (status index : Nat) (c d : Chip) : Prop :=
  (∃ l, d.cap.lastCpl = some l ∧ l.status = status ∧ l.index = index ∧ l.tag = r.tag ∧ l.done = r.done ∧ l.records = r.records ∧
    l.addr = 32 * c.rd (F.CAP_CQ_BASE_BASE e r.q) + 32 * c.rd (F.CAP_CQ_CFG_TAIL e r.q)) ∧
  d.rd (F.CAP_DQ_STATUS_HEAD e r.q) = (c.rd (F.CAP_DQ_STATUS_HEAD e r.q) + 1) % c.dqSize e r.q % 2 ^ 12 ∧
  d.rd (F.CAP_CQ_CFG_TAIL e r.q) = (c.rd (F.CAP_CQ_CFG_TAIL e r.q) + 1) % c.cqSize e r.q % 2 ^ 12 ∧
  (status ≠ 0 → d.rd (F.CAP_Q_INT_STATUS_FAULT e r.q) = 1) ∧ Serves d e

/-! ## Chain Link, resets -/

/-- Addresses of Chain Link. -/
def inChl (a : Nat) : Prop := 0x1C00000 ≤ a ∧ a < 0x1D00000

/-- Nothing but Chain Link and the fault collector differs. -/
def LinkOnly (c d : Chip) : Prop :=
  KeepsOff c d (fun a => inChl a ∨ inFlt a) ∧ d = { c with regs := d.regs, chl := d.chl, flt := d.flt }

/-- Port `p` has left UP with this cause (R387, R391): it trains, nothing reliable is lost, and the fault is recorded. -/
def LinkLost (p cause : Nat) (c d : Chip) : Prop :=
  d.rd (F.CHL_STATUS_STATE p) = 1 ∧ Recorded c d (424 + p) cause ∧
  d.rd (F.CHL_ERR_LOCK_LOSS p) = satU 16 (c.rd (F.CHL_ERR_LOCK_LOSS p) + 1) ∧
  (d.port p).stopQ = (c.port p).stopQ.map ChlFrame.again ∧ (d.port p).smpQ = [] ∧
  (∀ f ∈ (d.port p).ctlQ, f.sent = false) ∧
  (∀ f ∈ (c.port p).ctlQ, f.sent = true → ∀ n, f.slot = some n → n < 16 → d.slotState p n = 5) ∧
  d.srcBit F.FLT_ACTIVE_ACTIVE (424 + p) = c.on (F.CHL_CFG_EN p) ∧ LinkOnly c d

/-- The other port. -/
def other (p : Nat) : Nat := 1 - p

/-- A reset of kind `k` holds the board die (R422, R423): every register at its reset value but those that AON keeps; coefficients,
image, queues and the rest of its memory at theirs; the ZMD, the test access port and the rails as they were. -/
def HeldReset (k : Nat) (c d : Chip) : Prop :=
  d.pwr.kind = some (if c.pwr.kind = some 0 then 0 else k) ∧ d.inReset = true ∧
  (∀ f : Fld, (∀ g ∈ aonFlds, f.key ≠ g.key) → d.rd f = f.rst) ∧ (∀ f ∈ aonFlds, d.rd f = c.rd f % 2 ^ f.wd) ∧
  d.img = {} ∧ d.sqs = [] ∧ d.ranks = [] ∧ d.claims = [] ∧ d.shadow = [] ∧ d.chl = {} ∧ d.cap = {} ∧ d.int = {} ∧
  d.harts = [] ∧ d.flt.ring = c.flt.ring ∧
  d.zmd = { c.zmd with mem := { c.zmd.mem with
    mir := c.zmd.mem.mir.map fun r => (r.1, r.2.1, false), absent := d.zmd.mem.absent, absentFrom := d.zmd.mem.absentFrom } } ∧
  d.tap = c.tap ∧ d.railBad = c.railBad ∧ d.prt = { pinHigh := c.prt.pinHigh, accepted := c.prt.accepted }

end Sys2Proof.Machine
end

