-- ==== Sys2Proof/Certificates/Slice0/Obligations.lean ====
section
/-!
DEFINITION. The statements for the provers. Each says of the model what its rules say of the block; helpers stand in Safety.
-/

open Sys2Proof Sys2Proof.Machine

/-! ## The machine as a whole -/

/-- The step takes the command at the front of the queue and runs it on the rest of the queue. -/
def Obligations.StepRunsFrontCommand : Prop :=
  ∀ (s : State) (c : Instr) (l : List Instr), s.pending = c :: l → step s = exec c { s with pending := l }

/-- With nothing queued one cycle passes, and each supervisor core that executes does so once (the model's choice,
notes/assumptions/1.md). The queue stays empty; the byte memories stay as they are while no core is released. While the board die is
held in reset, all that can change is the Zarid die, whose ZT counts on while it runs. -/
def Obligations.EmptyQueueIdles : Prop :=
  ∀ s : State, s.pending = [] → ∃ t : State, step s = .next t ∧ t.pending = [] ∧
    ((∀ k, k < 4 → s.chip.rdBit F.SUP_CTRL_RUN k = false) → t.mem = s.mem ∧ t.chip.harts = s.chip.harts) ∧
    (s.chip.inReset = true → ∃ z : Zmd, t = { s with chip := { s.chip with zmd := z } } ∧
      z.mem.zt = s.chip.zmd.mem.zt + (if s.chip.zmd.mem.run then 1 else 0) ∧ z.mem.run = s.chip.zmd.mem.run ∧
      z.mem.reports = s.chip.zmd.mem.reports)

/-- No command and no state stops the block: every error is one that the block shows. -/
def Obligations.NothingStops : Prop := ∀ s : State, Safe s

/-- A step takes exactly one command off the queue and adds none. -/
def Obligations.QueueFirstInFirstOut : Prop :=
  ∀ (s t : State), step s = .next t → t.pending = s.pending.tail

/-- Every step keeps the byte memories in their canonical form. -/
def Obligations.InvariantKept : Prop := ∀ (s t : State), s.Inv → step s = .next t → t.Inv

/-- The invariant holds after reset. -/
def Obligations.InvariantAtReset : Prop := State.reset.Inv

/-- R422: no access acts while the board die is held in reset, whoever sends it. -/
def Obligations.NoAccessInReset : Prop :=
  ∀ (s : State) (i : Instr) (q : Requester), sender i = some q → s.chip.inReset = true → exec i s = .next s

/-- R351, R364: an access by a VF that does not exist, or whose reset is not complete, changes nothing of the block but what the
access itself returns. -/
def Obligations.AbsentFunctionActsOnNothing : Prop :=
  ∀ (s : State) (i : Instr) (k : Fin 8), sender i = some (.vf k) → s.chip.reachable (.vf k) = true →
    (s.chip.woken (.vf k)).vfExists (k.val + 1) = false ∨ (s.chip.woken (.vf k)).on (F.TEN_VF_STATUS_FLR_BUSY (k.val + 1)) = true →
    Completes i s fun d => ∃ b : BusResp, d = { s.chip.woken (.vf k) with bus := b }

/-- R354, R355: a VF's write to the page of a square that it does not own is discarded. It reads back 0, and no register outside the
fault collector changes, nor any coefficient, stage, claim or other state but the collector's. -/
def Obligations.ForeignSquareUntouched : Prop :=
  ∀ (s : State) (k : Fin 8) (a : Nat) (h : Half) (v : Nat), a % 8 = 0 → 0x1000000 ≤ a → a < 0x1080000 → (regAt a).isSome →
    Reaches s (.vf k) → (s.chip.woken (.vf k)).owner ((a - 0x1000000) / 0x1000) ≠ k.val + 1 →
    Completes (.registerWrite (.vf k) a h v) s fun d =>
      KeepsOff (s.chip.woken (.vf k)) d (fun r => 0x1900000 ≤ r ∧ r < 0x1A00000) ∧ d.bus = { req := .vf k, data := 0 } ∧
      d = { s.chip.woken (.vf k) with regs := d.regs, bus := d.bus, flt := d.flt } ∧
      d.rd (F.FLT_SRC_LAST_CAUSE 414) = if (s.chip.woken (.vf k)).srcBit F.FLT_PAIR_PAIR 414
        then (s.chip.woken (.vf k)).rd (F.FLT_SRC_LAST_CAUSE 414) else 3

/-- R1–R6: an aligned write by the PF to an offset of BAR0 that holds no register and no memory changes nothing, and is no error.

R2: an access of another size or alignment is recorded as a register access fault with cause 1; a read completes with Unsupported
Request, and a core takes an address-misaligned exception or an access fault (R338).

R3, R5, R7: a write to a register without an effect of its own acts on each field by its access code, and on nothing else; a read
returns the register's word and clears the RC fields that it reaches, and nothing else.

The model's choices in it: the trap value of a core, which is the address (log 117), and the order and recording of a core's access
faults (log 121).

Completes with its own effect: registerWrite, accessSizeFault, rcRead. -/
def Obligations.AccessErrors : Prop :=
  (∀ (s : State) (a : Nat) (h : Half) (v : Nat), a % 8 = 0 → a < 0x4000000 → holds a = false → Reaches s .pf →
     Completes (.registerWrite .pf a h v) s fun d => d = (s.chip.woken .pf).respond .pf 0) ∧
  (∀ (s : State) (q : Requester) (a : Nat) (w : Bool), Reaches s q → (q.isCore = true → a < 0x2000000) → Completes (.accessSizeFault q (q.addr a) w) s fun d =>
     Recorded (s.chip.woken q) d 414 1 ∧ KeepsOff (s.chip.woken q) d inFlt ∧
     d = { s.chip.woken q with regs := d.regs, flt := d.flt, bus := d.bus, harts := d.harts, ten := d.ten } ∧
     d.ten = (if w = true then (s.chip.woken q).ten else match reqFunc q with
       | some f => (s.chip.woken q).ten.unsupported f
       | none => (s.chip.woken q).ten) ∧
     (q.isCore = false → d.harts = (s.chip.woken q).harts ∧ (w = false → d.bus = { req := q, unsupported := true }) ∧
       (w = true → d.bus = (s.chip.woken q).bus)) ∧
     (∀ k, q = .core k → d.hart k = (s.chip.hart k).trap false ((if a % 4 = 0 then 5 else 4) + if w = true then 2 else 0) (q.addr a) ∧
       ∀ j, j ≠ k.val → d.hart j = s.chip.hart j)) ∧
  (∀ (q : Requester) (a v : Nat) (h : Half) (rows : List FldRow), a % 8 = 0 → plainReg a = true → regAt a = some rows →
     rows.Pairwise (fun r r' => r.fld.key ≠ r'.fld.key) → Writes (.registerWrite q (q.addr a) h v) q a fun c d =>
       (∀ r ∈ rows, FldWritten r h v c d) ∧ RegsOnly c d (rows.map (·.fld))) ∧
  (∀ (q : Requester) (a : Nat) (h : Half) (rows : List FldRow), a % 8 = 0 → plainRead a = true → regAt a = some rows →
     rows.Pairwise (fun r r' => r.fld.key ≠ r'.fld.key) → Reads (.rcRead q (q.addr a) h) q a fun c d =>
       d.bus = { req := q, data := h.data (c.readWord q a) } ∧
       (a / 0x100000 ∈ [0x15, 0x16, 0x1B, 0x1D] → c.readWord q a = c.regWord rows) ∧
       (∀ r ∈ rows, r.acc = .rc → ∀ i, i < r.fld.wd →
         d.rdBit r.fld i = if bit (fldMask r.fld h) i = true then bit r.fld.rst i else c.rdBit r.fld i) ∧
       Keeps c d ((rows.filter fun r => r.acc = .rc).map (·.fld)) ∧ d = { c with regs := d.regs, bus := d.bus })

/-! ## Memories (R336, R342, R344) -/

/-- A 64-bit write to SRAM or TCM, by the PF or by a core at its own address, stores its eight bytes, lowest address first, and no other
byte changes; before INIT_DONE it waits. The other cores' data caches lose the line, and their reservations of the bytes are lost.

A 32-bit read of SRAM or TCM returns its four bytes, lowest address first, and changes no byte.

R336: an access by a core outside every region of its map raises an access fault of its type, and changes nothing else.

The model's choices in it: the trap value (log 117), a reservation of 8 aligned bytes (log 121), and the queue of accesses before
INIT_DONE (log 36). -/
def Obligations.MemoryAccesses : Prop :=
  (∀ (s : State) (q : Requester) (x a v : Nat), findsMem q x a = true → a % 8 = 0 → s.chip.reachable q = true →
     let c := s.chip.woken q
     ∃ t : State, exec (.registerWrite q x .full v) s = .next t ∧ t.pending = s.pending ∧
       (c.on F.SUP_STATUS_INIT_DONE = true →
         (∀ i, i < 8 → memByte t.mem (a + i) = BitVec.ofNat 8 (v / 256 ^ i)) ∧
         (∀ b, b < a ∨ a + 8 ≤ b → memByte t.mem b = memByte s.mem b) ∧ t.chip = { c.respond q 0 with harts := t.chip.harts } ∧
         ∀ k : Fin 4, t.chip.hart k = if q = .core k then c.hart k else { c.hart k with
           dcache := if a < 0x2100000 then (c.hart k).dcache.filter fun p => p.2 ≠ lineOf a else (c.hart k).dcache
           resv := (c.hart k).resv.filter fun r => r ≠ a / 8 }) ∧
       (c.on F.SUP_STATUS_INIT_DONE = false → t.mem = s.mem ∧
         t.chip = { c with supHeld := c.supHeld ++ [⟨q, a, .full, some v⟩] })) ∧
  (∀ (s : State) (q : Requester) (x a : Nat), findsMem q x a = true → a % 8 = 0 → s.chip.reachable q = true →
     (s.chip.woken q).on F.SUP_STATUS_INIT_DONE = true →
     Completes (.rcRead q x .lo) s fun d => d = (s.chip.woken q).respond q
       ((memByte s.mem a).toNat + 256 * (memByte s.mem (a + 1)).toNat + 65536 * (memByte s.mem (a + 2)).toNat +
         16777216 * (memByte s.mem (a + 3)).toNat)) ∧
  (∀ (s : State) (k : Fin 4) (x v : Nat) (h : Half), coreMap k x = .hole → Reaches s (.core k) →
     (∀ store : Bool, Completes (if store then .registerWrite (.core k) x h v else .rcRead (.core k) x h) s fun d =>
       d.hart k = (s.chip.hart k).trap false (if store then 7 else 5) x ∧ (∀ j, j ≠ k.val → d.hart j = s.chip.hart j) ∧
       d = { s.chip with harts := d.harts, bus := d.bus }))

/-! ## The Urold image (R41–R60) -/

/-- R53–R55, R59: START in IDLE begins a load, samples the flash range, and makes the digest invalid; outside IDLE it is ignored;
while an erasure runs it waits.

R46, R57–R59: ABORT ends a running load with CAUSE 5; CLEAR, accepted while no plan has been applied, returns the loader to IDLE
and unroutes every square, and waits where a plan has this boundary; HASH_REQ starts the hash outside a load. Otherwise each is ignored.

R54: a 64-bit write of the port delivers a word, lower and upper half deliver one together, an upper half alone and any write
outside a load from the port is dropped. While 64 words wait, the loader takes one first.

The model's choices in it: HASH_BUSY reads 0 after START (log 72), a CLEAR in an erasure drops what it holds (log 91), the loader takes
a word first where 64 wait (log 92), and CLEAR sets no PORT_DROP (log 125).

Completes with its own effect: imgStart, imgAbort, imgClear, hashReq, imgPortWrite. -/
def Obligations.ImageCommands : Prop :=
  (∀ q : Requester, Writes (.imgStart q) q aImgCtrl fun c d =>
     (c.img.erasing = true → d = { c with img := { c.img with heldStart := true } }) ∧
     (c.img.erasing = false → c.rd F.TOP_IMG_STATUS_STATE ≠ 0 → d = c) ∧
     (c.img.erasing = false → c.rd F.TOP_IMG_STATUS_STATE = 0 →
       d.rd F.TOP_IMG_STATUS_STATE = 1 ∧ d.rd F.TOP_IMG_STATUS_HASH_VALID = 0 ∧ d.rd F.TOP_IMG_STATUS_HASH_BUSY = 0 ∧
       d.img.phase = .header ∧ d.img.buf = [] ∧ d.img.flashAddr = c.rd F.TOP_IMG_FLASH_BASE ∧
       d.img.flashLeft = 1024 * (if c.rd F.TOP_IMG_FLASH_MAX_KIB = 0 then 4096 else c.rd F.TOP_IMG_FLASH_MAX_KIB) ∧
       d.img.space = c.img.space ∧ d = { c with regs := d.regs, img := d.img } ∧
       Keeps c d [F.TOP_IMG_STATUS_STATE, F.TOP_IMG_STATUS_HASH_VALID, F.TOP_IMG_STATUS_HASH_BUSY])) ∧
  (∀ q : Requester,
     (Writes (.imgAbort q) q aImgCtrl fun c d =>
       (c.rd F.TOP_IMG_STATUS_STATE ≠ 1 → d = c) ∧
       (c.rd F.TOP_IMG_STATUS_STATE = 1 → d.rd F.TOP_IMG_STATUS_STATE = 3 ∧ d.rd F.TOP_IMG_STATUS_CAUSE = 5 ∧ d.img.resolving = true ∧
         d.img.buf = [] ∧ d.img.space = c.img.space ∧ d = { c with regs := d.regs, img := d.img } ∧
         Keeps c d [F.TOP_IMG_STATUS_STATE, F.TOP_IMG_STATUS_CAUSE, F.TOP_IMG_STATUS_PORT_DROP])) ∧
     (Writes (.imgClear q) q aImgCtrl fun c d =>
       let first := ∃ x, x < 10 ∧ c.planHere x = true
       (first → d = { c with img := { c.img with clearLate := true } }) ∧
       (¬ first → c.on F.TOP_IMG_STATUS_PLANNED = true → d = c) ∧
       (¬ first → c.on F.TOP_IMG_STATUS_PLANNED = false →
         d.rd F.TOP_IMG_STATUS_STATE = 0 ∧ d.rd F.TOP_IMG_STATUS_CAUSE = 0 ∧ d.rd F.TOP_IMG_STATUS_RESOLVED = 0 ∧
         d.rd F.TOP_IMG_STATUS_HASH_VALID = 0 ∧ d.rd F.TOP_IMG_COUNT_WORDS = 0 ∧ d.img.erasing = true ∧ d.img.resolving = false ∧
         (∀ i, d.word i = 0) ∧ (∀ n, n < 128 → d.routed n = false ∧ d.sqState n = 0 ∧ d.bondSize n = 0) ∧
         (∀ w, w < 4 → d.rd (F.WG_SHARE_SHARE_MHZ w) = 0) ∧
         d = { c with regs := d.regs, img := d.img, sqs := d.sqs } ∧
         KeepsOff c d fun a => a < 0x100000 ∨ (0x1000000 ≤ a ∧ a < 0x1080000) ∨ (0x1200000 ≤ a ∧ a < 0x1300000))) ∧
     (Writes (.hashReq q) q aImgCtrl fun c d =>
       (c.img.erasing = true → d = { c with img := { c.img with heldHash := true } }) ∧
       (c.img.erasing = false → c.rd F.TOP_IMG_STATUS_STATE = 1 ∨ c.on F.TOP_IMG_STATUS_HASH_BUSY = true → d = c) ∧
       (c.img.erasing = false → c.rd F.TOP_IMG_STATUS_STATE ≠ 1 → c.on F.TOP_IMG_STATUS_HASH_BUSY = false →
         d.rd F.TOP_IMG_STATUS_HASH_BUSY = 1 ∧ RegsOnly c d [F.TOP_IMG_STATUS_HASH_BUSY]))) ∧
  (∀ (q : Requester) (h : Half) (v : Nat), Writes (.imgPortWrite q h v) q aImgPort fun c d =>
     let takes := fun c : Chip =>
       d = { c with regs := d.regs, img := d.img } ∧ Keeps c d [F.TOP_IMG_STATUS_PORT_DROP] ∧
       (c.rd F.TOP_IMG_STATUS_STATE ≠ 1 ∨ c.rd F.TOP_IMG_CTRL_SOURCE ≠ 0 → d.rd F.TOP_IMG_STATUS_PORT_DROP = 1 ∧ d.img = c.img) ∧
       (c.rd F.TOP_IMG_STATUS_STATE = 1 → c.rd F.TOP_IMG_CTRL_SOURCE = 0 →
         (h = .full → d.img.buf = c.img.buf ++ [v % 2 ^ 64] ∧ d.img.heldLo = none ∧
           (c.img.heldLo.isSome = true → d.rd F.TOP_IMG_STATUS_PORT_DROP = 1)) ∧
         (h = .lo → d.img = { c.img with heldLo := some (v % 2 ^ 32) }) ∧
         (h = .hi → c.img.heldLo = none → d.rd F.TOP_IMG_STATUS_PORT_DROP = 1 ∧ d.img = c.img) ∧
         (∀ l, h = .hi → c.img.heldLo = some l → d.img = { c.img with heldLo := none, buf := c.img.buf ++ [l + v % 2 ^ 32 * 2 ^ 32] }))
     (h = .lo ∨ c.img.buf.length < 64 → takes c) ∧
     (h ≠ .lo → 64 ≤ c.img.buf.length → takes c.imgConsume ∧
       ∀ n i w l, c.rd F.TOP_IMG_STATUS_STATE = 1 → c.img.phase = .data n i → c.img.buf = w :: l → c.imgConsume.img.buf = l))

/-- R44–R46, R55, R57: the loader takes one word per event. A WRITE header opens a run of COUNT words at TARGET; each data word is
stored, or counted as discarded; an end record or an error ends the load and starts resolution. An event that the loader's state
rules out changes nothing.

R48, R50, R59, R60: resolution routes exactly the squares that pass the checks on the stored words and resolves the shares, and the
hash starts; the hash is the SHA-256 of the stored words in order; a read of TOP_STRUCT_DATA returns the word and steps the index.

The model's choices in it: WORDS saturates (log 90), a pair's owner is its lower half's (log 99), and the mute sources of groups that
form (log 132).

Completes with its own effect: clearEraseDone, hashDone, flashBurstDone, imageWriteHeader, imageDataWord, imageEndRecord, imageBadHeader,
flashRangeExhausted, resolutionDone, structDataRead. -/
def Obligations.ImageLoading : Prop :=
  ((∀ (w : Nat) (l : List Nat),
     (Runs .imageWriteHeader fun c d => c.rd F.TOP_IMG_STATUS_STATE = 1 → c.img.phase = .header → c.img.buf = w :: l →
       bits w 0 8 = 1 → 1 ≤ bits w 8 13 → bits w 8 13 ≤ 4096 →
         d.img = { c.img with buf := l, phase := .data (bits w 8 13) (bits w 32 12) } ∧
         d.rd F.TOP_IMG_COUNT_WORDS = satU F.TOP_IMG_COUNT_WORDS.wd (c.rd F.TOP_IMG_COUNT_WORDS + 1) ∧
         Keeps c d [F.TOP_IMG_COUNT_WORDS] ∧ d = { c with regs := d.regs, img := d.img }) ∧
     (Runs .imageEndRecord fun c d => c.rd F.TOP_IMG_STATUS_STATE = 1 → c.img.phase = .header → c.img.buf = w :: l → bits w 0 8 = 0x0E →
         d.rd F.TOP_IMG_STATUS_STATE = 2 ∧ d.rd F.TOP_IMG_STATUS_CAUSE = 1 ∧ d.img.resolving = true ∧ d.img.buf = [] ∧
         d.img.space = c.img.space ∧ d = { c with regs := d.regs, img := d.img } ∧
         Keeps c d [F.TOP_IMG_COUNT_WORDS, F.TOP_IMG_STATUS_STATE, F.TOP_IMG_STATUS_CAUSE, F.TOP_IMG_STATUS_PORT_DROP]) ∧
     (Runs .imageBadHeader fun c d => c.rd F.TOP_IMG_STATUS_STATE = 1 → c.img.phase = .header → c.img.buf = w :: l →
       bits w 0 8 ≠ 0x0E → (bits w 0 8 = 1 → bits w 8 13 = 0 ∨ 4096 < bits w 8 13) →
         d.rd F.TOP_IMG_STATUS_STATE = 3 ∧ d.rd F.TOP_IMG_STATUS_CAUSE = (if bits w 0 8 = 1 then 3 else 2) ∧ d.img.resolving = true ∧
         d.img.space = c.img.space ∧ d = { c with regs := d.regs, img := d.img } ∧
         Keeps c d [F.TOP_IMG_COUNT_WORDS, F.TOP_IMG_STATUS_STATE, F.TOP_IMG_STATUS_CAUSE, F.TOP_IMG_STATUS_PORT_DROP]) ∧
     (∀ n i, Runs .imageDataWord fun c d => c.rd F.TOP_IMG_STATUS_STATE = 1 → c.img.phase = .data n i → c.img.buf = w :: l →
         d.img.buf = l ∧ d.img.phase = (if n ≤ 1 then .header else .data (n - 1) (i + 1)) ∧
         (i ≤ 0xFFF → structReserved i = false → d.img.space = SMap.put 0 c.img.space i w) ∧
         (0xFFF < i ∨ structReserved i = true → d.img.space = c.img.space ∧
           d.rd F.TOP_IMG_COUNT_DISCARDED = satU F.TOP_IMG_COUNT_DISCARDED.wd (c.rd F.TOP_IMG_COUNT_DISCARDED + 1)) ∧
         d = { c with regs := d.regs, img := d.img } ∧
         Keeps c d [F.TOP_IMG_COUNT_WORDS, F.TOP_IMG_COUNT_WRITES, F.TOP_IMG_COUNT_DISCARDED])) ∧
   (∀ ws : List Nat, Runs (.flashBurstDone ws) fun c d =>
       (c.rd F.TOP_IMG_STATUS_STATE = 1 → c.rd F.TOP_IMG_CTRL_SOURCE = 1 →
         let n := min 32 (c.img.flashLeft / 8)
         d = { c with img := { c.img with
               buf := c.img.buf ++ (ws.take n).map (· % 2 ^ 64), flashLeft := c.img.flashLeft - 8 * n,
               flashAddr := c.img.flashAddr + 8 * n } }) ∧
       (c.rd F.TOP_IMG_STATUS_STATE ≠ 1 ∨ c.rd F.TOP_IMG_CTRL_SOURCE ≠ 1 → d = c)) ∧
   (Runs .flashRangeExhausted fun c d => c.rd F.TOP_IMG_STATUS_STATE = 1 → c.rd F.TOP_IMG_CTRL_SOURCE = 1 → c.img.flashLeft < 8 →
       c.img.buf = [] → d.rd F.TOP_IMG_STATUS_STATE = 3 ∧ d.rd F.TOP_IMG_STATUS_CAUSE = 4 ∧ d.img.resolving = true ∧
         d.img.space = c.img.space ∧ d = { c with regs := d.regs, img := d.img } ∧
         Keeps c d [F.TOP_IMG_STATUS_STATE, F.TOP_IMG_STATUS_CAUSE]) ∧
   (Runs .clearEraseDone fun c d =>
       (c.img.erasing = false → d = c) ∧
       (c.img.erasing = true → d.img.space = [] ∧ d.img.erasing = false ∧ d.img.heldStart = false ∧ d.img.heldHash = false ∧
         d = { c with regs := d.regs, img := d.img } ∧
         (c.img.heldStart = true → c.rd F.TOP_IMG_STATUS_STATE = 0 → d.rd F.TOP_IMG_STATUS_STATE = 1) ∧
         (c.img.heldStart = false → d.rd F.TOP_IMG_STATUS_STATE = c.rd F.TOP_IMG_STATUS_STATE) ∧
         Keeps c d [F.TOP_IMG_STATUS_STATE, F.TOP_IMG_STATUS_HASH_VALID, F.TOP_IMG_STATUS_HASH_BUSY]))) ∧
  ((Runs .resolutionDone fun c d =>
     (c.img.resolving = false → d = c) ∧
     (c.img.resolving = true →
       d.rd F.TOP_IMG_STATUS_RESOLVED = 1 ∧ d.rd F.TOP_IMG_STATUS_HASH_BUSY = 1 ∧ d.img = { c.img with resolving := false } ∧
       (∀ n, n < 128 → d.routed n = c.routedSet.contains n) ∧ (∀ w, w < 4 → d.rd (F.WG_SHARE_SHARE_MHZ w) = c.share w) ∧
       d = { c with regs := d.regs, img := d.img, sqs := d.sqs, cap := d.cap } ∧
       KeepsOff c d fun a => a < 0x100000 ∨ (0x1000000 ≤ a ∧ a < 0x1080000) ∨ (0x1200000 ≤ a ∧ a < 0x1300000) ∨
         (0x1F00000 ≤ a ∧ a < 0x2000000))) ∧
   (Runs .hashDone fun c d =>
     (c.on F.TOP_IMG_STATUS_HASH_BUSY = false ∨ c.img.resolving = true → d = c) ∧
     (c.on F.TOP_IMG_STATUS_HASH_BUSY = true → c.img.resolving = false →
       d.rd F.TOP_IMG_STATUS_HASH_BUSY = 0 ∧ d.rd F.TOP_IMG_STATUS_HASH_VALID = 1 ∧
       (∀ j, j < 4 → leBytes 4 (d.rd (F.TOP_HASH_DIGEST_LO j)) ++ leBytes 4 (d.rd (F.TOP_HASH_DIGEST_HI j)) =
         ((sha256 c.spaceBytes).drop (8 * j)).take 8) ∧
       RegsOnly c d ([F.TOP_IMG_STATUS_HASH_BUSY, F.TOP_IMG_STATUS_HASH_VALID] ++
         (List.range 4).flatMap fun j => [F.TOP_HASH_DIGEST_LO j, F.TOP_HASH_DIGEST_HI j]))) ∧
   (∀ (q : Requester) (h : Half), Reads (.structDataRead q h) q aStructData fun c d =>
     d.bus = { req := q, data := h.data (c.word (c.rd F.TOP_STRUCT_ADDR_INDEX)) } ∧
     d.rd F.TOP_STRUCT_ADDR_INDEX = (if h.hasHi = true ∧ c.on F.TOP_STRUCT_ADDR_AUTOINC = true
       then (c.rd F.TOP_STRUCT_ADDR_INDEX + 1) % 4096 else c.rd F.TOP_STRUCT_ADDR_INDEX) ∧
     Keeps c d [F.TOP_STRUCT_ADDR_INDEX] ∧ d = { c with regs := d.regs, bus := d.bus }))

/-! ## Die bridges, wings and package power (R28, R32–R37, R192) -/

/-- R32–R34: training, its timeout, a lost bridge, and flits that fail their check: the fourth of 16 on a lane is a cause of loss. A loss takes the bridge to DOWN, the registers read
STALE, every square is muted by its bridge, and a die in STARTCAL or RUN goes to SAFE.

R28, R192: MS_BRIDGE of a square ends at a tempo boundary at which its dies have been good for 16 + FIR_TAPS slot samples; nothing
else changes.

The model's choices in it: what follows a control flit that is to be sent again waits (log 83), and a sample flit reported failed takes
its place at the front of the lane's next (log 20).

Completes with its own effect: sampleFlitCrcFail, controlFlitCrcFail, controlFlitRetransmit, bridgeLoss, bridgeTrainStart, bridgeUp,
bridgeTrainTimeout, bridgeMuteClear. -/
def Obligations.Bridges : Prop :=
  (∀ e : Fin 2,
     (Runs (.bridgeTrainStart e) fun c d =>
       d = { c with bridges := d.bridges } ∧ (∀ j, j ≠ e.val → d.br j = c.br j) ∧
       ((c.br e).st = 0 → c.supplyOk e = true → (c.cv e).hot = false → c.on (F.CNV_STATUS_CKM_LOCK e) = true →
         c.bridgeBarred e = false → d.br e = { c.br e with st := 1 }) ∧
       ((c.br e).st ≠ 0 ∨ c.supplyOk e = false ∨ (c.cv e).hot = true ∨ c.on (F.CNV_STATUS_CKM_LOCK e) = false ∨
         c.bridgeBarred e = true → d = c)) ∧
     (Runs (.bridgeTrainTimeout e) fun c d =>
       d = { c with bridges := d.bridges } ∧ (∀ j, j ≠ e.val → d.br j = c.br j) ∧
       d.br e = (if (c.br e).st = 1 then { c.br e with st := 0 } else c.br e)) ∧
     (Runs (.controlFlitRetransmit e) fun c d =>
       let again := fun k : Option Nat => k.isSome = true ∧ k ≠ some 3
       (again (c.br e).retxUp → d = { c with bridges := d.bridges } ∧ d.br e = { (c.flitSeen e 16 false).br e with retxUp := none } ∧
         (∀ j, j ≠ e.val → d.br j = c.br j)) ∧
       (¬ again (c.br e).retxUp → again (c.br e).retxDn → (d.br e).retxDn = none ∧ (d.cv e).held = [] ∧
         ((c.cv e).held = [] → d = { c with bridges := d.bridges, cnvs := d.cnvs } ∧
           d.br e = { (c.flitSeen e 17 false).br e with retxDn := none })) ∧
       (¬ again (c.br e).retxUp → ¬ again (c.br e).retxDn → d = c)) ∧
     (∀ (up : Bool) (k : Fin 4), Runs (.controlFlitCrcFail e up k) fun c d =>
       let fails := (c.br e).st = 2 ∧ (if up then (c.br e).retxUp else (c.br e).retxDn) = (if k.val = 0 then none else some (k.val - 1))
       (¬ fails → d = c) ∧
       (fails → Recorded c d (404 + e) 2 ∧ KeepsOff c d inFlt ∧ d = { c with regs := d.regs, flt := d.flt, bridges := d.bridges } ∧
         d.br e = (if up then { (c.flitSeen e 16 true).br e with retxUp := some k.val }
           else { (c.flitSeen e 17 true).br e with retxDn := some k.val }))) ∧
     (∀ (up : Bool) (l : Fin 8), Runs (.sampleFlitCrcFail e up l) fun c d =>
       let lane := if up then l.val else 8 + l.val
       let last := (2 * SMap.get 0 (c.br e).flits lane + 1) % 2 ^ 16
       ((c.br e).st ≠ 2 → d = c) ∧
       ((c.br e).st = 2 → Recorded c d (404 + e) 1 ∧ (up = true → d.suspended (8 * e + l) = true) ∧
         (up = false → d.laneSusp = c.laneSusp) ∧ KeepsOff c d inFlt ∧
         (up = true → SMap.get 0 d.rxLost (8 * e + l) = SMap.get 0 c.rxLost (8 * e + l) + 1 ∧ d.dacFlit = c.dacFlit) ∧
         (up = false → SMap.get 0 d.dacFlit (8 * e + l) = sampleFlit [] ∧ ∀ i, i < 16 → SMap.get 0 d.rxLost i = SMap.get 0 c.rxLost i) ∧
         SMap.get 0 (d.br e).flits lane = last ∧
         (d.br e).crcLoss = ((c.br e).crcLoss || decide (4 ≤ (List.range 16).countP fun i => bit last i)) ∧
         (d.br e).st = 2 ∧ (∀ j, j ≠ e.val → d.br j = c.br j) ∧
         d = { c with regs := d.regs, flt := d.flt, bridges := d.bridges, laneSusp := d.laneSusp, rxLost := d.rxLost, dacFlit := d.dacFlit })) ∧
     (∀ k : Fin 4, Runs (.bridgeLoss e k) fun c d =>
       ((c.br e).st ≠ 2 ∨ c.lossMet e k = false → d = c) ∧
       ((k = 0 → c.lossMet e k = (c.br e).crcLoss) ∧
         (k = 1 → (c.lossMet e k = true ↔ (c.br e).retxUp = some 3 ∨ (c.br e).retxDn = some 3)) ∧
         (k = 3 → (c.lossMet e k = true ↔ c.on (F.CNV_STATUS_CKM_LOCK e) = false)) ∧ (k = 2 → c.lossMet e k = true)) ∧
       ((c.br e).st = 2 → c.lossMet e k = true → (d.br e).st = 0 ∧ (∀ j, j ≠ e.val → d.br j = c.br j) ∧ d.rd (F.CNV_STATUS_STALE e) = 1 ∧
         d.rd (F.CNV_STATUS_STATE e) =
           (if c.rd (F.CNV_STATUS_STATE e) = 2 ∨ c.rd (F.CNV_STATUS_STATE e) = 3 then 4 else c.rd (F.CNV_STATUS_STATE e)) ∧
         (∀ n, n < 128 → d.on (F.SQ_STATUS_MS_BRIDGE (d.leader n)) = true ∧ d.sqState (d.leader n) ≠ 2 ∧ d.sqState (d.leader n) ≠ 3) ∧
         (c.srcBit F.FLT_ACTIVE_ACTIVE (406 + e) = false → Recorded c d (406 + e) (k + 1)) ∧ d.img = c.img ∧ d.zmd = c.zmd)) ∧
     (Runs (.bridgeUp e) fun c d =>
       ((c.br e).st ≠ 1 → d = c) ∧
       ((c.br e).st = 1 → (d.br e).st = 2 ∧ (d.br e).fresh = false ∧ (d.cv e).held = [] ∧
         ((c.cv e).held = [] → d.br e = { c.br e with st := 2, fresh := false } ∧ d.rd (F.CNV_STATUS_STALE e) = 0 ∧
           (c.rd (F.CNV_STATUS_STATE e) = 4 → c.on (F.CNV_STATUS_CKM_LOCK e) = true → (c.cv e).cut = false →
             d.rd (F.CNV_STATUS_STATE e) = 3) ∧
           (c.rd (F.CNV_STATUS_STATE e) ≠ 4 → d.rd (F.CNV_STATUS_STATE e) = c.rd (F.CNV_STATUS_STATE e)))))) ∧
  (∀ n : Fin 128, Runs (.bridgeMuteClear n) fun c d =>
     ((c.sq (c.leader n)).brGood = none → d = c) ∧
     (∀ t, (c.sq (c.leader n)).brGood = some t →
       (c.air.onB = true → c.routed (c.leader n) = true →
         (16 + c.firTaps (c.leader n)) * 16000 ≤ (c.air.mono - t) * c.slotBw (c.leader n) →
         d.rd (F.SQ_STATUS_MS_BRIDGE (c.leader n)) = 0 ∧ (d.sq (c.leader n)).brDies = 0 ∧
         (∀ j, j ∉ c.group (c.leader n) → d.sq j = c.sq j) ∧ Keeps c d [F.SQ_STATUS_MS_BRIDGE (c.leader n)] ∧
         d = { c with regs := d.regs, sqs := d.sqs }) ∧
       (c.air.onB = false → d = c)))

/-- R36, R37: at a tempo boundary whose tempo number is a multiple of 16 the wing, package and tenant sums take the power now sent, and
a wing above its limit shows OVER; at any other moment nothing changes.

The model's choices in it: the linear scale of the sums (log 54), and the two ends of a limit (log 65).

Completes with its own effect: powerSumUpdate. -/
def Obligations.PowerSums : Prop :=
  Runs .powerSumUpdate fun c d =>
    (c.air.onB = false ∨ c.tempoNum % 16 ≠ 0 → d = c) ∧
    (c.air.onB = true → c.tempoNum % 16 = 0 →
      (∀ w, w < 4 → d.rd (F.WG_MEAS_TX_SUM w) = powReg (c.sumOut (wingSquares w)) ∧
        d.rd (F.WG_MEAS_OVER w) = (if powReg (c.sumOut (wingSquares w)) ≠ 0x8000 ∧
          c.effLimit w < toS 16 (powReg (c.sumOut (wingSquares w))) then 1 else c.rd (F.WG_MEAS_OVER w))) ∧
      d.rd F.WG_PKG_MEAS_DONOR_SUM = powReg (c.sumOut (allSquares.filter isUl)) ∧
      d.rd F.WG_PKG_MEAS_SERVICE_SUM = powReg (c.sumOut (allSquares.filter fun n => !isUl n)) ∧
      (∀ f, 1 ≤ f → f ≤ 8 → d.rd (F.TEN_MEAS_DONOR_SUM f) = powReg (c.sumOut (c.ownEnabled f true)) ∧
        d.rd (F.TEN_MEAS_SERVICE_SUM f) = powReg (c.sumOut (c.ownEnabled f false))) ∧
      RegsOnly c d ([F.WG_PKG_MEAS_DONOR_SUM, F.WG_PKG_MEAS_SERVICE_SUM] ++
        ((List.range 4).flatMap fun w => [F.WG_MEAS_TX_SUM w, F.WG_MEAS_OVER w]) ++
        (List.range 8).flatMap fun i => [F.TEN_MEAS_DONOR_SUM (i + 1), F.TEN_MEAS_SERVICE_SUM (i + 1)]))

/-! ## Converter dies (R87–R103, R464) -/

/-- R97, R464: POWER_EN = 1 starts a die in OFF that has supply and is not hot; POWER_EN = 0 takes it to OFF and its bridge down; RECAL
is forwarded, and from RUN or SAFE starts STARTCAL again.

The model's choices in it: the lane settings are kept through OFF (log 129).

Completes with its own effect: cnvPowerEnWrite, cnvRecal. -/
def Obligations.ConverterPower : Prop :=
  ∀ (q : Requester) (e : Fin 2),
    (Writes (.cnvPowerEnWrite q e true) q (0x200008 + 0x100000 * e) fun c d =>
      d.rd (F.CNV_CTRL_POWER_EN e) = 1 ∧
      (c.rd (F.CNV_STATUS_STATE e) = 0 → c.supplyOk e = true → c.refIn = true → (c.cv e).hot = false →
        d.rd (F.CNV_STATUS_STATE e) = 1 ∧ (d.cv e).ckmTry = true ∧
        Keeps c d [F.CNV_CTRL_POWER_EN e, F.CNV_STATUS_STATE e, F.CNV_INT_STATUS_STATE_CHG e]) ∧
      (c.rd (F.CNV_STATUS_STATE e) ≠ 0 ∨ c.supplyOk e = false ∨ c.refIn = false ∨ (c.cv e).hot = true →
        RegsOnly c d [F.CNV_CTRL_POWER_EN e])) ∧
    (Writes (.cnvPowerEnWrite q e false) q (0x200008 + 0x100000 * e) fun c d =>
      d.rd (F.CNV_CTRL_POWER_EN e) = 0 ∧ d.rd (F.CNV_STATUS_STATE e) = 0 ∧
      (c.rd (F.CNV_STATUS_STATE e) ≠ 0 → (d.br e).st = 0 ∧ d.rd (F.CNV_STATUS_CKM_LOCK e) = 0 ∧ (d.cv e).ckmTry = false ∧
        (∀ j, j ≠ e.val → d.br j = c.br j)) ∧
      (c.rd (F.CNV_STATUS_STATE e) = 0 → RegsOnly c d [F.CNV_CTRL_POWER_EN e])) ∧
    (Writes (.cnvRecal q e) q (0x200008 + 0x100000 * e) fun c d =>
      Forwarded e ⟨0x200008 + 0x100000 * e, .lo,
          2 + 4 * c.rd (F.CNV_CTRL_BG_OG e) + 8 * c.rd (F.CNV_CTRL_AUTO_SKEW e)⟩ (fun c d =>
        (c.rd (F.CNV_STATUS_STATE e) = 3 ∨ c.rd (F.CNV_STATUS_STATE e) = 4 →
          d.rd (F.CNV_STATUS_STATE e) = 2 ∧ (d.cv e).phase = 0 ∧ d.br e = c.br e) ∧
        (c.rd (F.CNV_STATUS_STATE e) ≠ 3 → c.rd (F.CNV_STATUS_STATE e) ≠ 4 →
          RegsOnly c d [F.CNV_CTRL_BG_OG e, F.CNV_CTRL_AUTO_SKEW e])) c d)

/-- R34, R88, R97, R98: the clock manager locks, fails or loses lock, and the start sequence advances: CLOCKING to STARTCAL when both
dies have one rate, phases A, B and C, then RUN; from SAFE with the bridge UP back to RUN, or to STARTCAL if that was cut short.

R87, R94, R95: a write of a synthesiser is forwarded. An enabled synthesiser that an online lane uses refuses another frequency;
else it takes a frequency in range and EN, and loses lock; disabling it blanks. Lock, loss of lock and the end of the blank.

The model's choices in it: an out-of-range write while an online lane uses the synthesiser keeps N and F and is not refused (log 76),
and what the start-up calibration reports (log 79).

Completes with its own effect: ckmLock, cnvClockingDone, ckmFail, ckmUnlock, startcalPhaseDone, synWrite, synLock, synUnlock, synBlankEnd. -/
def Obligations.ConverterClocks : Prop :=
  (∀ e : Fin 2,
     (Runs (.ckmLock e) fun c d => (c.cv e).ckmTry = true → c.on (F.CNV_STATUS_CKM_LOCK e) = false →
       d.rd (F.CNV_STATUS_CKM_LOCK e) = 1 ∧ (d.cv e).ckmTry = false ∧ d.bridges = c.bridges ∧
       d.rd (F.CNV_STATUS_STATE e) = (if c.rd (F.CNV_STATUS_STATE e) = 4 ∧ (c.br e).st = 2
         then (if (c.cv e).cut then 2 else 3) else c.rd (F.CNV_STATUS_STATE e))) ∧
     (Runs (.ckmFail e) fun c d =>
       ((c.cv e).ckmTry = false ∨ c.on (F.CNV_STATUS_CKM_LOCK e) = true → d = c) ∧
       ((c.cv e).ckmTry = true → c.on (F.CNV_STATUS_CKM_LOCK e) = false →
         d.rd (F.CNV_STATUS_CKM_FAIL e) = 1 ∧ (d.cv e).ckmTry = false ∧
         (c.srcBit F.FLT_ACTIVE_ACTIVE (412 + e) = false → Recorded c d (412 + e) 2) ∧
         KeepsOff c d (fun a => inFlt a ∨ a = 0x200018 + 0x100000 * e) ∧
         d = { c with regs := d.regs, flt := d.flt, cnvs := d.cnvs })) ∧
     (Runs (.ckmUnlock e) fun c d =>
       (c.on (F.CNV_STATUS_CKM_LOCK e) = false → d = c) ∧
       (c.on (F.CNV_STATUS_CKM_LOCK e) = true → d.rd (F.CNV_STATUS_CKM_LOCK e) = 0 ∧ (d.cv e).ckmTry = true ∧ (d.br e).st = 0 ∧
         ((c.br e).st = 2 → c.rd (F.CNV_STATUS_STATE e) = 3 → d.rd (F.CNV_STATUS_STATE e) = 4) ∧
         (c.rd (F.CNV_STATUS_STATE e) ≠ 1 → c.srcBit F.FLT_ACTIVE_ACTIVE (412 + e) = false → Recorded c d (412 + e) 1))) ∧
     (Runs (.cnvClockingDone e) fun c d =>
       (c.rd (F.CNV_STATUS_STATE e) = 1 → c.on (F.CNV_STATUS_CKM_LOCK e) = true → (c.br e).st = 2 →
         c.rd (F.CNV_CLK_RATE_K 0) = c.rd (F.CNV_CLK_RATE_K 1) → d.rd (F.CNV_STATUS_STATE e) = 2 ∧ (d.cv e).phase = 0) ∧
       (c.rd (F.CNV_STATUS_STATE e) = 1 → c.on (F.CNV_STATUS_CKM_LOCK e) = true → (c.br e).st = 2 →
         c.rd (F.CNV_CLK_RATE_K 0) ≠ c.rd (F.CNV_CLK_RATE_K 1) →
           d.rd (F.CNV_INT_STATUS_RATE_MISMATCH 0) = 1 ∧ d.rd (F.CNV_INT_STATUS_RATE_MISMATCH 1) = 1 ∧
           RegsOnly c d [F.CNV_INT_STATUS_RATE_MISMATCH 0, F.CNV_INT_STATUS_RATE_MISMATCH 1]) ∧
       (c.rd (F.CNV_STATUS_STATE e) ≠ 1 ∨ c.on (F.CNV_STATUS_CKM_LOCK e) = false ∨ (c.br e).st ≠ 2 → d = c)) ∧
     (∀ r : List (List Nat), Runs (.startcalPhaseDone e r) fun c d =>
       (c.rd (F.CNV_STATUS_STATE e) ≠ 2 → d = c) ∧
       (c.rd (F.CNV_STATUS_STATE e) = 2 → (c.cv e).phase = 0 → (d.cv e).phase = 1 ∧ d = { c with cnvs := d.cnvs }) ∧
       (c.rd (F.CNV_STATUS_STATE e) = 2 → (c.cv e).phase = 1 →
         (∀ l, l < 8 → c.rd (F.CNV_STATUS_BAND e) < 6 → d.rdBit (F.CNV_SKEW_VALID_VALID e) (6 * l + c.rd (F.CNV_STATUS_BAND e)) = true) ∧
         ((∀ l, l < 8 → c.phaseC e l = false) → d.rd (F.CNV_STATUS_STATE e) = 3) ∧
         ((∃ l, l < 8 ∧ c.phaseC e l = true) → d.rd (F.CNV_STATUS_STATE e) = 2 ∧ (d.cv e).phase = 2)) ∧
       (c.rd (F.CNV_STATUS_STATE e) = 2 → (c.cv e).phase = 2 → d.rd (F.CNV_STATUS_STATE e) = 3))) ∧
  (∀ e y : Fin 2,
     (∀ (q : Requester) (h : Half) (v : Nat),
       Writes (.synWrite q e y h v) q (0x200020 + 0x100000 * e + 8 * y) (Forwarded e ⟨0x200020 + 0x100000 * e + 8 * y, h, v⟩ fun c d =>
         let n := fldNew (F.CNV_SYN_N e y) h (c.rd (F.CNV_SYN_N e y)) (h.image v)
         let f := fldNew (F.CNV_SYN_F e y) h (c.rd (F.CNV_SYN_F e y)) (h.image v)
         let en := fldNew (F.CNV_SYN_EN e y) h (b2n (c.on (F.CNV_SYN_EN e y))) (h.image v)
         let tune := loOk n f = true ∧ h.hasLo = true
         let used := c.on (F.CNV_SYN_EN e y) = true ∧ ∃ l, l < 8 ∧ c.online e l = true ∧ c.usesSyn e l y = true
         (tune ∧ used → d.rd (F.CNV_INT_STATUS_RETUNE_REFUSED e) = 1 ∧ RegsOnly c d [F.CNV_INT_STATUS_RETUNE_REFUSED e]) ∧
         (¬ (tune ∧ used) →
           (tune → d.rd (F.CNV_SYN_N e y) = n ∧ d.rd (F.CNV_SYN_F e y) = f) ∧
           (¬ tune → d.rd (F.CNV_SYN_N e y) = c.rd (F.CNV_SYN_N e y) ∧ d.rd (F.CNV_SYN_F e y) = c.rd (F.CNV_SYN_F e y)) ∧
           d.rd (F.CNV_SYN_EN e y) = en ∧
           ((tune ∧ en = 1) ∨ b2n (c.on (F.CNV_SYN_EN e y)) ≠ en → d.dieRd e (synLockFld e y) = 0) ∧
           (c.on (F.CNV_SYN_EN e y) = true → en = 0 → bit (d.cv e).synBlank y = true) ∧
           KeepsOff c d (fun a => inFlt a ∨ a = 0x200020 + 0x100000 * e + 8 * y) ∧
           d = { c with regs := d.regs, flt := d.flt, cnvs := d.cnvs }))) ∧
     (Runs (.synLock e y) fun c d =>
       c.on (F.CNV_SYN_EN e y) = true → c.rd (F.CNV_STATUS_STATE e) ≠ 0 → c.dieRd e (synLockFld e y) = 0 →
         d.dieRd e (synLockFld e y) = 1 ∧ KeepsOff c d inFlt ∧ d = { c with regs := d.regs, flt := d.flt, cnvs := d.cnvs }) ∧
     (Runs (.synUnlock e y) fun c d =>
       (c.on (F.CNV_SYN_EN e y) = false ∨ c.dieRd e (synLockFld e y) ≠ 1 → d = c) ∧
       (c.on (F.CNV_SYN_EN e y) = true → c.dieRd e (synLockFld e y) = 1 →
         d.dieRd e (synLockFld e y) = 0 ∧ bit (d.cv e).synBlank y = true ∧ d.rd (F.CNV_INT_STATUS_SYN_UNLOCK e) = 1 ∧
         (c.srcBit F.FLT_ACTIVE_ACTIVE (412 + e) = false → Recorded c d (412 + e) (3 + y)) ∧
         d = { c with regs := d.regs, flt := d.flt, cnvs := d.cnvs })) ∧
     (Runs (.synBlankEnd e y) fun c d =>
       (bit (c.cv e).synBlank y = false → d = c) ∧
       (c.on (F.CNV_SYN_EN e y) = true → c.dieRd e (synLockFld e y) = 1 → bit (c.cv e).synBlank y = true →
         bit (d.cv e).synBlank y = false ∧ c.regs = d.regs ∧ d = { c with cnvs := d.cnvs, laneSusp := d.laneSusp } ∧
         (∀ l, l < 8 → c.online e l = true → c.usesSyn e l y = true →
           d.suspended (8 * e + l) = true ∧ d.suspended (16 + 8 * e + l) = true))))

/-- R37, R87, R96, R103: the registers of a lane, with the limits of the wings that follow the lane count; its going online at a tempo
boundary, the values a control flit brings, and the change of the skew table at a boundary.

The model's choices in it: LANE_REFUSED with a change of ONLINE (log 78), no suspension for a lane that goes offline under a blank (log
77), status values wait for a flit (log 63), and a band change against a skew write (log 84).

Completes with its own effect: cnvStatusRefresh, cnvLaneWrite, laneOnline, skewBandSwitch. -/
def Obligations.ConverterLanes : Prop :=
  ∀ e : Fin 2,
    (∀ (q : Requester) (l : Fin 8) (h : Half) (v : Nat),
      Writes (.cnvLaneWrite q e l h v) q (0x200040 + 0x100000 * e + 8 * l) (Forwarded e ⟨0x200040 + 0x100000 * e + 8 * l, h, v⟩ fun c d =>
        let ask := fldNew (F.CNV_LANE_ONLINE e l) h (b2n (c.on (F.CNV_LANE_ONLINE e l))) (h.image v)
        let rx := fldNew (F.CNV_LANE_RX_PATH e l) h (c.rd (F.CNV_LANE_RX_PATH e l)) (h.image v)
        let on := ask = 1 ∧ (c.on (F.CNV_LANE_ONLINE e l) = true ∨ c.rd (F.CNV_STATUS_STATE e) = 3)
        let muted := (List.range 128).flatMap fun n => [F.SQ_STATUS_MS_WING n, F.SQ_STATUS_STATE n]
        (on → d.rd (F.CNV_LANE_ONLINE e l) = 1 ∧ Keeps c d ([F.CNV_LANE_ONLINE e l, F.CNV_INT_STATUS_LANE_REFUSED e] ++ muted) ∧
          d = { c with regs := d.regs, sqs := d.sqs, cnvs := d.cnvs } ∧ d.online e l = c.online e l ∧
          (c.on (F.CNV_LANE_ONLINE e l) = true → d.cnvs = c.cnvs) ∧
          (c.on (F.CNV_LANE_ONLINE e l) = false → (d.cv e).onDue.find l = some (c.air.tempi + 1))) ∧
        (¬ on → d.rd (F.CNV_LANE_ONLINE e l) = 0 ∧ d.online e l = false ∧
          (rx ≠ 3 → d.rd (F.CNV_LANE_RX_PATH e l) = rx) ∧
          d.rd (F.CNV_LANE_TX_PATH e l) = fldNew (F.CNV_LANE_TX_PATH e l) h (c.rd (F.CNV_LANE_TX_PATH e l)) (h.image v) ∧
          d.rd (F.CNV_LANE_LO_SEL e l) = fldNew (F.CNV_LANE_LO_SEL e l) h (c.rd (F.CNV_LANE_LO_SEL e l)) (h.image v) ∧
          Keeps c d ([F.CNV_LANE_ONLINE e l, F.CNV_LANE_RX_PATH e l, F.CNV_LANE_TX_PATH e l, F.CNV_LANE_LO_SEL e l] ++ muted) ∧
          d = { c with regs := d.regs, sqs := d.sqs, cnvs := d.cnvs }) ∧
        (b2n (c.on (F.CNV_LANE_ONLINE e l)) = d.rd (F.CNV_LANE_ONLINE e l) → d.sqs = c.sqs ∧ Keeps c d [F.CNV_LANE_ONLINE e l,
          F.CNV_LANE_RX_PATH e l, F.CNV_LANE_TX_PATH e l, F.CNV_LANE_LO_SEL e l, F.CNV_INT_STATUS_LANE_REFUSED e]) ∧
        (b2n (c.on (F.CNV_LANE_ONLINE e l)) ≠ d.rd (F.CNV_LANE_ONLINE e l) → (∀ m, m < 128 → c.leader m / 32 = m / 32) → ∀ w, w < 4 → ∀ n ∈ wingSquares w, c.leader n = n →
          d.on (F.SQ_STATUS_MS_WING n) = (c.wingFaulted w || d.wingLimited w)))) ∧
    (∀ l : Fin 8, Runs (.laneOnline e l) fun c d =>
      (∀ t, (c.cv e).onDue.find l = some t → c.air.onB = true → t ≤ c.air.tempi → d.online e l = true ∧
        (d.cv e).onDue.find l = none ∧ d = { c with cnvs := d.cnvs } ∧ (∀ j, j ≠ e.val → d.cv j = c.cv j)) ∧
      (∀ t, (c.cv e).onDue.find l = some t → c.air.onB = false ∨ c.air.tempi < t → d = c) ∧
      ((c.cv e).onDue.find l = none → d = c)) ∧
    (∀ k : List Nat, Runs (.cnvStatusRefresh e k) fun c d =>
      ((c.br e).st ≠ 2 ∨ (c.br e).retxUp.isSome = true → d = c) ∧
      ((c.br e).st = 2 → (c.br e).retxUp = none → (d.cv e).die = [] ∧
        d.br e = { (c.flitSeen e 16 false).br e with seqUp := ((c.br e).seqUp + 1) % 256 } ∧
        d = { c with regs := d.regs, cnvs := d.cnvs, bridges := d.bridges } ∧
        (∀ (f : Fld) (v : Nat), (c.cv e).die = [(f.key, (f, v))] → (∀ l, l < 8 → f.key ≠ (F.CNV_LANE_OVL_COUNT e l).key) →
          f.key ≠ (F.CNV_INT_STATUS_OVERLOAD e).key → d.rd f = v % 2 ^ f.wd) ∧
        ((c.cv e).die = [] → ∀ l, l < 8 →
          d.rd (F.CNV_LANE_OVL_COUNT e l) = (if k.getD l 0 = 0 then c.rd (F.CNV_LANE_OVL_COUNT e l)
            else satU 16 (c.rd (F.CNV_LANE_OVL_COUNT e l) + k.getD l 0)) ∧
          (k.getD l 0 ≠ 0 → c.rd (F.CNV_LANE_OVL_COUNT e l) = 0 → d.rd (F.CNV_INT_STATUS_OVERLOAD e) = 1)))) ∧
    (Runs (.skewBandSwitch e) fun c d =>
      (c.rd (F.CNV_STATUS_STATE e) = 0 → d = c) ∧
      d = { c with regs := d.regs, cnvs := d.cnvs } ∧ Keeps c d [F.CNV_INT_STATUS_SKEW_STALE e] ∧
      (∀ t, c.rd (F.CNV_STATUS_STATE e) ≠ 0 → (c.cv e).skewDue = some t → c.air.onB = true → t ≤ c.air.tempi →
        (d.cv e).skewDue = none ∧ ∀ l, l < 8 → c.on (F.CNV_CTRL_AUTO_SKEW e) = true →
          (c.rdBit (F.CNV_SKEW_VALID_VALID e) (6 * l + c.rd (F.CNV_STATUS_BAND e)) = true → ∀ k, k < 8 →
            SMap.get 0 (d.cv e).skewNow (8 * l + k) = c.rd (skewFld e l (c.rd (F.CNV_STATUS_BAND e)) k)) ∧
          (c.rdBit (F.CNV_SKEW_VALID_VALID e) (6 * l + c.rd (F.CNV_STATUS_BAND e)) = false →
            d.rd (F.CNV_INT_STATUS_SKEW_STALE e) = 1)) ∧
      (∀ l b t, c.rd (F.CNV_STATUS_STATE e) ≠ 0 → (c.cv e).skewHost = [(l, (b, t))] → (c.cv e).skewDue = none → c.air.onB = true →
        t ≤ c.air.tempi → (d.cv e).skewHost = [] ∧
          ∀ k, k < 8 → SMap.get 0 (d.cv e).skewNow (8 * l + k) = c.rd (skewFld e l b k)))

/-- R99–R102: a calibration step starts at a boundary if it ends before its window closes; one that is not spoilt counts, and the last
one completes the calibration, whose corrections apply at the next boundary; the window closes at its time.

The model's choices in it: types 4 and 5 on a lane without a mixer path (log 80).

Completes with its own effect: calStepStart, calStepDone, calApply, calWindowClose. -/
def Obligations.CalibrationWindow : Prop :=
  ∀ (e : Fin 2) (w : CalWin),
    (Runs (.calStepStart e) fun c d => (c.cv e).win = some w →
      (c.air.onB = true → w.step = none → w.stop = false → c.air.mono + 4096 * calLen w.ty ≤ w.closeAt →
        (d.cv e).win = some { w with step := some (c.air.mono + 4096 * calLen w.ty), bad := c.calSpoilt e w, drops := c.zmd.drops } ∧
        d = { c with cnvs := d.cnvs }) ∧
      (c.air.onB = false ∨ w.step.isSome = true ∨ w.stop = true ∨ w.closeAt < c.air.mono + 4096 * calLen w.ty → d = c)) ∧
    (∀ (r : List (List Nat)) (t : Nat), Runs (.calStepDone e r) fun c d => (c.cv e).win = some w → w.step = some t →
      let spoilt := w.bad = true ∨ w.stop = true ∨ (3 ≤ w.ty ∧ w.drops ≠ c.zmd.drops)
      (c.air.mono < t → d = c) ∧
      (t ≤ c.air.mono → (d.cv e).win = some { w with step := none, bad := false } ∧ d = { c with regs := d.regs, cnvs := d.cnvs } ∧
        Keeps c d [F.CNV_INT_STATUS_CAL_DONE e, F.CNV_INT_STATUS_IRR_LOW e] ∧
        (spoilt → (d.cv e).die = (c.cv e).die ∧ (d.cv e).calApply = (c.cv e).calApply) ∧
        (¬ spoilt → 1 ≤ w.ty → w.ty ≤ 5 →
          let k := (if calTotal w.ty ≤ c.calSteps e w.ty then 0 else c.calSteps e w.ty) + 1
          d.calSteps e w.ty = k ∧
          (k = calTotal w.ty → d.rd (F.CNV_INT_STATUS_CAL_DONE e) = 1 ∧ d.dieRd e (F.CNV_CAL_STATUS_LAST_TYPE e) = w.ty ∧
            (d.cv e).calApply = some (w.ty, w.lanes, r)) ∧
          (k < calTotal w.ty → (d.cv e).calApply = (c.cv e).calApply)))) ∧
    (∀ (ty m : Nat) (r : List (List Nat)), Runs (.calApply e) fun c d => (c.cv e).calApply = some (ty, m, r) →
      (c.air.onB = false ∨ c.air.tempi < (c.cv e).calDue → d = c) ∧
      (c.air.onB = true → (c.cv e).calDue ≤ c.air.tempi → (d.cv e).calApply = none ∧ d = { c with regs := d.regs, cnvs := d.cnvs } ∧
        ∀ l, l < 8 → bit m l = true →
          (ty = 2 → c.rd (F.CNV_STATUS_BAND e) < 6 → ∀ k, k < 8 →
            d.rd (skewFld e l (c.rd (F.CNV_STATUS_BAND e)) k) = resVal r l k % 2 ^ 16) ∧
          (ty = 4 → d.dieRd e (F.CNV_IQCORR_RX_GAIN e l) = resVal r l 1 % 2 ^ 16 ∧
            d.dieRd e (F.CNV_IQCORR_RX_PHASE e l) = resVal r l 2 % 2 ^ 16) ∧
          (ty = 5 → d.dieRd e (F.CNV_IQCORR_TX_GAIN e l) = resVal r l 5 % 2 ^ 16 ∧
            d.dieRd e (F.CNV_IQCORR_TX_PHASE e l) = resVal r l 6 % 2 ^ 16))) ∧
    (Runs (.calWindowClose e) fun c d => (c.cv e).win = some w →
      let t := c.now + (w.closeAt - c.air.mono)
      (c.nextBoundary ≤ t → d = c) ∧
      (t < c.nextBoundary → (d.cv e).win = none ∧ d.dieRd e (F.CNV_CAL_STATUS_ACTIVE_TYPE e) = 0 ∧
        d.air.mono = max c.air.mono w.closeAt ∧ Keeps c d [F.AIR_AT_AT, F.AIR_EPOCH_EPOCH] ∧
        (∀ l, l < 8 → bit w.lanes l = true → calRx w.ty = true → d.suspended (8 * e + l) = true)))

/-! ## The Air Timeline (R62–R74, R85, R86) -/

/-- R64, R65: a tempo boundary brings AT to the next multiple of 4,096 Tc, and EPOCH follows AT. In deep sleep nothing but AIR takes
part; a rollover of the SFN cycle is told by EPOCH alone.

Completes with its own effect: tempoBoundary, epochRollover. -/
def Obligations.TempoBoundary : Prop :=
  (RunsAwakeOrAsleep .tempoBoundary fun c d =>
    d.air.tempi = c.air.tempi + 1 ∧ d.air.onB = true ∧ d.air.mono = c.air.mono + (c.nextBoundary - c.now) ∧
    d.now = c.nextBoundary % 2 ^ 64 ∧ d.rd F.AIR_EPOCH_EPOCH = c.nextBoundary % 2 ^ 64 / sfnCycle % 2 ^ 32 ∧
    (c.img.clearLate = false → d.img = c.img) ∧ d.zmd = c.zmd ∧ d.bus = c.bus ∧
    (c.asleep = true → Keeps c d [F.AIR_AT_AT, F.AIR_EPOCH_EPOCH, F.AIR_STATUS_SLEWING] ∧ d = { c with regs := d.regs, air := d.air, hk := d.hk }) ∧
    (c.asleep = false → ∀ k, k < 16 → (d.rk k).done = false)) ∧
  (RunsAwakeOrAsleep .epochRollover fun c d =>
    let t := (c.now / sfnCycle + 1) * sfnCycle
    Keeps c d [F.AIR_EPOCH_EPOCH, F.AIR_AT_AT] ∧ d = { c with regs := d.regs, air := d.air } ∧
    (t < c.nextBoundary → t < 2 ^ 64 → d.now = t ∧ d.rd F.AIR_EPOCH_EPOCH = c.now / sfnCycle + 1 ∧
      d.air.mono = c.air.mono + (t - c.now)) ∧
    (c.nextBoundary ≤ t → c.now < 2 ^ 64 → d.now = c.now ∧ d.air = c.air ∧ d.rd F.AIR_EPOCH_EPOCH = c.now / sfnCycle % 2 ^ 32))

/-- R65, R66, R72, R86: writes of AIR_EPOCH and AIR_CTRL, and the read of AIR_AT, which latches the position it stands for.

The model's choices in it: MASTER and HOPS from a write of AIR_CTRL on (log 25).

Completes with its own effect: airEpochWrite, airCtrlWrite, airRestart, airAtRead. -/
def Obligations.TimelineAccesses : Prop :=
  ∀ q : Requester,
    (∀ v : Nat, Writes (.airEpochWrite q v) q 0x100048 fun c d =>
      (c.rd F.AIR_STATUS_STATE = 0 → d = { c with air := { c.air with heldEpoch := some (v % 2 ^ 32) } }) ∧
      (c.rd F.AIR_STATUS_STATE ≠ 0 → d = c)) ∧
    (Writes (.airRestart q) q 0x100000 fun c d =>
      d.rd F.AIR_STATUS_STATE = 0 ∧ d.rd F.AIR_STATUS_HELD = 1 ∧ d.rd F.AIR_TRIM_TRIM = 0 ∧ d.air.heldEpoch = none ∧
      d.air.pendStep = none ∧ d.air.stepped = false ∧ d.now = c.now ∧ d.rd F.AIR_CTRL_SOURCE = c.rd F.AIR_CTRL_SOURCE ∧
      (∀ n, n < 128 → c.holdCovers n = true → c.leader n = n → d.on (F.SQ_STATUS_MS_HOLD n) = true)) ∧
    (∀ (h : Half) (v : Nat), Writes (.airCtrlWrite q h v) q 0x100000 fun c d =>
      let w := h.image v
      let ok := numerOk (bits w 3 1) (bits w 4 3) (bits w 7 1)
      (h = .hi → d = c) ∧
      (h ≠ .hi →
        d.rd F.AIR_CTRL_SOURCE = bits w 0 2 ∧ d.rd F.AIR_CTRL_CHL_PORT = bits w 2 1 ∧ d.rd F.AIR_CTRL_PPS_OUT_EN = bits w 8 1 ∧
        d.rd F.AIR_CTRL_SYNC_OUT_EN = bits w 9 1 ∧
        (ok = true → d.rd F.AIR_CTRL_RAT = bits w 3 1 ∧ d.rd F.AIR_CTRL_MU = bits w 4 3 ∧ d.rd F.AIR_CTRL_ECP = bits w 7 1) ∧
        (ok = false → d.numer = c.numer ∧ d.rd F.AIR_CTRL_RAT = c.rd F.AIR_CTRL_RAT) ∧
        (bits w 0 2 ≠ c.rd F.AIR_CTRL_SOURCE ∨ bit w 10 = true →
          d.rd F.AIR_STATUS_STATE = 0 ∧ d.rd F.AIR_TRIM_TRIM = 0 ∧ d.air.heldEpoch = none) ∧
        (bits w 0 2 = c.rd F.AIR_CTRL_SOURCE → bit w 10 = false →
          (bits w 3 1, bits w 4 3, bits w 7 1) = (c.rd F.AIR_CTRL_RAT, c.rd F.AIR_CTRL_MU, c.rd F.AIR_CTRL_ECP) →
          d.rd F.AIR_STATUS_STATE = c.rd F.AIR_STATUS_STATE ∧ d.air.armed = c.air.armed) ∧
        d.now = c.now ∧ d.air.mono = c.air.mono)) ∧
    (∀ h : Half, Reads (.airAtRead q h) q 0x100038 fun c d =>
      d.bus = { req := q, data := h.data c.now } ∧
      (h = .hi → d = c.respond q (h.data c.now)) ∧
      (h ≠ .hi → d.rd F.AIR_POS_SFN = (c.numer.position c.now).1 % 2 ^ 10 ∧ d.rd F.AIR_POS_SLOT = (c.numer.position c.now).2.1 % 2 ^ 6 ∧
        d.rd F.AIR_POS_SYMBOL = (c.numer.position c.now).2.2 % 2 ^ 4 ∧
        Keeps c d [F.AIR_POS_SFN, F.AIR_POS_SLOT, F.AIR_POS_SYMBOL] ∧ d = { c with regs := d.regs, bus := d.bus }))

/-- R68–R72: a cell, PPS or SYNC detection counts only from the source in use; what it does is `Detected`.

R65, R70, R72, R73: the step, the timeouts and the release of the hold.

The model's choices in it: the position that SYNC and PPS edges give, and LAST_ERR (log 21), the details of the step (log 22), COAST
outside LOCKED (log 24), and a hold released at the boundary of the change (log 126).

Completes with its own effect: cellDetection, ppsEdge, syncEdge, atStep, coastTimeout, holdTimeout, holdoverTimeout, holdRelease. -/
def Obligations.Timeline : Prop :=
  ((∀ (k pci : Nat) (pbch : Bool) (pos : Nat), RunsAwakeOrAsleep (.cellDetection k pci pbch pos) fun c d =>
     (c.rd F.AIR_CTRL_SOURCE = 1 → c.on F.AIR_STATUS_CFG_ERR = false → c.rd F.AIR_CELL_DET_THR < k → pci = c.rd F.AIR_CELL_PCI →
       pbch = true → Detected (c.detAt pos) c d) ∧
     (c.rd F.AIR_CTRL_SOURCE ≠ 1 ∨ c.on F.AIR_STATUS_CFG_ERR = true ∨ k ≤ c.rd F.AIR_CELL_DET_THR ∨ pci ≠ c.rd F.AIR_CELL_PCI ∨
       pbch = false → d = c)) ∧
   (∀ up : Bool, RunsAlways (.ppsEdge up) fun c d =>
     (c.zmd.mem.run = true → d.zmd.mem.pps = some c.zmd.mem.zt) ∧ (c.zmd.mem.run = false → d.zmd = c.zmd) ∧
     (∀ t, c.rd F.AIR_CTRL_SOURCE = 2 → up = !c.on F.AIR_EXT_PPS_POL → c.air.syncAt = some t → Detected (c.detAt (c.extPos t)) c d) ∧
     (c.rd F.AIR_CTRL_SOURCE ≠ 2 ∨ up = c.on F.AIR_EXT_PPS_POL ∨ c.air.syncAt = none → d = { c with zmd := d.zmd })) ∧
   (∀ up : Bool, RunsAwakeOrAsleep (.syncEdge up) fun c d =>
     (c.rd F.AIR_CTRL_SOURCE = 2 → up = !c.on F.AIR_EXT_SYNC_POL → d.air.syncAt = some c.air.mono ∧
       Detected (c.detAt (c.extPos c.air.mono)) { c with air := { c.air with syncAt := some c.air.mono } } d) ∧
     (c.rd F.AIR_CTRL_SOURCE ≠ 2 ∨ up = c.on F.AIR_EXT_SYNC_POL → d = c))) ∧
  ((RunsAwakeOrAsleep .atStep fun c d =>
     (c.air.pendStep = none ∨ c.rd F.AIR_STATUS_STATE ≠ 0 ∨ c.air.onB = false ∨ c.on F.AIR_STATUS_CFG_ERR = true ∨
       (∃ o ∈ c.air.taken, o.fire ≤ (c.now : Int)) → d = c) ∧
     (∀ x, c.air.pendStep = some x → c.rd F.AIR_STATUS_STATE = 0 → c.air.onB = true → c.on F.AIR_STATUS_CFG_ERR = false →
       (∀ o ∈ c.air.taken, (c.now : Int) < o.fire) →
       d.now = c.stepTarget x % 2 ^ 64 ∧ d.rd F.AIR_EPOCH_EPOCH = c.stepTarget x % 2 ^ 64 / sfnCycle ∧
       d.air.pendStep = none ∧ d.air.stepped = true ∧ d.air.heldEpoch = none ∧ d.air.mono = c.air.mono ∧
       d.rd F.AIR_STATUS_STEPS = satU 8 (c.rd F.AIR_STATUS_STEPS + 1) ∧ d.rd F.AIR_INT_STATUS_STEP = 1 ∧ d.chl.play = [] ∧
       d.rd F.CHL_SYS_BUF_USED = 0)) ∧
   (RunsAwakeOrAsleep .coastTimeout fun c d =>
     (c.rd F.AIR_STATUS_STATE = 1 → d.rd F.AIR_STATUS_COAST = 1 ∧ RegsOnly c d [F.AIR_STATUS_COAST]) ∧
     (c.rd F.AIR_STATUS_STATE ≠ 1 → d = c)) ∧
   (RunsAwakeOrAsleep .holdTimeout fun c d =>
     (c.rd F.AIR_STATUS_STATE = 1 → d.rd F.AIR_STATUS_STATE = 2 ∧ d.rd F.AIR_INT_STATUS_STATE_CHG = 1 ∧ d.rd F.AIR_STATUS_COAST = 0 ∧
       d.air = c.air) ∧
     (c.rd F.AIR_STATUS_STATE ≠ 1 → d = c)) ∧
   (RunsAwakeOrAsleep .holdoverTimeout fun c d =>
     (c.rd F.AIR_STATUS_STATE = 2 → d.rd F.AIR_STATUS_STATE = 3 ∧ d.rd F.AIR_INT_STATUS_STATE_CHG = 1 ∧ d.air = c.air ∧
       (c.rd F.AIR_CTRL_SOURCE ≠ 3 → d.rd F.AIR_STATUS_HELD = 1 ∧
         ∀ n, n < 128 → c.holdCovers n = true → c.leader n = n → d.on (F.SQ_STATUS_MS_HOLD n) = true)) ∧
     (c.rd F.AIR_STATUS_STATE ≠ 2 → d = c)) ∧
   (RunsAwakeOrAsleep .holdRelease fun c d =>
     (c.air.onB = true → c.on F.AIR_STATUS_HELD = true → c.holdDue = false →
       d.rd F.AIR_STATUS_HELD = 0 ∧ (∀ n, n < 128 → d.rd (F.SQ_STATUS_MS_HOLD (c.leader n)) = 0) ∧
       RegsOnly c d (F.AIR_STATUS_HELD :: (List.range 128).map F.SQ_STATUS_MS_HOLD)) ∧
     (c.air.onB = false ∨ c.on F.AIR_STATUS_HELD = false ∨ c.holdDue = true → d = c)))

/-- R85: an enabled timing output rises when AT reaches a multiple of its period, and is high for 196,608 Tc from there; a disabled one
stays low.

The model's choices in it: the level that an enabled output takes at once (log 24).

Completes with its own effect: timingOutputRise, timingOutputFall. -/
def Obligations.TimingOutputs : Prop :=
  (∀ y : Bool, RunsAwakeOrAsleep (.timingOutputRise y) fun c d =>
    let p := outPeriod y
    let t := (c.now / p + 1) * p
    let en := if y then c.on F.AIR_CTRL_SYNC_OUT_EN else c.on F.AIR_CTRL_PPS_OUT_EN
    let level := fun (c : Chip) => if y then c.air.syncOut else c.air.ppsOut
    let rise := fun (c : Chip) => if y then c.air.syncRise else c.air.ppsRise
    let rest := fun (c : Chip) => if y then c.air.ppsOut else c.air.syncOut
    (c.now % p < 196608 → level d = en ∧ rise d = c.now - c.now % p ∧ rest d = rest c ∧ d = { c with air := d.air }) ∧
    (196608 ≤ c.now % p → t < c.nextBoundary → t < 2 ^ 64 → d.now = t ∧ level d = en ∧ rise d = t ∧ rest d = rest c ∧
      d.air.mono = c.air.mono + (t - c.now) ∧ Keeps c d [F.AIR_AT_AT, F.AIR_EPOCH_EPOCH] ∧ d = { c with regs := d.regs, air := d.air }) ∧
    (196608 ≤ c.now % p → c.nextBoundary ≤ t → d = c)) ∧
  (RunsAwakeOrAsleep (.timingOutputFall true) fun c d =>
    (c.air.syncOut = true → c.air.syncRise + 196608 < c.nextBoundary → d.air.syncOut = false ∧ d.air.ppsOut = c.air.ppsOut ∧
      d.air.mono = c.air.mono + (c.air.syncRise + 196608 - c.now) ∧ Keeps c d [F.AIR_AT_AT, F.AIR_EPOCH_EPOCH]) ∧
    (c.air.syncOut = false → d = c)) ∧
  (RunsAwakeOrAsleep (.timingOutputFall false) fun c d =>
    (c.air.ppsOut = true → c.air.ppsRise + 196608 < c.nextBoundary → d.air.ppsOut = false ∧ d.air.syncOut = c.air.syncOut ∧
      d.air.mono = c.air.mono + (c.air.ppsRise + 196608 - c.now) ∧ Keeps c d [F.AIR_AT_AT, F.AIR_EPOCH_EPOCH]) ∧
    (c.air.ppsOut = false → d = c))

/-! ## The schedule (R75–R84) -/

/-- R75, R78: arming judges the entry: REJECTED, LATE or ARMED; writing KIND 0 disarms it; a write of word 1 does nothing else. None
of these writes changes an occurrence already taken (R80), which fires as it was taken (ScheduleFiring).

R79, R81: the scanner visits the entry it stands at: it takes an absolute occurrence that is near, in fire order, if no limit is
used up; one that lies too close is SKIPPED; an entry not armed is passed over.

The model's choices in it: a DIR target that follows a leader is REJECTED (log 85).

Completes with its own effect: schedArm, schedDisarm, schedTake. -/
def Obligations.ScheduleEntries : Prop :=
  (∀ (q : Requester) (i : Fin 1024) (v : Nat),
     (wKind v ≠ 0 → Writes (.schedArm q i v) q (0x101000 + 16 * i) fun c d =>
       let w0 := Nat.land (v % 2 ^ 32) 0xFFFFFF1F
       let w1 := c.rd (F.AIR_SCHED_W1_WORD i)
       let late := wRec w0 = false ∧ w1 < c.now + 10240
       bits (d.w0 i) 0 32 = w0 ∧ (∀ j, j ≠ i.val → d.air.armed.find j = c.air.armed.find j) ∧
       (c.rejected w0 w1 = true → bits (d.w0 i) 32 32 = 6 ∧ d.air.armed.find i = none ∧ d.rd F.AIR_INT_STATUS_SCHED_EXC = 1 ∧
         d.rd F.AIR_SCHED_CNT_REJECTED = satU 16 (c.rd F.AIR_SCHED_CNT_REJECTED + 1)) ∧
       (c.rejected w0 w1 = false → late → bits (d.w0 i) 32 32 = 3 ∧ d.air.armed.find i = none ∧ d.rd F.AIR_INT_STATUS_SCHED_EXC = 1 ∧
         d.rd F.AIR_SCHED_CNT_LATE = satU 16 (c.rd F.AIR_SCHED_CNT_LATE + 1)) ∧
       (c.rejected w0 w1 = false → ¬ late → bits (d.w0 i) 32 32 = 1 ∧
         d.air.armed.find i = some { w0 := w0, w1 := w1, first := c.now + 10240, last := none } ∧
         Keeps c d [F.AIR_SCHED_W0_WORD i]) ∧ d.air.taken = c.air.taken ∧
       Keeps c d [F.AIR_SCHED_W0_WORD i, F.AIR_SCHED_CNT_REJECTED, F.AIR_SCHED_CNT_LATE, F.AIR_INT_STATUS_SCHED_EXC] ∧
       d = { c with regs := d.regs, air := d.air }) ∧
     (wKind v = 0 → Writes (.schedDisarm q i v) q (0x101000 + 16 * i) fun c d =>
       d.w0 i = Nat.land (v % 2 ^ 32) 0xFFFFFF1F ∧ d.air.armed.find i = none ∧ d.air.taken = c.air.taken ∧
       Keeps c d [F.AIR_SCHED_W0_WORD i] ∧ d = { c with regs := d.regs, air := d.air }) ∧
     (∀ h : Half, Writes (.registerWrite q (0x101008 + 16 * i) h v) q (0x101008 + 16 * i) fun c d =>
       Keeps c d [F.AIR_SCHED_W1_WORD i] ∧ d.air = c.air)) ∧
  (∀ i : Fin 1024, RunsAwakeOrAsleep (.schedTake i) fun c d => d.air.scanIdx = (i.val + 1) % 1024 ∧
     (c.air.scanIdx = i.val → c.air.armed.find i = none → d = { c with air := { c.air with scanIdx := (i.val + 1) % 1024 } }) ∧
     (∀ e, c.air.scanIdx = i.val → c.air.armed.find i = some e → wRec e.w0 = false → e.last = none →
       (e.w1 < c.now + 2048 → bits (d.w0 i) 32 32 = 4 ∧ d.air.armed.find i = none ∧ d.air.taken = c.air.taken ∧
         d.rd F.AIR_SCHED_CNT_SKIPPED = satU 16 (c.rd F.AIR_SCHED_CNT_SKIPPED + 1)) ∧
       (c.now + 2048 ≤ e.w1 → e.w1 < c.now + 10256 → c.asleep = false → wKind e.w0 ≠ 3 → c.overLimit (e.occ i e.w1) = false →
         d.air.taken = occIns (e.occ i e.w1) c.air.taken ∧ d.air.armed.find i = some { e with last := some e.w1 } ∧ d.regs = c.regs) ∧
       (c.now + 10256 ≤ e.w1 → d = { c with air := { c.air with scanIdx := (i.val + 1) % 1024 } })))

/-- R77, R84, R99, R133, R251, R376: the first taken occurrence fires, and acts on its block; none of another kind fires in its
place.

The model's choices in it: a TR occurrence is judged at its fire time (log 88), and the enable of a MARK interrupt (log 89).

Completes with its own effect: trFire, dirFire, planFire, calFire, captureFire, pwmfFire, markFire. -/
def Obligations.ScheduleFiring : Prop :=
  ∀ (o : Occ) (l : List Occ),
    (Runs .trFire fun c d => Fires 1 o l c →
      ((32 ≤ o.target ∨ c.rd (F.CNV_STATUS_STATE (o.target / 16)) = 3) → Fired o l c d ∧ bit d.trTaken o.target = true ∧
        bit d.trLive o.target = true ∧ bit d.trLevel o.target = bit o.arg 0) ∧
      (o.target < 32 → c.rd (F.CNV_STATUS_STATE (o.target / 16)) ≠ 3 → d.air.taken = l ∧ d.trTaken = c.trTaken ∧ d.trLive = c.trLive ∧ d.trLevel = c.trLevel ∧
        d.rd F.AIR_SCHED_CNT_DROPPED = satU 16 (c.rd F.AIR_SCHED_CNT_DROPPED + 1))) ∧
    (Runs .dirFire fun c d => Fires 2 o l c → Fired o l c d ∧ (d.sq o.target).dir = o.arg ∧
      (∀ n, n ≠ o.target → d.sq n = c.sq n) ∧ d = { c with regs := d.regs, air := d.air, sqs := d.sqs }) ∧
    (Runs .calFire fun c d => Fires 4 o l c → Fired o l c d ∧
      let e := bits o.target 8 1
      (c.rd (F.CNV_STATUS_STATE e) = 3 → (c.cv e).win = none → (d.cv e).win = some { ty := bits o.target 12 4, lanes := bits o.target 0 8, closeAt := d.air.mono + 4096 * o.arg }) ∧
      (c.rd (F.CNV_STATUS_STATE e) ≠ 3 ∨ (c.cv e).win.isSome = true → d.rd (F.CNV_INT_STATUS_CAL_REFUSED e) = 1 ∧
        d.rd (F.CNV_CAL_STATUS_REFUSED e) = satU 16 (c.rd (F.CNV_CAL_STATUS_REFUSED e) + 1) ∧ d.cnvs = c.cnvs)) ∧
    (Runs .captureFire fun c d => Fires 5 o l c → Fired o l c d ∧
      let e := o.target % 16
      ((c.eng e).cur = none → d.rd (F.CAP_ENG_ORPHAN e) = satU 16 (c.rd (F.CAP_ENG_ORPHAN e) + 1) ∧ d.cap = c.cap) ∧
      (∀ r x, (c.eng e).cur = some r → r.desc = some x → x.start = 2 → r.started = false →
        (d.eng e).cur = some { r with started := true })) ∧
    (Runs .pwmfFire fun c d => Fires 6 o l c → o.target < 16 → Fired o l c d ∧
      d.rdBit F.PSU_BANKSEL_SEL o.target = bit o.arg 0 ∧
      (c.pst o.target = 1 ∨ c.pst o.target = 2 ∨ c.pst o.target = 3 → (d.pw o.target).pwmf = some (bit o.arg 0)) ∧
      (c.pst o.target = 0 ∨ c.pst o.target = 4 → d.pwms = c.pwms)) ∧
    (RunsAwakeOrAsleep .markFire fun c d => Fires 7 o l c → c.asleep = false ∨ l = [] → Fired o l c d ∧
      d.rdBit F.AIR_INT_STATUS_MARK (bits o.arg 0 4) = true ∧
      (c.rdBit F.AIR_INT_EN_EN (4 + bits o.arg 0 4) = true → c.asleep = false ∨ c.on (F.INT_SRC_WAKE (648 + bits o.arg 0 4)) = true → d.int.pend.contains (648 + bits o.arg 0 4) = true ∧ d.asleep = false)) ∧
    (Runs .planFire fun c d => c.air.taken = o :: l → o.kind = 3 → c.air.onB = true → c.tenDue = false → o.fire = (c.now : Int) →
      ((∀ x, x < 10 → c.rd (F.GPL_STATUS_STATE x) ≠ 3) → d.rd F.GPL_INT_STATUS_ORPHAN = 1 ∧
        d.air.taken = l.filter (fun p => !(p.kind = 3 && p.fire = o.fire)) ∧ d.sqs = c.sqs ∧ d.shadow = c.shadow) ∧
      (∀ x, x < 10 → c.rd (F.GPL_STATUS_STATE x) = 3 → c.rd (F.GPL_STATUS_PLAN_ID x) = o.target →
        (∀ y, y < 10 → y ≠ x → c.rd (F.GPL_STATUS_STATE y) ≠ 3) →
        d.rd (F.GPL_STATUS_STATE x) = 4 ∨ d.rd (F.GPL_STATUS_STATE x) = 5))

/-! ## Timed outputs and RFFE (R104–R107, R111) -/

/-- R105: forcing drives exactly the named outputs that may be forced to the level, and leaves every other as it was.

R106, R107, R111: every RFFE command enters the queue of its master with its OP, address bits and bytes, and goes on the bus as
soon as the master is free; one too many is discarded with OVERFLOW; a read by broadcast is discarded.

R107: the frame on the bus ends: a read, or a failed write, leaves a result; the queue goes on. An access to the upper half of the
result register removes the entry that it shows.

The model's choices in it: a TR edge that waits decides over a force of the same instant (log 81), and a read by broadcast is dropped
without a result (log 127).

Completes with its own effect: trForceHigh, trForceLow, rffeRegister0Write, rffeRegisterWrite, rffeRegisterRead, rffeExtendedWrite,
rffeExtendedRead, rffeExtendedWriteLong, rffeExtendedReadLong, rffeFrameDone, rffeResultRead. -/
def Obligations.FrontEndControl : Prop :=
  (∀ (q : Requester) (h : Half) (v : Nat) (b : Bool),
     Writes (if b then .trForceHigh q h v else .trForceLow q h v) q (if b then 0x400020 else 0x400028) fun c d =>
       d = { c with trTaken := d.trTaken, trLive := d.trLive, trLevel := d.trLevel } ∧
       ∀ k, k < 48 →
         (bit (h.image v) k = true → c.trOpen k = true → c.trAt.find k ≠ some c.air.mono →
           bit d.trTaken k = true ∧ bit d.trLive k = true ∧ bit d.trLevel k = b) ∧
         (bit (h.image v) k = false ∨ c.trOpen k = false ∨ c.trAt.find k = some c.air.mono →
           bit d.trTaken k = bit c.trTaken k ∧ bit d.trLive k = bit c.trLive k ∧ bit d.trLevel k = bit c.trLevel k)) ∧
  (∀ (q : Requester) (m : Fin 6) (u : Fin 16) (a x : Nat) (n : Fin 4),
     let takes := fun (i : Instr) (k : RffeCmd) => Writes i q (aRffeCmd m) fun c d =>
       (u = 0 → opReads k.op = true → d = c) ∧
       (u ≠ 0 ∨ opReads k.op = false → 32 ≤ (c.rf m).cmds.length →
         d.rd (F.RFC_RFFE_STATUS_OVERFLOW m) = 1 ∧ RegsOnly c d [F.RFC_RFFE_STATUS_OVERFLOW m]) ∧
       (u ≠ 0 ∨ opReads k.op = false → (c.rf m).cmds.length < 32 →
         (d.rf m).cmds = (c.rf m).cmds ++ [k] ∧ (d.rf m).busy = ((c.rf m).busy || c.rffeRuns m) ∧
         (d.rf m).results = (c.rf m).results ∧ d = { c with rffes := d.rffes })
     takes (.rffeRegister0Write q m u x) ⟨1, u, 0, 0, x % 2 ^ 32⟩ ∧
     takes (.rffeRegisterWrite q m u a x) ⟨2, u, a % 32, 0, x % 2 ^ 32⟩ ∧
     takes (.rffeRegisterRead q m u a) ⟨3, u, a % 32, 0, 0⟩ ∧
     takes (.rffeExtendedWrite q m u a n x) ⟨4, u, a % 256, n, x % 2 ^ 32⟩ ∧
     takes (.rffeExtendedRead q m u a n) ⟨5, u, a % 256, n, 0⟩ ∧
     takes (.rffeExtendedWriteLong q m u a n x) ⟨6, u, a % 65536, n, x % 2 ^ 32⟩ ∧
     takes (.rffeExtendedReadLong q m u a n) ⟨7, u, a % 65536, n, 0⟩) ∧
  (∀ m : Fin 6,
     (∀ (bad : Bool) (x : Nat) (k : RffeCmd) (l : List RffeCmd), Runs (.rffeFrameDone m bad x) fun c d =>
       ((c.rf m).cmds = [] ∨ (c.rf m).busy = false → d = c) ∧
       ((c.rf m).cmds = k :: l → (c.rf m).busy = true →
         let own : List RffeRes := if bad = true then [⟨0, true, false, k.op⟩]
           else if opReads k.op = true then [⟨x % 256 ^ k.len, false, false, k.op⟩] else []
         (d.rf m).cmds = l ∧ (d.rf m).busy = (c.rffeRuns m && !l.isEmpty) ∧ (d.rf m).flushed = [] ∧
         (d.rf m).results = ((c.rf m).results ++ own ++ (c.rf m).flushed).take 32 ∧
         (bad = true ∨ (c.rf m).flushed ≠ [] → d.rdBit F.RFC_INT_STATUS_ERR m = true) ∧
         (bad = false → (c.rf m).flushed = [] → d.rd F.RFC_INT_STATUS_ERR = c.rd F.RFC_INT_STATUS_ERR) ∧
         (l = [] → d.rdBit F.RFC_INT_STATUS_DONE m = true) ∧
         Keeps c d [F.RFC_INT_STATUS_ERR, F.RFC_INT_STATUS_DONE] ∧ d = { c with regs := d.regs, rffes := d.rffes })) ∧
     (∀ (q : Requester) (h : Half), Reads (.rffeResultRead q m h) q (0x400210 + 0x20 * m) fun c d =>
       d.bus = { req := q, data := h.data (c.rffeResult m) } ∧ d = { c with rffes := d.rffes, bus := d.bus } ∧
       (h = .lo → d.rffes = c.rffes) ∧ (h ≠ .lo → (d.rf m).results = (c.rf m).results.drop 1 ∧ (d.rf m).cmds = (c.rf m).cmds)))

/-! ## Squares (R112–R161) -/

/-- R121: a coefficient is written half by half into the inactive bank, unless a committed plan switches the bank; the index advances
after an access to the upper half; a read returns the coefficient.

R147, R161: a canceller coefficient may be written only while EC_EN is 0 or the square is OFF; a member's window discards and reads
0; the address advances after an access to the upper half.

Completes with its own effect: sqCoefWrite, sqCoefRead, ecCoefWrite, ecCoefRead. -/
def Obligations.Coefficients : Prop :=
  (∀ (q : Requester) (n : Fin 128) (h : Half),
     let next := fun c : Chip => if h.hasHi = true ∧ c.on (F.SQ_COEF_ADDR_AUTOINC n) = true
       then (if 383 ≤ c.rd (F.SQ_COEF_ADDR_INDEX n) then 0 else c.rd (F.SQ_COEF_ADDR_INDEX n) + 1) else c.rd (F.SQ_COEF_ADDR_INDEX n)
     (∀ v : Nat, Writes (.sqCoefWrite q n h v) q (aCoefData n) fun c d =>
       (c.coefLocked n = true → d.rd (F.SQ_INT_STATUS_COEF_DROP n) = 1 ∧ RegsOnly c d [F.SQ_INT_STATUS_COEF_DROP n]) ∧
       (c.coefLocked n = false →
         d.rd (F.SQ_COEF_ADDR_INDEX n) = next c ∧ Keeps c d [F.SQ_COEF_ADDR_INDEX n] ∧ d = { c with regs := d.regs, sqs := d.sqs } ∧
         (∀ m, m ≠ n.val → d.sq m = c.sq m) ∧
         (384 ≤ c.rd (F.SQ_COEF_ADDR_INDEX n) → d.sqs = c.sqs) ∧
         (c.rd (F.SQ_COEF_ADDR_INDEX n) < 384 →
           let old := SMap.get Cx.zero (c.sq n).coef (c.coefKey n)
           SMap.get Cx.zero (d.sq n).coef (c.coefKey n) =
             ⟨if h.hasLo then toS 18 (bits (h.image v) 0 18) else old.re, if h.hasHi then toS 18 (bits (h.image v) 32 18) else old.im⟩ ∧
           (∀ k, k ≠ c.coefKey n → SMap.get Cx.zero (d.sq n).coef k = SMap.get Cx.zero (c.sq n).coef k) ∧
           (c.coefKey n ∈ (d.sq n).coefBad → False)))) ∧
     (Reads (.sqCoefRead q n h) q (aCoefData n) fun c d =>
       d.bus = { req := q, data := h.data (c.coefRead n) } ∧ d.rd (F.SQ_COEF_ADDR_INDEX n) = next c ∧
       Keeps c d [F.SQ_COEF_ADDR_INDEX n] ∧ d = { c with regs := d.regs, bus := d.bus })) ∧
  (∀ (q : Requester) (n : Fin 128) (h : Half),
     let step := fun c d : Chip =>
       Keeps c d [F.SQ_EC_CADDR_TAP n, F.SQ_EC_CADDR_PATH n] ∧
       (h.hasHi = true → c.on (F.SQ_EC_CADDR_AUTOINC n) = true →
         d.rd (F.SQ_EC_CADDR_TAP n) = (c.rd (F.SQ_EC_CADDR_TAP n) + 1) % 64 ∧
         d.rd (F.SQ_EC_CADDR_PATH n) = (if c.rd (F.SQ_EC_CADDR_TAP n) = 63 then (c.rd (F.SQ_EC_CADDR_PATH n) + 1) % 64
           else c.rd (F.SQ_EC_CADDR_PATH n))) ∧
       (h.hasHi = false ∨ c.on (F.SQ_EC_CADDR_AUTOINC n) = false → d.regs = c.regs)
     (∀ v : Nat, Writes (.ecCoefWrite q n h v) q (aEcData n) fun c d =>
       (c.isMember n = true → d = c) ∧
       (c.isMember n = false → c.on (F.SQ_EC_CTRL_EC_EN n) = true → c.sqState n ≠ 0 →
         d.rd (F.SQ_EC_INT_STATUS_COEF_DROP n) = 1 ∧ RegsOnly c d [F.SQ_EC_INT_STATUS_COEF_DROP n]) ∧
       (c.isMember n = false → c.on (F.SQ_EC_CTRL_EC_EN n) = false ∨ c.sqState n = 0 →
         let old := SMap.get Cx.zero (c.sq n).ec (c.ecKey n)
         SMap.get Cx.zero (d.sq n).ec (c.ecKey n) =
           ⟨if h.hasLo then toS 24 (bits (h.image v) 0 24) else old.re, if h.hasHi then toS 24 (bits (h.image v) 32 24) else old.im⟩ ∧
         (∀ k, k ≠ c.ecKey n → SMap.get Cx.zero (d.sq n).ec k = SMap.get Cx.zero (c.sq n).ec k) ∧
         (∀ m, m ≠ n.val → d.sq m = c.sq m) ∧ step c d ∧ d = { c with regs := d.regs, sqs := d.sqs })) ∧
     (Reads (.ecCoefRead q n h) q (aEcData n) fun c d =>
       d.bus = { req := q, data := h.data (c.ecRead n) } ∧ d = { c with regs := d.regs, bus := d.bus } ∧ step c d))

/-- R115, R129, R130: the square's states: FILLING ends in MUTED or RAMP_UP, a ramp whose samples have passed in ON, in MUTED or in OFF,
and MUTED ends at a boundary with no mute source; a failed placement mutes.

R23, R122, R145, R152, R157–R159: a parity error of a square, the end of its stability fault, the step size of a temperature band,
and the publication of an estimate.

The model's choices in it: what a boundary decides about a square waits for publication and plan (log 106), and a standing parity error
gives no further event (log 105).

Completes with its own effect: fillDone, rampEnd, unmuteStart, placementMute, squareParityError, estimatePublish, stabilityFaultClear,
muBandSwitch. -/
def Obligations.Squares : Prop :=
  (∀ n : Fin 128,
     (Runs (.fillDone n) fun c d =>
       (c.sqState n = 1 → c.air.onB = true → c.filled n (c.sq n).fillAt = true → c.leaving n = false →
         (c.muted n = true → d.sqState n = 5 ∧ d.rd (F.SQ_INT_STATUS_MUTED n) = 1) ∧ (c.muted n = false → d.sqState n = 2) ∧
         (d.sq n).ramp = 0 ∧ Keeps c d [F.SQ_STATUS_STATE n, F.SQ_INT_STATUS_MUTED n] ∧ (∀ m, m ≠ n.val → d.sq m = c.sq m) ∧
         d = { c with regs := d.regs, sqs := d.sqs }) ∧
       (c.sqState n ≠ 1 ∨ c.air.onB = false ∨ c.filled n (c.sq n).fillAt = false ∨ c.leaving n = true → d = c)) ∧
     (Runs (.rampEnd n) fun c d =>
       let up := c.sqState n = 2 ∧ c.rampN n ≤ (c.sq n).ramp
       let down := c.sqState n = 4 ∧ (c.sq n).ramp = 0
       (up → d.sqState n = 3 ∧ d.rd (F.SQ_INT_STATUS_ON n) = 1 ∧ (d.sq n).ramp = c.rampN n ∧
         Keeps c d [F.SQ_STATUS_STATE n, F.SQ_INT_STATUS_ON n]) ∧
       (down → c.on (F.SQ_CTRL_ENABLE n) = true → d.sqState n = 5 ∧ d.rd (F.SQ_INT_STATUS_MUTED n) = 1 ∧
         Keeps c d [F.SQ_STATUS_STATE n, F.SQ_INT_STATUS_MUTED n]) ∧
       (down → c.on (F.SQ_CTRL_ENABLE n) = false → d.sqState n = 0 ∧ d.rd (F.SQ_EC_STATUS_EST_VALID n) = 0 ∧
         d.rd (F.SQ_DET_SUM_CIN n) = 0x8000 ∧ (∀ k, k < 8 → d.rd (F.SQ_CDET_CIN n k) = 0x8000 ∧ d.rd (F.SQ_FDET_FOUT n k) = 0x8000) ∧
         (d.sq n).firHist = [] ∧ (d.sq n).refHist = [] ∧ (d.sq n).det = [] ∧ (d.sq n).coef = (c.sq n).coef ∧ (d.sq n).ec = (c.sq n).ec) ∧
       (c.sqState n ≠ 0 → d.sqState n ≠ 0 → d.comb = c.comb) ∧ (¬ up → ¬ down → d = c) ∧ (∀ m, m ≠ n.val → d.sq m = c.sq m) ∧
       d = { c with regs := d.regs, sqs := d.sqs, comb := d.comb }) ∧
     (Runs (.unmuteStart n) fun c d =>
       (c.sqState n = 5 → c.air.onB = true → c.muted n = false → c.leaving n = false → d.sqState n = 2 ∧ (d.sq n).ramp = 0 ∧
         Keeps c d [F.SQ_STATUS_STATE n] ∧ (∀ m, m ≠ n.val → d.sq m = c.sq m) ∧ d = { c with regs := d.regs, sqs := d.sqs }) ∧
       (c.sqState n ≠ 5 ∨ c.air.onB = false ∨ c.muted n = true ∨ c.leaving n = true → d = c)) ∧
     (Runs (.placementMute n) fun c d =>
       let due := c.acts n = true ∧ c.on (F.SQ_CTRL_ENABLE n) = true ∧ c.placedNow n = false ∧ c.air.onB = true ∧
         c.rd (F.CNV_STATUS_STATE (rxDie n)) = 3
       (due → d.rd (F.SQ_STATUS_MS_PLACEMENT n) = 1 ∧ d.rd (F.SQ_INT_STATUS_PLACEMENT n) = 1 ∧
         (c.sqState n = 2 ∨ c.sqState n = 3 → d.sqState n = 4) ∧
         Keeps c d [F.SQ_STATUS_MS_PLACEMENT n, F.SQ_INT_STATUS_PLACEMENT n, F.SQ_STATUS_STATE n] ∧
         d = { c with regs := d.regs, sqs := d.sqs }) ∧
       (¬ due → d = c))) ∧
  (∀ n : Fin 128,
     (∀ x : Option (Fin 384), Runs (.squareParityError n x) fun c d =>
       Recorded c d n (if x.isSome then 2 else 1) ∧ d.srcBit F.FLT_ACTIVE_ACTIVE n = true ∧ (d.sq n).fParity = true ∧
       (c.leader n = n → d.on (F.SQ_STATUS_MS_FAULT n) = true ∧
         (c.on (F.SQ_STATUS_MS_FAULT n) = false → c.sqState n = 2 ∨ c.sqState n = 3 → d.sqState n = 4)) ∧
       (∀ i, x = some i → 384 * c.rd (F.SQ_CTRL_FIR_BANK n) + i.val ∈ (d.sq n).coefBad) ∧ d.img = c.img ∧ d.air = c.air) ∧
     (Runs (.stabilityFaultClear n) fun c d =>
       let stays := fun p : Nat × Nat => c.dueAt p.2 = false ∨ (p.1 = 255 ∧ c.srcBit F.FLT_PAIR_PAIR (128 + n) = true)
       ((∀ p ∈ (c.sq n).stab, stays p) → d = c) ∧
       ((∃ p ∈ (c.sq n).stab, ¬ stays p) →
         (∀ p, p ∈ (d.sq n).stab ↔ p ∈ (c.sq n).stab ∧ stays p) ∧
         ((∃ p ∈ (c.sq n).stab, p.1 = 1 ∧ ¬ stays p) → d.rd (F.SQ_EC_STATUS_FLOOR n) = 0) ∧
         ((∃ p ∈ (c.sq n).stab, p.1 = 2 ∧ ¬ stays p) →
           d.rd (F.SQ_EC_STATUS_DIVERGED n) = 0 ∧ ∀ r, r < 8 → d.rd (F.SQ_EC_LANE_DIV n r) = 0) ∧
         ((∀ p ∈ (c.sq n).stab, ¬ stays p) →
           (d.sq n).sevStab = c.severe (128 + n) ∧ d.srcBit F.FLT_ACTIVE_ACTIVE (128 + n) = false ∧
           (c.leader n = n → (c.sq n).fParity = false → (c.sq n).sevParity = false → c.severe (128 + n) = false →
             d.rd (F.SQ_STATUS_MS_FAULT n) = 0)))) ∧
     (Runs (.muBandSwitch n) fun c d =>
       let due := c.dueAt (c.cv (rxDie n)).bandAt = true
       (due → d.rd (F.SQ_EC_STATUS_BAND n) = c.rd (F.CNV_STATUS_BAND (rxDie n)) % 2 ^ 3 ∧ RegsOnly c d [F.SQ_EC_STATUS_BAND n]) ∧
       (¬ due → d = c)) ∧
     (Runs (.estimatePublish n) fun c d =>
       let loud := fun r : Nat => r ∈ c.lanes n ∧ 2 ≤ c.stepsAbove n r ∧ c.rdBit (F.SQ_EC_STATUS_DIVERGED n) r = false
       (c.estAt n = false → d = c) ∧
       (c.estAt n = true → (d.sq n).estDue = none ∧ (d.sq n).estNew = none ∧
         ((c.sq n).estNew = none → d.rd (F.SQ_EC_STATUS_AGE n) = satU (F.SQ_EC_STATUS_AGE n).wd (c.rd (F.SQ_EC_STATUS_AGE n) + 1)) ∧
         (∀ e, (c.sq n).estNew = some e → d.rd (F.SQ_EC_STATUS_AGE n) = 0 ∧ (d.sq n).iEff = some e.iEff ∧
           d.rdS (F.SQ_EC_MARGIN_I_PHYS n) = satS 16 e.iPhys ∧
           (2 ≤ (c.sq n).goodSteps → c.on (F.SQ_EC_STATUS_EST_VALID n) = false → (∀ r, ¬ loud r) →
             d.on (F.SQ_EC_STATUS_EST_VALID n) = true ∧ d.rdS (F.SQ_EC_MARGIN_I_EFF n) = satS 16 e.iEff)) ∧
         (∀ r, (c.sq n).estMiss = false → loud r → d.rdBit (F.SQ_EC_STATUS_DIVERGED n) r = true ∧ d.rd (F.SQ_EC_LANE_DIV n r) = 1 ∧
           d.rd (F.SQ_EC_STATUS_EST_VALID n) = 0 ∧ d.rd (F.SQ_EC_INT_STATUS_DIVERGE n) = 1))))

/-- R31, R32: the sample flits that a receive lane has brought join its samples, earliest first, as zero where a flit's CRC fails, and the
converter clock goes on by as many; a lane that brought fewer has zero.

R120, R123, R124, R130: every square takes the slot samples whose time has come, and the block of this one ends: its coarse detectors take
the means over the samples of the block that were not absent, or "no sample" where all were, and the sums over the present streams. The
end of a block changes no other square's memory. A square in OFF takes no sample.

The model's choices in it: all lanes go on by the longest of them, in lock step, and every square takes what has come for it (log 20).

Completes with its own effect: coarseBlock. -/
def Obligations.CoarseBlocks : Prop :=
  ∀ (n : Fin 128) (donor service : List (List Nat)), Runs (.coarseBlock n donor service) fun c d =>
    let fl := fun i : Nat => (if i < 8 then donor else service).getD (i % 8) []
    let len := fun i : Nat => SMap.get 0 c.rxLost i + (fl i).length
    let b := c.laneFlow ((List.range 16).map fl)
    let a := b.othersKeepUp n
    let k := a.blockLen n - (a.sq n).blkCnt
    let out := (blockSteps (a.dp n) k (a.sq n)).2
    let blk := fun l : DpLane =>
      let x := SMap.get {} (a.sq n).blk l.r
      if l.absent then x else
        ({ inp := x.inp + outSum LaneOut.inp l.r out, out := x.out + outSum LaneOut.out l.r out, cnt := x.cnt + k } : BlkSum)
    (∀ k, (∀ i, i < 16 → len i ≤ k) → (∃ i, i < 16 ∧ len i = k) → d.smp = c.smp + 8 * k ∧ d.rxLost = [] ∧
      ∀ i, i < 16 → SMap.get [] d.adc i = (List.replicate (8 * (k - len i)) 0 ++
        ((fl i).flatMap fun f => if flitGood f && !c.crcDown.rxZero i then flitSamples f else List.replicate 8 0).reverse ++
        List.replicate (8 * SMap.get 0 c.rxLost i) 0 ++ SMap.get [] c.adc i).take laneDepth) ∧
    d.air = b.air ∧ d.img = c.img ∧ d.ranks = c.ranks ∧
    ((∀ f ∈ (List.range 16).flatMap fl, flitGood f = true) →
      (∀ e i, (c.br e).crcLoss = false ∧ failCount (SMap.get 0 (c.br e).flits i) < 4) →
      b.regs = c.regs ∧ b.flt = c.flt ∧ b.laneSusp = c.laneSusp ∧ b.sqs = c.sqs ∧ b.air = c.air) ∧
    (∀ m, m ≠ n.val → d.sq m = a.sq m ∧ (b.processes m = false → d.sq m = b.sq m)) ∧
    (c.acts n = false ∨ b.sqState n = 0 → KeepsOff a d inCap ∧ d = { a with regs := d.regs, cap := d.cap }) ∧
    (c.acts n = true → b.sqState n ≠ 0 →
      (d.sq n).blkCnt = 0 ∧ (d.sq n).blk = [] ∧
      d.rd (F.SQ_DET_SUM_CIN n) = dbfsReg (d.coarseIn n) ∧ d.rd (F.SQ_DET_SUM_COUT n) = dbfsReg (d.coarseOut n) ∧
      (k ≠ 0 → ∀ l ∈ (a.dp n).lanes, d.rd (F.SQ_CDET_ABSENT n l.r) = b2n (decide ((blk l).cnt = 0)) ∧
        d.rd (F.SQ_CDET_CIN n l.r) = dbfsReg (if (blk l).cnt = 0 then none else some (Frac.mk' (blk l).inp (blk l).cnt)) ∧
        d.rd (F.SQ_CDET_COUT n l.r) = dbfsReg (if (blk l).cnt = 0 then none else some (Frac.mk' (blk l).out (blk l).cnt))) ∧
      d.rd (F.SQ_SAT_GAIN_SAT n) = satU 32 (c.rd (F.SQ_SAT_GAIN_SAT n) + out.foldl (fun a x => a + x.gainSat) 0) ∧
      d.rd (F.SQ_SAT_FIR_SAT n) = satU 32 (c.rd (F.SQ_SAT_FIR_SAT n) + out.foldl (fun a x => a + x.firSat) 0))

/-! ## Rank co-processors (R25, R164–R183) -/

/-- R172–R177: the deadline of a tempo runs the rank's steps once and counts the cycles; an outer step starts once at the boundary of
phase 0; a matrix window is written word by word in the inactive bank, unless it is viewed or its switch is committed.

R25, R172, R174, R175: a corrected error is counted and costs cycles; an array or memory fault mutes the rank's squares and is
recorded once; an error in a matrix bank is a fault of its square when the bank is active; the fault ends after its recovery
interval and 8 clean tempi.

Completes with its own effect: deadline, outerStep, rkEccCorrected, rkMemoryError, arrayFault, rankFaultClear, matrixWrite. -/
def Obligations.RankProcessors : Prop :=
  (∀ k : Fin 16,
     (Runs (.deadline k) fun c d =>
       ((c.rk k).done = true → d = c) ∧
       ((c.rk k).done = false →
         let first := c.rd (F.RK_STATUS_OUTER_PHASE k) = 0
         let used := (c.loops k).foldl (fun a n => a + c.costIn n) (32 + (c.rk k).extra) +
           if first then (rankSquares k).foldl (fun a n => a + c.costOut n) 0 else 0
         (d.rk k).done = true ∧ d.rd (F.RK_CYCLES_LAST_USED k) = min 3060 used ∧
         d.rd (F.RK_CYCLES_MAX_USED k) = max (c.rd (F.RK_CYCLES_MAX_USED k)) (min 3060 used) ∧
         (used ≤ 3060 → d.rd (F.RK_FLAG_INNER k) = 0 ∧ (first → d.rd (F.RK_FLAG_OUTER k) = 0) ∧ d.rd (F.RK_STATUS_FF_RUN k) = 0 ∧
           d.rd (F.RK_FLAG_FF_COUNT k) = c.rd (F.RK_FLAG_FF_COUNT k)) ∧
         (3060 < used → c.loops k ≠ [] → d.rd (F.RK_FLAG_FF_COUNT k) = satU (F.RK_FLAG_FF_COUNT k).wd (c.rd (F.RK_FLAG_FF_COUNT k) + 1) ∧
           d.rd (F.RK_STATUS_FF_RUN k) = min 8 (c.rd (F.RK_STATUS_FF_RUN k) + 1) ∧ d.rd (F.RK_INT_STATUS_FLAGFALL k) = 1) ∧
         (∀ n s : Nat, c.loops k = [n] → s = n % 8 → c.rd (F.RK_SQCTL_N_STATES k s) ≤ 8 → used ≤ 3060 →
           let m := c.matWord k s (c.rd (F.RK_SQCTL_MAT_BANK k s))
           let ns := List.range (c.rd (F.RK_SQCTL_N_STATES k s))
           let r := c.setPoint n
           d.rdS (F.RK_U_U1 k s) =
             (fin29 (-(dot ns fun j => m (144 + j) * d.xhat n j) + m 160 * r.1.1 + m 161 * r.2.1)).1 ∧
           (∀ i, i < c.rd (F.RK_SQCTL_N_STATES k s) → c.rd (F.RK_SQCTL_N_MEAS k s) = 0 → d.xhat n i =
             (fin29 ((dot ns fun j => m (8 * i + j) * c.xhat n j) + dot (List.range (c.rd (F.RK_SQCTL_N_OUT k s))) fun j => m (64 + 2 * i + j) *
               if j = 0 then (q29 (c.rdS (F.SQ_GAIN_NOW_G_NOW n))).1 else (c.rd (F.SQ_EC_STATUS_STEP_S n) : Int) * 2 ^ 14)).1)))) ∧
     (Runs (.outerStep k) fun c d =>
       let due := c.air.onB = true ∧ c.rd (F.RK_STATUS_OUTER_PHASE k) = 0 ∧ (c.rk k).outerAt ≠ some c.air.tempi
       (¬ due → d = c) ∧
       (due → (d.rk k).outerAt = some c.air.tempi ∧ (d.rk k).stepLen = 0 ∧
         d.rd (F.RK_STATUS_OUTER_STEPS k) = (c.rd (F.RK_STATUS_OUTER_STEPS k) + 1) % 2 ^ (F.RK_STATUS_OUTER_STEPS k).wd ∧
         (∀ n ∈ c.loops k, (d.sq n).redNew = some (d.newRed n)) ∧
         ((∀ n ∈ rankSquares k, c.estAt n = false) → ∀ n ∈ rankSquares k, c.acts n = true →
           (c.enabled n = true → c.on (F.SQ_EC_CTRL_EC_EN n) = true → (d.sq n).estDue = some (c.air.tempi + 1) ∧
             ((d.sq n).estNew.isSome = true ↔ ∃ p ∈ (c.sq n).lane, p.2.cnt ≠ 0)) ∧
           (c.enabled n = false ∨ c.on (F.SQ_EC_CTRL_EC_EN n) = false → (d.sq n).goodSteps = 0 ∧
             d.rd (F.SQ_EC_STATUS_AGE n) = satU (F.SQ_EC_STATUS_AGE n).wd (c.rd (F.SQ_EC_STATUS_AGE n) + 1))))) ∧
     (∀ (q : Requester) (i : Fin 8) (w : Fin 86) (h : Half) (v : Nat),
       Writes (.matrixWrite q k i w h v) q (0x1101000 + 0x4000 * k + 0x400 * i + 8 * w) fun c d =>
         d.rd (F.RK_ECC_STALLS k) = satU (F.RK_ECC_STALLS k).wd (c.rd (F.RK_ECC_STALLS k) + 1) ∧
         (d.rk k).extra = (c.rk k).extra + 1 ∧ (∀ j, j ≠ k.val → d.rk j = c.rk j) ∧
         Keeps c d [F.RK_ECC_STALLS k, F.RK_INT_STATUS_MAT_DROP k] ∧ d = { c with regs := d.regs, ranks := d.ranks } ∧
         (c.on (F.RK_CFG_VIEW_ACTIVE k) = true → (d.rk k).mat = (c.rk k).mat) ∧
         (c.locked (8 * k + i) (F.RK_SQCTL_MAT_BANK k i) = true →
           d.rd (F.RK_INT_STATUS_MAT_DROP k) = 1 ∧ (d.rk k).mat = (c.rk k).mat) ∧
         (c.on (F.RK_CFG_VIEW_ACTIVE k) = false → c.locked (8 * k + i) (F.RK_SQCTL_MAT_BANK k i) = false →
           let b := (2 * i.val + (1 - c.rd (F.RK_SQCTL_MAT_BANK k i))) * 172 + 2 * w.val
           SMap.get 0 (d.rk k).mat b = (if h.hasLo then bits (h.image v) 0 32 else SMap.get 0 (c.rk k).mat b) ∧
           SMap.get 0 (d.rk k).mat (b + 1) = (if h.hasHi then bits (h.image v) 32 32 else SMap.get 0 (c.rk k).mat (b + 1)) ∧
           (∀ j, j ≠ b → j ≠ b + 1 → SMap.get 0 (d.rk k).mat j = SMap.get 0 (c.rk k).mat j)))) ∧
  (∀ k : Fin 16,
     let raised := fun (cause : Nat) (c d : Chip) => (d.rk k).errNow = true ∧
       (c.srcBit F.FLT_ACTIVE_ACTIVE (384 + k) = true → d = { c with ranks := d.ranks, freeCtr := d.freeCtr }) ∧
       (c.srcBit F.FLT_ACTIVE_ACTIVE (384 + k) = false →
         Recorded c d (384 + k) cause ∧ d.rd (F.RK_STATUS_FAULT k) = 1 ∧ d.rd (F.RK_STATUS_CAUSE k) = cause ∧
         d.rd (F.RK_INT_STATUS_RANK_FAULT k) = 1 ∧ d.srcBit F.FLT_ACTIVE_ACTIVE (384 + k) = true ∧
         (∀ n, n / 8 = k.val → d.on (F.SQ_STATUS_MS_RANK (c.leader n)) = true))
     (Runs (.rkEccCorrected k) fun c d =>
       d.rd (F.RK_ECC_CORRECTED k) = satU (F.RK_ECC_CORRECTED k).wd (c.rd (F.RK_ECC_CORRECTED k) + 1) ∧
       (d.rk k).extra = (c.rk k).extra + 8 ∧ (c.rd (F.RK_ECC_CORRECTED k) = 0 → d.rd (F.RK_INT_STATUS_ECC_CORR k) = 1) ∧
       Keeps c d [F.RK_ECC_CORRECTED k, F.RK_INT_STATUS_ECC_CORR k] ∧ d = { c with regs := d.regs, ranks := d.ranks }) ∧
     (Runs (.arrayFault k) (raised 3)) ∧
     (Runs (.rkMemoryError k none) (raised 2)) ∧
     (∀ (i : Fin 8) (b : Fin 2) (w : Fin 172), Runs (.rkMemoryError k (some (i, b, w))) fun c d =>
       (2 * i.val + b.val) * 172 + w.val ∈ (d.rk k).matBad ∧
       (c.rd (F.RK_SQCTL_MAT_BANK k i) = b.val → Recorded c d (8 * k + i) 3 ∧ (d.sq (8 * k + i)).fParity = true) ∧
       (c.rd (F.RK_SQCTL_MAT_BANK k i) ≠ b.val → d = { c with ranks := d.ranks })) ∧
     (Runs (.rankFaultClear k) fun c d =>
       let due := c.srcBit F.FLT_ACTIVE_ACTIVE (384 + k) = true ∧ c.on (F.RK_STATUS_FAULT k) = true ∧ c.recovered (384 + k) = true ∧
         8 ≤ (c.rk k).clean
       (¬ due → d = c) ∧
       (due → d.srcBit F.FLT_ACTIVE_ACTIVE (384 + k) = false ∧
         (c.severe (384 + k) = true → (d.rk k).sevHold = true ∧ d.rd (F.RK_STATUS_FAULT k) = c.rd (F.RK_STATUS_FAULT k)) ∧
         (c.severe (384 + k) = false → d.rd (F.RK_STATUS_FAULT k) = 0 ∧ d.rd (F.RK_STATUS_CAUSE k) = 0 ∧
           d.rd (F.RK_INT_STATUS_FAULT_CLR k) = 1 ∧ ∀ n, n / 8 = k.val → d.rd (F.SQ_STATUS_MS_RANK (c.leader n)) = 0))))

/-! ## Network protection (R184–R205) -/

/-- R187–R189, R304: the exits of the oscillation mute and of the direction mutes, and the report of a permit.

Completes with its own effect: oscillationClear, noiseRiseRelease, permitReport, permitMuteRelease. -/
def Obligations.MuteExits : Prop :=
  (∀ n : Fin 128, Runs (.oscillationClear n) fun c d =>
    let due := (c.sq n).oscOn = true ∧ c.recovered (256 + n) = true
    (¬ due → d = c) ∧
    (due → (d.sq n).oscOn = false ∧ d.srcBit F.FLT_ACTIVE_ACTIVE (256 + n) = false ∧
      (c.severe (256 + n) = true → (d.sq n).sevOsc = true ∧
        d.rd (F.SQ_STATUS_MS_PROTECT (c.leader n)) = c.rd (F.SQ_STATUS_MS_PROTECT (c.leader n))) ∧
      (c.severe (256 + n) = false →
        ((∃ m ∈ c.group (c.leader n), m ≠ n.val ∧ ((c.sq m).oscOn = true ∨ (c.sq m).sevOsc = true)) →
          d.rd (F.SQ_STATUS_MS_PROTECT (c.leader n)) = c.rd (F.SQ_STATUS_MS_PROTECT (c.leader n))) ∧
        ((∀ m ∈ c.group (c.leader n), m ≠ n.val → (c.sq m).oscOn = false ∧ (c.sq m).sevOsc = false) →
          d.rd (F.SQ_STATUS_MS_PROTECT (c.leader n)) = 0 ∧
          (c.group n = [n.val] → c.leader n = n → (c.sq n).oscIn = true →
            (d.sq n).oscLimit = some (limitTo ((c.sq n).gDet - 600) (c.sq n).oscLimit)))))) ∧
  (Runs .noiseRiseRelease fun c d =>
    let due := c.on F.PRT_STATUS_DIR_NR = true ∧ c.dueAfter c.prt.nrAt (c.rd F.PRT_DIR_CFG_DIR_HOLD) = true
    (¬ due → d = c) ∧
    (due → d.rd F.PRT_STATUS_DIR_NR = 0 ∧ d.rdBit F.PRT_INT_STATUS_EVENT 1 = true ∧
      (∀ n, n < 128 → c.isMember n = false → c.on (dirPermit (txDie n)) = false → d.rd (F.SQ_STATUS_MS_DIRECTION n) = 0) ∧
      d = { c with regs := d.regs, sqs := d.sqs, flt := d.flt })) ∧
  (∀ (e : Fin 2) (p : Bool), Runs (.permitReport e p) fun c d =>
    ((c.br e).st ≠ 2 ∨ c.on (F.CNV_STATUS_PERMIT e) = p → d = c) ∧
    ((c.br e).st = 2 → c.on (F.CNV_STATUS_PERMIT e) ≠ p →
      d.rd (F.CNV_STATUS_PERMIT e) = b2n p ∧ d.rdBit F.PRT_INT_STATUS_EVENT 2 = true ∧
      (p = true → d.prt.permitAt.find e = some c.ceilTempo) ∧
      (p = false → d.prt.permitAt.find e = none ∧
        (c.rd (F.CNV_STATUS_STATE e) = 3 ∨ c.rd (F.CNV_STATUS_STATE e) = 4 → d.on (dirPermit e) = true ∧
          (c.on (dirPermit e) = false → ∀ n, n < 128 → c.isMember n = false → txDie n = e.val →
            d.on (F.SQ_STATUS_MS_DIRECTION n) = true))))) ∧
  (∀ e : Fin 2, Runs (.permitMuteRelease e) fun c d =>
    (c.prt.permitAt.find e = none → d = c) ∧
    (∀ t, c.prt.permitAt.find e = some t → c.on (dirPermit e) = true → c.dueAfter t 16 = true →
      d.rd (dirPermit e) = 0 ∧ d.rdBit F.PRT_INT_STATUS_EVENT 1 = true ∧
      (∀ n, n < 128 → c.isMember n = false → txDie n = e.val → isUl n = false ∨ c.on F.PRT_STATUS_DIR_NR = false →
        d.rd (F.SQ_STATUS_MS_DIRECTION n) = 0) ∧
      d = { c with regs := d.regs, sqs := d.sqs, flt := d.flt }))

/-- R190, R191, R195: the protection pin stops every square, whatever else holds; its release needs the acknowledgment, or the level held
for its time; at a boundary MS_STOP ends where no stop covers the square any more.

Completes with its own effect: protectNLow, protectNHigh, pinAck, pinStopRelease, stopRelease. -/
def Obligations.PinStops : Prop :=
  (RunsAlways .protectNLow fun c d =>
    d.prt = { c.prt with pinHigh := false, pinAck := none } ∧
    (c.running = false → d = { c with prt := d.prt }) ∧
    (c.running = true → d.rd F.PRT_STATUS_PIN_LEVEL = 0 ∧
      (c.on F.PRT_STATUS_PIN_STOP = true → Keeps c d [F.PRT_STATUS_PIN_LEVEL]) ∧
      (c.on F.PRT_STATUS_PIN_STOP = false → d.rd F.PRT_STATUS_PIN_STOP = 1 ∧ d.rdBit F.PRT_INT_STATUS_EVENT 3 = true ∧
        (∀ n, n < 128 → c.isMember n = false → d.on (F.SQ_STATUS_MS_STOP n) = true) ∧
        (c.on F.PRT_CTRL_PIN_SYSTEM = true → ∀ p, p < 2 → (d.port p).stopQ =
          (c.port p).stopQ ++ [{ cls := 0, blocks := stopBlocks 2 0 0 (c.rd F.PRT_DEVID_DEVICE_ID) [] }]) ∧
        (c.on F.PRT_CTRL_PIN_SYSTEM = false → d.chl = c.chl)))) ∧
  (RunsAlways .protectNHigh fun c d =>
    (c.prt.pinHigh = true → d = c) ∧
    (c.prt.pinHigh = false → d.prt = { c.prt with pinHigh := true, pinHighAt := c.ceilTempo } ∧ Keeps c d [F.PRT_STATUS_PIN_LEVEL] ∧
      (c.running = true → d.rd F.PRT_STATUS_PIN_LEVEL = 1) ∧ d = { c with regs := d.regs, prt := d.prt })) ∧
  (∀ q : Requester, Writes (.pinAck q) q 0x1300008 fun c d =>
    (c.prt.pinHigh = true → c.on F.PRT_STATUS_PIN_STOP = true → d = { c with prt := { c.prt with pinAck := some (c.air.tempi + 1) } }) ∧
    (c.prt.pinHigh = false ∨ c.on F.PRT_STATUS_PIN_STOP = false → d = c)) ∧
  (Runs .pinStopRelease fun c d =>
    let may := (c.on F.PRT_CTRL_PIN_MODE = true ∧ c.air.onB = true ∧ ∃ t, c.prt.pinAck = some t ∧ t ≤ c.air.tempi) ∨
      (c.on F.PRT_CTRL_PIN_MODE = false ∧ c.prt.pinHigh = true ∧ c.dueAfter c.prt.pinHighAt (c.rd F.PRT_CTRL_PIN_RELEASE) = true)
    (¬ may ∨ c.on F.PRT_STATUS_PIN_STOP = false → d = c) ∧
    (may → c.on F.PRT_STATUS_PIN_STOP = true → d.rd F.PRT_STATUS_PIN_STOP = 0 ∧ d.prt = { c.prt with pinAck := none } ∧
      (∀ n, n < 128 → c.isMember n = false → d.stopCovers n = false → d.rd (F.SQ_STATUS_MS_STOP n) = 0))) ∧
  (Runs .stopRelease fun c d =>
    (c.air.onB = false → d = c) ∧
    (c.air.onB = true → d = { c with regs := d.regs, sqs := d.sqs } ∧ ∀ n, n < 128 → c.isMember n = false →
      (c.stopCovers n = true → d.on (F.SQ_STATUS_MS_STOP n) = true) ∧ (c.stopCovers n = false → d.rd (F.SQ_STATUS_MS_STOP n) = 0)))

/-- R194, R195, R200: a mailbox takes words while it is not busy; GO submits it; the free key store takes the next one; the message is
judged by the checks of R195, and an accepted RESIGN sets the latch of its function, an accepted RESUME clears it.

Completes with its own effect: mailboxWrite, mailboxGo, verifyStart, resign, resume, cmdReject. -/
def Obligations.StopMessages : Prop :=
  (∀ (q : Requester) (f : Fin 9),
    (∀ (w : Fin 20) (h : Half) (v : Nat), Writes (.mailboxWrite q f w h v) q (0x1301000 + 0x100 * f + 8 * w) fun c d =>
      (c.on (F.PRT_CMD_STATUS_BUSY f) = false →
        d.rd (F.PRT_MBOX_DATA f w) = fldNew (F.PRT_MBOX_DATA f w) h (c.rd (F.PRT_MBOX_DATA f w)) (h.image v) ∧
        RegsOnly c d [F.PRT_MBOX_DATA f w]) ∧
      (c.on (F.PRT_CMD_STATUS_BUSY f) = true →
        d.rd (F.PRT_CMD_STATUS_DROPPED f) = satU (F.PRT_CMD_STATUS_DROPPED f).wd (c.rd (F.PRT_CMD_STATUS_DROPPED f) + 1) ∧
        RegsOnly c d [F.PRT_CMD_STATUS_DROPPED f])) ∧
    (Writes (.mailboxGo q f) q (0x13010F8 + 0x100 * f) fun c d =>
      (c.on (F.PRT_CMD_STATUS_BUSY f) = false → d.rd (F.PRT_CMD_STATUS_BUSY f) = 1 ∧ Keeps c d [F.PRT_CMD_STATUS_BUSY f] ∧
        d = { c with regs := d.regs, prt := { c.prt with pendBox := setIns f c.prt.pendBox } }) ∧
      (c.on (F.PRT_CMD_STATUS_BUSY f) = true →
        d.rd (F.PRT_CMD_STATUS_DROPPED f) = satU (F.PRT_CMD_STATUS_DROPPED f).wd (c.rd (F.PRT_CMD_STATUS_DROPPED f) + 1) ∧
        RegsOnly c d [F.PRT_CMD_STATUS_DROPPED f])) ∧
    (∀ (h : Half) (v : Nat), h = .hi ∨ bit v 0 = false →
      Writes (.registerWrite q (q.addr (0x13010F8 + 0x100 * f)) h v) q (0x13010F8 + 0x100 * f) fun c d =>
        (c.on (F.PRT_CMD_STATUS_BUSY f) = false → d = c) ∧
        (c.on (F.PRT_CMD_STATUS_BUSY f) = true →
          d.rd (F.PRT_CMD_STATUS_DROPPED f) = satU (F.PRT_CMD_STATUS_DROPPED f).wd (c.rd (F.PRT_CMD_STATUS_DROPPED f) + 1) ∧
          RegsOnly c d [F.PRT_CMD_STATUS_DROPPED f]))) ∧
  (Runs .verifyStart fun c d =>
    (c.prt.verifying.isSome = true ∨ c.on F.SEC_STATUS_SELFTEST_DONE = false ∨ nextBox c.prt = none → d = c) ∧
    (∀ f, c.prt.verifying = none → c.on F.SEC_STATUS_SELFTEST_DONE = true → nextBox c.prt = some f →
      d.rd F.PRT_STATUS_VERIFY_BUSY = 1 ∧ d.prt.verifying = some f ∧ d.prt.keyCopy = c.keySlot f ∧
      d.prt.pendBox = setDel f c.prt.pendBox ∧ Keeps c d [F.PRT_STATUS_VERIFY_BUSY] ∧ d = { c with regs := d.regs, prt := d.prt })) ∧
  (∀ f : Nat, f < 9 →
    let judged := fun c : Chip => c.verdict (c.mboxBytes f) f c.prt.keyCopy c.prt.memErr
    let done := fun (code : Nat) (c d : Chip) => d.rd (F.PRT_CMD_STATUS_RESULT f) = code % 2 ^ (F.PRT_CMD_STATUS_RESULT f).wd ∧
      d.rd (F.PRT_CMD_STATUS_BUSY f) = 0 ∧ d.rd F.PRT_STATUS_VERIFY_BUSY = 0 ∧ d.prt.verifying = none ∧ c.img = d.img
    (Runs .resign fun c d => c.prt.verifying = some f →
      (msgNum (c.mboxBytes f) 2 1 ≠ 1 ∨ judged c ≠ 1 → d = c) ∧
      (msgNum (c.mboxBytes f) 2 1 = 1 → judged c = 1 → done 1 c d ∧ d.stopped f = true ∧
        d.rd (F.PRT_CTR_COUNTER f) = msgNum (c.mboxBytes f) 8 8 % 2 ^ 64 ∧
        (f = 0 → ∀ n, n < 128 → c.isMember n = false → c.stopped 0 = false → d.on (F.SQ_STATUS_MS_STOP n) = true))) ∧
    (Runs .resume fun c d => c.prt.verifying = some f →
      (msgNum (c.mboxBytes f) 2 1 ≠ 2 ∨ judged c ≠ 1 → d = c) ∧
      (msgNum (c.mboxBytes f) 2 1 = 2 → judged c = 1 → done 1 c d ∧ d.stopped f = false ∧
        d.rd (F.PRT_CTR_COUNTER f) = msgNum (c.mboxBytes f) 8 8 % 2 ^ 64 ∧ (∀ j, j < 4 → d.rd (F.PRT_LATCH_HASH_HASH f j) = 0))) ∧
    (Runs .cmdReject fun c d => c.prt.verifying = some f →
      (judged c = 1 → d = c) ∧
      (judged c ≠ 1 → done (judged c) c d ∧ d.stopped f = c.stopped f ∧ d.rd (F.PRT_CTR_COUNTER f) = c.rd (F.PRT_CTR_COUNTER f) ∧
        d.sqs = c.sqs)))

/-! ## Gain plans (R206–R223) -/

/-- R206–R209: a write of registers with staged fields claims its target for the requester's context and stages each value that is no
reserved encoding; a target of another context, or a committed plan, drops it. Active values stay as they are.

R210, R211, R217: a commit makes the plan PENDING for a tempo boundary, or WAIT_SCHED; one of a committed plan, with DISCARD, or a
scheduled one of a VF is dropped; DISCARD and RELEASE drop the staging, once the boundary of the context's plan has begun after it.

Completes with its own effect: stageWrite, planCommit, planCommitSched, planDiscard, planRelease. -/
def Obligations.PlanStagingAndCommits : Prop :=
  (∀ (q : Requester) (a v : Nat) (h : Half), Writes (.stageWrite q a h v) q a fun c d =>
     let rows := (regAt a).getD []
     let rs := rwpRows rows h
     let t := targetOf a
     let x := q.ctx
     ((∀ r ∈ rows, r.acc = .rwp) → Keeps c d ([F.GPL_STATUS_STATE x, F.GPL_DROPS_STAGE_DROP x, F.GPL_CTX_INT_STATUS_STAGE_DROP x] ++
       (List.range 16).map F.RK_ECC_STALLS)) ∧
     d = { c with regs := d.regs, claims := d.claims, shadow := d.shadow, gpl := d.gpl, ranks := d.ranks } ∧
     (rs = [] → d.claims = c.claims ∧ d.shadow = c.shadow ∧ d.gpl = c.gpl) ∧
     ((∀ r ∈ rows, r.acc = .rwp) → rs ≠ [] → c.committed x = true ∨ (∃ y, c.claims.find t = some y ∧ y ≠ x) →
       d.rd (F.GPL_DROPS_STAGE_DROP x) = satU (F.GPL_DROPS_STAGE_DROP x).wd (c.rd (F.GPL_DROPS_STAGE_DROP x) + 1) ∧
       d.claims = c.claims ∧ d.shadow = c.shadow) ∧
     ((∀ r ∈ rows, r.acc = .rwp) → rs ≠ [] → c.committed x = false → (∀ y, c.claims.find t = some y → y = x) →
       d.claims.find t = some x ∧ (∀ u, u ≠ t → d.claims.find u = c.claims.find u) ∧
       (rs.Pairwise (fun r r' => r.fld.key ≠ r'.fld.key) → ∀ r ∈ rs,
         let new := fldNew r.fld h (c.shadowRd r.fld) (h.image v)
         d.shadow.find r.fld.key = some (if r.vmin ≤ new ∧ new ≤ r.vmax then new else c.shadowRd r.fld)) ∧
       (∀ k, (∀ r ∈ rs, r.fld.key ≠ k) → d.shadow.find k = c.shadow.find k))) ∧
  (∀ q : Requester,
     let x := q.ctx
     (∀ p : Nat,
       (Writes (.planCommit q p false) q (aCommit x) fun c d =>
         (c.committed x = true → CommitDropped x c d ∧ Keeps c d [F.GPL_DROPS_COMMIT_DROP x, F.GPL_CTX_INT_STATUS_COMMIT_DROP x] ∧
           d = { c with regs := d.regs }) ∧
         (c.committed x = false → d.rd (F.GPL_STATUS_STATE x) = 2 ∧ d.rd (F.GPL_STATUS_PLAN_ID x) = p % 2 ^ 16 ∧
           d.gpl.due = c.gpl.due ++ [(x, c.air.tempi + if 262144 ≤ (c.nextBoundary - c.now) * 3125 then 1 else 2)] ∧
           Keeps c d [F.GPL_STATUS_STATE x, F.GPL_STATUS_PLAN_ID x, F.GPL_STATUS_TARGETS x] ∧ d = { c with regs := d.regs, gpl := d.gpl })) ∧
       (Writes (.planCommit q p true) q (aCommit x) fun c d => CommitDropped x c d ∧ Drops x c d) ∧
       (Writes (.planCommitSched q p false) q (aCommit x) fun c d =>
         (c.committed x = true ∨ q.isVf = true → CommitDropped x c d ∧ d = { c with regs := d.regs }) ∧
         (c.committed x = false → q.isVf = false → d.rd (F.GPL_STATUS_STATE x) = 3 ∧ d.rd (F.GPL_STATUS_PLAN_ID x) = p % 2 ^ 16 ∧
           Keeps c d [F.GPL_STATUS_STATE x, F.GPL_STATUS_PLAN_ID x, F.GPL_STATUS_TARGETS x] ∧ d = { c with regs := d.regs })) ∧
       (Writes (.planCommitSched q p true) q (aCommit x) fun c d => CommitDropped x c d ∧ Drops x c d)) ∧
     (Writes (.planDiscard q) q (aCommit x) (Drops x)) ∧
     (∀ y : Nat, Writes (.planRelease q y) q 0x1400018 fun c d =>
       (q = .pf → 1 ≤ y % 16 → y % 16 ≤ 9 → Drops (y % 16) c d) ∧
       (q ≠ .pf ∨ y % 16 = 0 ∨ 9 < y % 16 → d = c)))

/-- R211–R216: at its boundary the plan that is first due is checked; one that fails changes no square and reports the first reason; one
that passes activates every staged value of its targets and of no other field, and reports APPLIED.

Completes with its own effect: planApply. -/
def Obligations.PlanApplication : Prop :=
  ∀ (x : Fin 10) (t : Nat) (l : List (Nat × Nat)),
    (Runs (.planApply x) fun c d => c.gpl.due = (x.val, t) :: l → t ≤ c.air.tempi → c.gpl.schedAt ≠ some c.air.tempi →
      (∀ o ∈ c.air.taken, o.kind ≠ 3) → c.img.clearLate = false →
      let c' := (c.wr (F.GPL_DONE_AT_AT x) c.now).setGpl fun g => { g with due := g.due.filter fun p => p.1 ≠ x.val }
      (c.air.onB = false ∨ c.tenDue = true → d = c) ∧
      (c.air.onB = true → c.tenDue = false →
        (∀ reason at0, c'.check x = some (reason, at0) → c.gpl.late.contains x.val = false →
          d.rd (F.GPL_STATUS_STATE x) = 5 ∧ d.rd (F.GPL_STATUS_REASON x) = reason % 2 ^ (F.GPL_STATUS_REASON x).wd ∧
          d.rd (F.GPL_STATUS_TARGET x) = at0 % 2 ^ (F.GPL_STATUS_TARGET x).wd ∧ d.rd (F.GPL_CTX_INT_STATUS_FAILED x) = 1 ∧
          d.claims = c.claims ∧ d.shadow = c.shadow ∧
          (c.judged → d.sqs = c.sqs ∧
            Keeps c d [F.GPL_STATUS_STATE x, F.GPL_STATUS_REASON x, F.GPL_STATUS_TARGET x, F.GPL_CTX_INT_STATUS_FAILED x,
              F.GPL_COUNT_FAILED, F.GPL_DONE_AT_AT x])) ∧
        (c'.check x = none → d.claimsOf x = [] ∧ d.rd (F.GPL_STATUS_STATE x) = 4 ∧ d.rd (F.GPL_STATUS_REASON x) = 1 ∧ d.rd (F.GPL_STATUS_TARGET x) = 0xFF ∧
          d.rd (F.GPL_CTX_INT_STATUS_APPLIED x) = 1 ∧ d.rd F.GPL_LAST_CTX = x.val ∧
          d.rd F.GPL_LAST_PLAN_ID = c.rd (F.GPL_STATUS_PLAN_ID x) % 2 ^ 16))) ∧
    (∀ (c : Chip) (f : Fld), c.shadow.Pairwise (fun p p' => p.1 ≠ p'.1) →
      (∀ v r, (f.key, v) ∈ c.shadow → c.claims.find (targetOf (keyAddr f.key)) = some x.val →
        ((regAt (keyAddr f.key)).bind fun l => l.find? fun r => r.fld.key = f.key) = some r → r.fld = f →
        (c.activate x).rd f = v % 2 ^ f.wd) ∧
      (c.claims.find (targetOf (keyAddr f.key)) ≠ some x.val → (c.activate x).rd f = c.rd f) ∧
      c.activate x = { c with regs := (c.activate x).regs })

/-! ## The metrology die (R224–R246) -/

/-- R224–R229, R244: a reset or a clock fault, in a start too, stops the ZMD and its permit, and a report on the mirror link is lost (the model's
choice, log 110); a restart after a clock fault marks the next report; a start that completes takes the highest valid generation, and
gives the permit unless the die calibration failed.

R238, R239: a decision withdraws the permit and starts a hold, twice as long as the last one within 60 s of its end; the hold ends
when no input meets CEILING any more.

The model's choices in it: a report on the mirror link is lost (log 110), and a change of the seal is seen at the next start (log 26).

Completes with its own effect: zmdReset, zmdStartDone, clockFault, zmdRestart, guardDecision, guardHoldEnd, guardHoldReset. -/
def Obligations.MeterStartAndGuard : Prop :=
  ((RunsAlways .zmdReset fun c d => (c.zmdPower = false → d = c) ∧ (c.zmdPower = true → MeterStopped false c d)) ∧
   (RunsAlways .clockFault fun c d =>
     (c.zmdPower = false ∨ c.zmd.clkWait = true → d = c) ∧ (c.zmdPower = true → c.zmd.clkWait = false → MeterStopped true c d)) ∧
   (RunsAlways .zmdRestart fun c d =>
     (c.zmd.clkWait = false → d = c) ∧
     (c.zmd.clkWait = true → d.zmd.clkWait = false ∧ d.zmd.mem.clkFlag = true ∧ MeterStays c d)) ∧
   (∀ (otpOk : Bool) (found : StartFound) (monOk calen : Bool), RunsAlways (.zmdStartDone otpOk found monOk calen) fun c d =>
     (c.zmd.mem.run = true ∨ c.zmd.clkWait = true ∨ c.zmdPower = false → d = c) ∧
     (c.zmd.mem.run = false → c.zmd.clkWait = false → c.zmdPower = true →
       let g := c.zmd.best found.slots
       let sl := if otpOk = false then 3 else if g = 0 then 1 else 2
       let valid := monOk = true ∧ c.zmd.vbatLost = false
       d.zmd.mem.run = true ∧ d.zmd.mem.sealed = sl ∧ d.zmd.mem.calGen = (if sl = 2 then g else 0) ∧
       d.zmd.bootEpoch = (if valid then (c.zmd.bootEpoch + 1) % 2 ^ 32 else 1) ∧ (d.zmd.mem.monLost = false ↔ valid) ∧
       d.zmd.mem.session = calen ∧ d.zmd.mem.clkFlag = c.zmd.mem.clkFlag ∧ d.zmd.mem.zt = 0 ∧ d.zmd.mem.seq = 0 ∧
       d.zmd.mem.reports = [] ∧ d.zmd.mem.hold = false ∧ d.zmd.permit = (otpOk && !c.zmd.hot) ∧
       (∀ i, i < 16 → SMap.get 0 d.zmd.mem.gain i = found.refs.getD i 0 ∧
         d.zmd.mem.refFail i = decide (100 < (found.refs.getD i 0).natAbs)) ∧
       (sl ≠ 2 → d.zmd.mem.wins = []) ∧ d.zmd.slots = c.zmd.slots ∧ d.zmd.used = c.zmd.used ∧ d = { c with zmd := d.zmd }))) ∧
  ((∀ blocks : List (List Int), RunsAlways (.guardDecision blocks) fun c d =>
     let hit := fun i : Nat => ceilingHit (c.zmd.ceiling i) (blocks.getD i []) = true ∨ runawayHit (blocks.getD i []) = true
     (c.zmd.mem.run = false ∨ (∀ i, i < 16 → ¬ hit i) → d = c) ∧
     (∀ i, i < 16 → hit i → (∀ j, j < i → ¬ hit j) → c.zmd.mem.run = true →
       d.zmd.mem.hold = true ∧ d.zmd.permit = false ∧ d.zmd.mem.events = c.zmd.mem.events + 1 ∧
       d.zmd.mem.guardCnt = satU 16 (c.zmd.mem.guardCnt + 1) ∧
       (∃ cause, 1 ≤ cause ∧ cause ≤ 3 ∧ d.zmd.mem.decisions = ((c.zmd.mem.zt, cause, i) :: c.zmd.mem.decisions).take 32) ∧
       (c.zmd.mem.hold = true → d.zmd.mem.holdMs = c.zmd.mem.holdMs ∧ d.zmd.mem.holdFrom = c.zmd.mem.holdFrom) ∧
       (c.zmd.mem.hold = false → d.zmd.mem.holdFrom = c.zmd.mem.zt ∧
         (c.zmd.mem.holdEnd = none → d.zmd.mem.holdMs = 10) ∧
         (∀ t, c.zmd.mem.holdEnd = some t → d.zmd.mem.holdMs =
           if c.zmd.mem.zt ≤ t + 60000 * zmMs then min 40960 (2 * c.zmd.mem.holdMs) else 10)) ∧
       d.zmd.mem.wins = c.zmd.mem.wins ∧ d.zmd.mem.reports = c.zmd.mem.reports ∧ d = { c with zmd := d.zmd })) ∧
   (∀ ceil : Bool, RunsAlways (.guardHoldEnd ceil) fun c d =>
     let t := max c.zmd.mem.zt (c.zmd.mem.holdFrom + c.zmd.mem.holdMs * zmMs)
     (c.zmd.mem.hold = false → d = c) ∧
     (c.zmd.mem.hold = true → d.zmd.mem.zt = t ∧ d.zmd.mem.holdMs = c.zmd.mem.holdMs ∧
       d.zmd.mem.decisions = c.zmd.mem.decisions ∧ d = { c with zmd := d.zmd } ∧
       (ceil = true → d.zmd.mem.hold = true ∧ d.zmd.mem.holdFrom = t ∧ d.zmd.permit = false) ∧
       (ceil = false → d.zmd.mem.hold = false ∧ d.zmd.mem.holdEnd = some t ∧
         d.zmd.permit = (c.zmd.mem.run && (c.zmd.mem.sealed = 1 || c.zmd.mem.sealed = 2) && !c.zmd.hot)))) ∧
   (RunsAlways .guardHoldReset fun c d =>
     (c.zmd.mem.run = false ∨ c.zmd.mem.hold = true → d = c) ∧
     (c.zmd.mem.run = true → c.zmd.mem.hold = false → d.zmd.mem.holdMs = 10 ∧ d.zmd.mem.holdEnd = none ∧
       d.zmd.mem.decisions = c.zmd.mem.decisions ∧ MeterStays c d)))

/-- R233–R236, R240, R241, R243: a dwell that ends is summed in the window in which it began, with the gain correction of then, and the
receiver turns to the next window; the reference check corrects its gain; a period ends with its report and the settings that waited,
and the signed report is held with the last 16. In VOID the signature is 0 (the model's choice, log 19); else it is the ECDSA signature
of the report's bytes, whose secret number is free (Config.freeValue).

The model's choices in it: the accumulator stays as it is for a reference of another frequency, corrections add up from the next dwell
on (log 107), and a corrected power is rounded down (log 108).

Completes with its own effect: referenceCheck, dwellEnd, reportPeriodEnd, reportSigned. -/
def Obligations.MeterWork : Prop :=
  (∀ (input : Fin 16) (corr : Int), RunsAlways (.referenceCheck input corr) fun c d =>
    (c.zmd.mem.run = false ∨ c.zmd.hot = true → d = c) ∧
    (c.zmd.mem.run = true → c.zmd.hot = false → MeterStays c d ∧ d.zmd.mem.refFail input = decide (100 < corr.natAbs) ∧
      SMap.get 0 d.zmd.mem.refCorr input = corr ∧ SMap.get 0 d.zmd.mem.gain input = SMap.get 0 c.zmd.mem.gain input + corr ∧
      ∀ j, j ≠ input.val → SMap.get 0 d.zmd.mem.refCorr j = SMap.get 0 c.zmd.mem.refCorr j ∧
        SMap.get 0 d.zmd.mem.gain j = SMap.get 0 c.zmd.mem.gain j ∧ d.zmd.mem.dwells.find j = c.zmd.mem.dwells.find j)) ∧
  (∀ (input : Fin 16) (blocks : List Nat) (above ok : Bool), RunsAlways (.dwellEnd input blocks above ok) fun c d =>
    (c.zmd.mem.run = false ∨ c.zmd.hot = true ∨ c.zmd.mem.dwells.find input = none → d = c) ∧
    (∀ w, c.zmd.mem.run = true → c.zmd.hot = false → c.zmd.mem.dwells.find input = some w →
      let key := 16 * input.val + w.win
      let a := SMap.get {} c.zmd.mem.acc key
      let a' := SMap.get {} d.zmd.mem.acc key
      let l := blocks.map (corrected w.gain)
      let same := c.zmd.mem.wins.find key = some (w.fc, w.bw)
      (same → a'.dwells = a.dwells + 1 ∧ a'.cnt = a.cnt + blocks.length ∧ a'.sum = a.sum + l.foldl (· + ·) 0 ∧
        a'.peak = max a.peak (l.foldl max 0) ∧ a'.above = (a.above || above) ∧ a'.us = a.us + w.us ∧ (ok = false → a'.bad = true)) ∧
      (¬ same → d.zmd.mem.acc = c.zmd.mem.acc) ∧
      (∀ k, k ≠ key → SMap.get {} d.zmd.mem.acc k = SMap.get {} c.zmd.mem.acc k) ∧
      (∀ v x, (c.zmd.mem.winsOf input).find? (fun v => w.win < v) = some v → c.zmd.mem.wins.find (16 * input + v) = some x →
        d.zmd.mem.dwells.find input = some ⟨v, x.1, x.2, c.zmd.mem.dwell, SMap.get 0 c.zmd.mem.gain input⟩) ∧
      d.zmd.mem.wins = c.zmd.mem.wins ∧ d.zmd.mem.reports = c.zmd.mem.reports ∧
      d = { c with zmd := d.zmd, freeCtr := c.freeCtr + 1 })) ∧
  (RunsAlways .reportPeriodEnd fun c d =>
    (c.zmd.mem.run = false → d = c) ∧
    (c.zmd.mem.run = true →
      let m := c.zmd.mem
      let zt := m.start + m.period * zmMs
      d.zmd.mem.zt = max m.zt zt ∧ d.zmd.mem.seq = m.seq + 1 ∧ d.zmd.mem.start = zt ∧ d.zmd.mem.acc = [] ∧ d.zmd.mem.events = 0 ∧ d.zmd.mem.pps = none ∧
      d.zmd.mem.signing = some (m.seq + 1, c.zmd.report (c.rd F.PRT_DEVID_DEVICE_ID) c.freeCtr zt) ∧
      (d.zmd.mem.period, d.zmd.mem.dwell) = m.timeNew.getD (m.period, m.dwell) ∧ d.zmd.mem.timeNew = none ∧
      d.zmd.mem.nonce = m.nonceNew.getD [] ∧ d.zmd.mem.nonceNew = none ∧ d.zmd.mem.winNew = [] ∧
      (m.winNew = [] → d.zmd.mem.wins = m.wins) ∧ (∀ k x, m.winNew = [(k, some x)] → d.zmd.mem.wins = SMap.insert k x m.wins) ∧
      (∀ k, m.winNew = [(k, none)] → d.zmd.mem.wins = SMap.erase k m.wins) ∧
      d.zmd.mem.reports = m.reports ∧ d.zmd.mem.hold = m.hold ∧ d = { c with zmd := d.zmd, freeCtr := c.freeCtr + 1 })) ∧
  (RunsAlways .reportSigned fun c d =>
    (c.zmd.mem.signing = none → d = c) ∧
    (∀ n rep, c.zmd.mem.signing = some (n, rep) →
      let sig := if c.zmd.mem.sealed = 3 then List.replicate 64 0 else signReport rep c.free
      d.zmd.mem.reports = ((n, rep ++ sig) :: c.zmd.mem.reports).take 16 ∧ d.zmd.mem.signing = none ∧
      d.zmd.mem.mir = some (n, rep ++ sig, c.mirSeen) ∧ d.zmd.evts = c.zmd.evts + 1 ∧ d.zmd.mem.seq = c.zmd.mem.seq ∧
      d.zmd.mem.wins = c.zmd.mem.wins ∧ Keeps c d [F.MTR_STATUS_REPORT_LOST] ∧
      (∀ m r, c.zmd.mem.mir = some (m, r, true) → d.rd F.MTR_STATUS_REPORT_LOST = 1) ∧
      d = { c with regs := d.regs, zmd := d.zmd, freeCtr := c.freeCtr + 1 }))

/-- R231, R241–R243: the ZMD answers each command of its port with the status that the command's checks give and its data; a command that
fails a check changes nothing. A port that does not run is silent.

The model's choices in it: the layout of the payloads (log 109), and a failed burn uses its slot (log 26).

Completes with its own effect: getId, getStatus, getReport, setWindows, setTiming, setNonce, getGuard, calWrite, calLock, unknownCmd,
meterPortCrcFail. -/
def Obligations.MeterPort : Prop :=
  let port := fun (i : Instr) (P : Chip → Chip → Prop) => RunsAlways i fun c d =>
    (c.zmd.mem.run = false → d = c) ∧ (c.zmd.mem.run = true → P c d)
  ∀ tag : Nat,
    (∀ len : Nat,
      (port (.getId tag len) fun c d => (len ≠ 0 → Answered 1 tag 3 [] c d) ∧
        (len = 0 → Answered 1 tag 0 (beBytes 8 (c.rd F.PRT_DEVID_DEVICE_ID) ++ [c.zmd.mem.sealed, c.zmd.mem.calGen] ++
          beBytes 4 c.zmd.bootEpoch ++ zmdIdent.flatMap (beBytes 32)) c d)) ∧
      (port (.getStatus tag len) fun c d => (len ≠ 0 → Answered 2 tag 3 [] c d) ∧
        (len = 0 → let x := c.zmd.mem.decisions.headD (0, 0, 0)
          Answered 2 tag 0 (beBytes 8 c.zmd.mem.zt ++ [b2n c.zmd.permit, b2n c.zmd.permit, b2n c.zmd.mem.hold] ++
            beBytes 2 c.zmd.mem.holdMs ++ [x.2.1, x.2.2, b2n c.zmd.mem.clkFlag]) c d)) ∧
      (port (.getGuard tag len) fun c d => (len ≠ 0 → Answered 7 tag 3 [] c d) ∧
        (len = 0 → Answered 7 tag 0 (c.zmd.mem.decisions.flatMap fun x => beBytes 8 x.1 ++ [x.2.1, x.2.2]) c d)) ∧
      (∀ outcome : Fin 3, port (.calLock tag len outcome) fun c d =>
        (len ≠ 0 → Answered 0x11 tag 3 [] c d) ∧
        (len = 0 → c.zmd.mem.session = false → Answered 0x11 tag 7 [] c d) ∧
        (len = 0 → c.zmd.mem.session = true → 4 ≤ c.zmd.used → Answered 0x11 tag 8 [] c d ∧ d.zmd.slots = c.zmd.slots) ∧
        (len = 0 → c.zmd.mem.session = true → c.zmd.used < 4 → d.zmd.used = c.zmd.used + 1 ∧
          (outcome.val = 0 → Answered 0x11 tag 0 [c.zmd.used + 1] c d ∧ d.zmd.slots = SMap.insert (c.zmd.used + 1) c.zmd.mem.image c.zmd.slots) ∧
          (outcome.val = 1 → Answered 0x11 tag 9 [] c d ∧ d.zmd.slots = c.zmd.slots) ∧
          (outcome.val = 2 → d.zmd.mem.run = false ∧ d.zmd.permit = false ∧ d.zmd.slots = c.zmd.slots ∧ d.zmd.resp = none)))) ∧
    (∀ payload : List Nat,
      (port (.getReport tag payload) fun c d =>
        let n := beWord (payload.map (· % 256))
        (payload.length ≠ 4 → Answered 3 tag 3 [] c d) ∧
        (∀ r l, payload.length = 4 → n = 2 ^ 32 - 1 → c.zmd.mem.reports = r :: l → Answered 3 tag 0 r.2 c d) ∧
        (∀ r, payload.length = 4 → n ≠ 2 ^ 32 - 1 → (c.zmd.mem.reports.find? fun x => x.1 = n) = some r → Answered 3 tag 0 r.2 c d) ∧
        (payload.length = 4 → n ≠ 2 ^ 32 - 1 → (∀ r ∈ c.zmd.mem.reports, r.1 ≠ n) →
          ((∃ rep, c.zmd.mem.signing = some (n, rep)) → Answered 3 tag 6 [] c d) ∧
          ((∀ rep, c.zmd.mem.signing ≠ some (n, rep)) → Answered 3 tag 5 [] c d))) ∧
      (port (.setNonce tag payload) fun c d =>
        (payload.length ≠ 16 → Answered 6 tag 3 [] c d ∧ d.zmd.mem.nonceNew = c.zmd.mem.nonceNew) ∧
        (payload.length = 16 → Answered 6 tag 0 [] c d ∧ d.zmd.mem.nonceNew = some (payload.map (· % 256)))) ∧
      (∀ offset : List Nat, port (.calWrite tag offset payload) fun c d =>
        let at0 := beWord (offset.map (· % 256))
        (offset.length + payload.length < 4 → Answered 0x10 tag 3 [] c d ∧ d.zmd.mem.image = c.zmd.mem.image) ∧
        (offset.length = 4 → c.zmd.mem.session = false → Answered 0x10 tag 7 [] c d ∧ d.zmd.mem.image = c.zmd.mem.image) ∧
        (offset.length = 4 → c.zmd.mem.session = true → Answered 0x10 tag 0 [] c d ∧
          (∀ k, k < payload.length → SMap.get 0 d.zmd.mem.image (at0 + k) = payload.getD k 0 % 256) ∧
          ∀ b, b < at0 ∨ at0 + payload.length ≤ b → SMap.get 0 d.zmd.mem.image b = SMap.get 0 c.zmd.mem.image b))) ∧
    (∀ (input : Nat) (recs : List (Nat × Bool × Nat × Nat)),
      (∀ r ∈ recs, r.1 < 256 ∧ r.2.2.1 < 2 ^ 32 ∧ r.2.2.2 < 2 ^ 32) → input < 256 →
      port (.setWindows tag [input] (recs.flatMap fun r => [r.1, b2n r.2.1] ++ beBytes 4 r.2.2.1 ++ beBytes 4 r.2.2.2)) fun c d =>
        let bad := 16 ≤ input ∨ ∃ r ∈ recs, 16 ≤ r.1 ∨ (r.2.1 = true ∧ winOk r.2.2.1 r.2.2.2 = false)
        (16 < recs.length → Answered 4 tag 3 [] c d ∧ d.zmd.mem.winNew = c.zmd.mem.winNew) ∧
        (recs.length ≤ 16 → bad → Answered 4 tag 4 [] c d ∧ d.zmd.mem.winNew = c.zmd.mem.winNew) ∧
        (recs.length ≤ 16 → ¬ bad → Answered 4 tag 0 [] c d ∧
          (∀ w on fc bw, recs = [(w, on, fc, bw)] →
            d.zmd.mem.winNew = SMap.insert (16 * input + w) (if on = true then some (fc, bw) else none) c.zmd.mem.winNew))) ∧
    (∀ input recs : List Nat, (input ++ recs).length % 10 ≠ 1 → port (.setWindows tag input recs) fun c d =>
      Answered 4 tag 3 [] c d ∧ d.zmd.mem.winNew = c.zmd.mem.winNew) ∧
    (∀ a b : List Nat, port (.setTiming tag a b) fun c d =>
      let period := beWord (a.map (· % 256))
      let dwell := beWord (b.map (· % 256))
      let bad := period < 100 ∨ 60000 < period ∨ dwell < 100 ∨ 10000 < dwell
      (a.length + b.length ≠ 8 → Answered 5 tag 3 [] c d ∧ d.zmd.mem.timeNew = c.zmd.mem.timeNew) ∧
      (a.length = 4 → b.length = 4 → bad → Answered 5 tag 4 [] c d ∧ d.zmd.mem.timeNew = c.zmd.mem.timeNew) ∧
      (a.length = 4 → b.length = 4 → ¬ bad → Answered 5 tag 0 [] c d ∧ d.zmd.mem.timeNew = some (period, dwell))) ∧
    (∀ cmd : Nat, port (.unknownCmd cmd tag) fun c d =>
      (cmd % 256 ∈ [1, 2, 3, 4, 5, 6, 7, 0x10, 0x11] → d = c) ∧
      (cmd % 256 ∉ [1, 2, 3, 4, 5, 6, 7, 0x10, 0x11] → Answered cmd tag 1 [] c d)) ∧
    (port (.meterPortCrcFail tag) (Answered 0x7F tag 2 []))

/-- R244–R246, R285: the mirror shows the status of a running ZMD; a report appears whole, or is lost; a frame that fails its CRC is
counted; 1 ms without a frame is source 415.

The model's choices in it: a report that a newer one replaces or that comes while the board die does not run is lost (log 110), and a
report signed before the first status frame is not published (log 27).

Completes with its own effect: mirrorStatusFrame, mirrorReportFrame, mirrorIdentityFrame, mirrorLinkTimeout. -/
def Obligations.MeterMirror : Prop :=
  let counted := fun c d : Chip => d.rd F.MTR_LINK_ERR_CRC_ERR = satU F.MTR_LINK_ERR_CRC_ERR.wd (c.rd F.MTR_LINK_ERR_CRC_ERR + 1)
  let linked := fun d : Chip => d.rd F.MTR_STATUS_LINK = 1 ∧ d.srcCause 415 = false
  (∀ (ok : Bool) (temp : Nat), Runs (.mirrorStatusFrame ok temp) fun c d =>
    (c.zmd.mem.run = false → d = c) ∧
    (c.zmd.mem.run = true → ok = false → counted c d ∧ RegsOnly c d [F.MTR_LINK_ERR_CRC_ERR]) ∧
    (c.zmd.mem.run = true → ok = true → linked d ∧ d.mirSeen = true ∧ d.zmd = c.zmd ∧ d.rd F.MTR_STATUS_ZM_RUN = 1 ∧
      d.rd F.MTR_STATUS_SEAL = c.zmd.mem.sealed % 2 ^ F.MTR_STATUS_SEAL.wd ∧ d.rd F.MTR_STATUS_PERMIT_D = b2n c.zmd.permit ∧
      d.rd F.MTR_STATUS_PERMIT_S = b2n c.zmd.permit ∧ d.rd F.MTR_STATUS_GUARD = b2n c.zmd.mem.hold ∧
      d.rd F.MTR_ZT_ZT = c.zmd.mem.zt % 2 ^ 64 ∧ d.rd F.MTR_EPOCH_BOOT_EPOCH = c.zmd.bootEpoch % 2 ^ F.MTR_EPOCH_BOOT_EPOCH.wd ∧
      d.rd F.TH_DIE_ZMD = temp % 2 ^ F.TH_DIE_ZMD.wd)) ∧
  (∀ ok last : Bool, RunsAlways (.mirrorReportFrame ok last) fun c d =>
    (c.zmd.mem.mir = none → d = c) ∧
    (∀ n rep may, c.zmd.mem.mir = some (n, rep, may) →
      let bad := c.zmd.mem.mirBad = true ∨ ok = false ∨ c.running = false
      (c.running = true → c.mirSeen = true → ok = true → linked d) ∧ (c.running = true → c.mirSeen = true → ok = false → counted c d) ∧
      (last = false → d.zmd.mem.mir = c.zmd.mem.mir ∧ (d.zmd.mem.mirBad = true ↔ bad) ∧
        d.rd F.MTR_SEQ_GEN = c.rd F.MTR_SEQ_GEN) ∧
      (last = true → d.zmd.mem.mir = none ∧ d.zmd.mem.mirBad = false ∧
        (may = false → d.rd F.MTR_SEQ_GEN = c.rd F.MTR_SEQ_GEN ∧ d.rd F.MTR_STATUS_REPORT_LOST = c.rd F.MTR_STATUS_REPORT_LOST) ∧
        (may = true → bad → d.rd F.MTR_STATUS_REPORT_LOST = 1 ∧ d.rd F.MTR_SEQ_GEN = c.rd F.MTR_SEQ_GEN ∧
          ∀ j, j < 1042 → d.rd (F.MTR_RAW_DATA j) = c.rd (F.MTR_RAW_DATA j)) ∧
        (may = true → ¬ bad → (∀ b ∈ rep, b < 256) →
          d.rd F.MTR_SEQ_SEQ = n % 2 ^ F.MTR_SEQ_SEQ.wd ∧ d.rd F.MTR_SEQ_GEN = (c.rd F.MTR_SEQ_GEN + 1) % 2 ^ F.MTR_SEQ_GEN.wd ∧
          d.rd F.MTR_LEN_BYTES = rep.length % 2 ^ F.MTR_LEN_BYTES.wd ∧
          ∀ i, i < 8336 → bits (d.rd (F.MTR_RAW_DATA (i / 8))) (8 * (i % 8)) 8 = rep.getD i 0)))) ∧
  (∀ ok : Bool, Runs (.mirrorIdentityFrame ok) fun c d =>
    (c.zmd.mem.run = false ∨ c.mirSeen = false → d = c) ∧
    (c.zmd.mem.run = true → c.mirSeen = true → ok = false → counted c d ∧ RegsOnly c d [F.MTR_LINK_ERR_CRC_ERR]) ∧
    (c.zmd.mem.run = true → c.mirSeen = true → ok = true → linked d ∧ d.rd F.MTR_ID_DEVICE_ID = c.rd F.PRT_DEVID_DEVICE_ID % 2 ^ 64 ∧
      ∀ j i, j < 8 → i < 8 →
        bits (d.rd (F.MTR_PUBKEY_KEY j)) (8 * i) 8 = (beBytes 32 (zmdIdent.getD (j / 4) 0)).getD (8 * (j % 4) + i) 0 ∧
        bits (d.rd (F.MTR_ATTEST_SIG j)) (8 * i) 8 = (beBytes 32 (zmdIdent.getD (2 + j / 4) 0)).getD (8 * (j % 4) + i) 0)) ∧
  (Runs .mirrorLinkTimeout fun c d =>
    d.rd F.MTR_STATUS_LINK = 0 ∧ d.rd F.TH_DIE_ZMD = 0x8000 ∧ d.srcActive 415 = true ∧
    d.rd F.MTR_LINK_ERR_DOWN = (if c.on F.MTR_STATUS_LINK = true then satU F.MTR_LINK_ERR_DOWN.wd (c.rd F.MTR_LINK_ERR_DOWN + 1)
      else c.rd F.MTR_LINK_ERR_DOWN) ∧
    (c.on F.MTR_STATUS_LINK = true → Recorded c d 415 1) ∧
    (c.on F.MTR_STATUS_LINK = false → RegsOnly c d [F.MTR_STATUS_LINK, F.TH_DIE_ZMD]) ∧ d = { c with regs := d.regs, flt := d.flt })

/-! ## The PA supply (R247–R267) -/

/-- R250, R258, R260–R263: what the end of a carrier period, of the soft start and of HICCUP do, and the writes of PSU_EN.

The model's choices in it: an entry of a group to HICCUP is one event, and a joining member takes its count (log 28).

Completes with its own effect: periodEnd, softstartDone, hiccupEnd, pwmEnable, pwmDisable. -/
def Obligations.PwmChannels : Prop :=
  (∀ (q : Requester) (mask : Nat) (b : Bool), Writes (if b then .pwmEnable q mask else .pwmDisable q mask) q 0x1600000 fun c d =>
    (∀ i, i < 16 →
      bit (d.rd F.PSU_EN_EN) i = (if bit mask i then b else bit (c.rd F.PSU_EN_EN) i) ∧
      (bit (d.rd F.PSU_EN_EN) i = false → d.pst i = 0 ∧ ∀ t, d.pwmOut i t = (false, false)) ∧
      (bit (d.rd F.PSU_EN_EN) i = true → c.pst i ≠ 0 → d.pst i = c.pst i) ∧
      (bit (d.rd F.PSU_EN_EN) i = true → c.pst i = 0 → c.rd (F.PSU_CFG_GROUP i) = 0 →
        d.pst i = if c.rd (F.PSU_CFG_SS_PERIODS i) = 0 then 2 else 1)) ∧
    KeepsOff c d (fun a => (0x1600000 ≤ a ∧ a < 0x1700000) ∨ inFlt a) ∧ d = { c with regs := d.regs, pwms := d.pwms, flt := d.flt }) ∧
  (∀ ch : Fin 16,
    (Runs (.periodEnd ch) fun c d =>
      (c.pst ch ≠ 1 → c.pst ch ≠ 2 → c.pst ch ≠ 3 → d = c) ∧
      (c.pst ch = 3 → (d.pw ch).hicCnt = (c.pw ch).hicCnt + 1 ∧ d.pst ch = 3) ∧
      (c.pst ch = 1 ∨ c.pst ch = 2 ∨ c.pst ch = 3 →
        d.rd (F.PSU_CH_STATUS_DITHER_K ch) = (c.rd (F.PSU_CH_STATUS_DITHER_K ch) + 1) % 16 ∧
        d.rd (F.PSU_CH_STATUS_BANK ch) = b2n ((c.pw ch).pwmf.getD (c.rdBit F.PSU_BANKSEL_SEL ch)) ∧ (d.pw ch).pwmf = none ∧
        (d.pw ch).per = c.rd (F.PSU_BANK_PER ch (d.rd (F.PSU_CH_STATUS_BANK ch))) ∧ (d.pw ch).limWas = (c.pw ch).cbcLim ∧
        (d.pw ch).cbcLim = c.rd (F.PSU_TRIP_CFG_CBC_LIM ch)) ∧
      (c.pst ch = 1 → c.pwmClass ch ≠ .cbc → (c.pw ch).ssCnt + 1 < c.rd (F.PSU_CFG_SS_PERIODS ch) →
        d.rd (F.PSU_CH_STATUS_SS_J ch) = ((c.pw ch).ssCnt + 2) % 2 ^ (F.PSU_CH_STATUS_SS_J ch).wd) ∧
      (c.pst ch = 1 ∨ c.pst ch = 2 →
        let n := satU 8 (c.rd (F.PSU_CH_STATUS_CBC_RUN ch) + 1)
        (c.pwmClass ch = .clean → d.rd (F.PSU_CH_STATUS_CBC_RUN ch) = 0 ∧ d.pst ch = c.pst ch) ∧
        (c.pwmClass ch = .neutral → d.rd (F.PSU_CH_STATUS_CBC_RUN ch) = c.rd (F.PSU_CH_STATUS_CBC_RUN ch) ∧ d.pst ch = c.pst ch) ∧
        (c.pwmClass ch = .cbc → d.rd (F.PSU_COUNT_CBC ch) = satU 16 (c.rd (F.PSU_COUNT_CBC ch) + 1) ∧ d.rd (F.PSU_INT_STATUS_CBC ch) = 1) ∧
        (c.pwmClass ch = .cbc → n < (c.pw ch).hicN → d.rd (F.PSU_CH_STATUS_CBC_RUN ch) = n ∧ d.pst ch = c.pst ch) ∧
        (c.pwmClass ch = .cbc → (c.pw ch).hicN ≤ n → d.rd (F.PSU_CH_STATUS_CBC_RUN ch) = 0 ∧ Recorded c d 417 2 ∧
          (∀ i, i ∈ c.pwmGroup ch → c.pst i = 1 ∨ c.pst i = 2 → d.pst i = 3 ∧ ∀ t, d.pwmOut i t = (false, false)))) ∧
      (∀ i, i < 16 → i ∉ c.pwmGroup ch → d.pst i = c.pst i ∧ d.pw i = c.pw i)) ∧
    (Runs (.softstartDone ch) fun c d =>
      let done := c.pst ch = 1 ∧ (c.pw ch).ss ≤ (c.pw ch).ssCnt
      (done → d.pst ch = 2 ∧ d.rd (F.PSU_CH_STATUS_SS_J ch) = 0 ∧ d.rd (F.PSU_INT_STATUS_SS_DONE ch) = 1 ∧
        (∀ i, i < 16 → i ≠ ch.val → d.pst i = c.pst i) ∧ d = { c with regs := d.regs }) ∧
      (¬ done → d = c)) ∧
    (Runs (.hiccupEnd ch) fun c d =>
      (c.pwmFirst ch = none → d = c) ∧
      (∀ j, c.pwmFirst ch = some j → (c.pw j).hicCnt < (c.pw j).hicOff → d = c) ∧
      (∀ j, c.pwmFirst ch = some j → (c.pw j).hicOff ≤ (c.pw j).hicCnt → ∀ i, i < 16 →
        (i ∈ c.pwmGroup ch → c.pst i = 3 → d.pst i = if c.rd (F.PSU_CFG_SS_PERIODS i) = 0 then 2 else 1) ∧
        (i ∉ c.pwmGroup ch ∨ c.pst i ≠ 3 → d.pst i = c.pst i))))

/-- R256, R257, R259, R263, R264: a confirmed trip ends the pulse of its period; a hard trip latches its channels and their groups off,
and all trips in one clock are one event of source 417.

The model's choices in it: which limit and blank judge the last clocks of a period (log 28), and HARD_LIM without a period (log 111).

Completes with its own effect: cbcTrip, hardTrip. -/
def Obligations.PwmTrips : Prop :=
  (∀ (ch : Fin 16) (t mv : Nat), Runs (.cbcTrip ch t mv) fun c d =>
    let p := c.pw ch
    let lim := fun u : Int => if u < 0 then p.limWas else p.cbcLim
    let due := (c.pst ch = 1 ∨ c.pst ch = 2) ∧ p.cbcEn = true ∧ 5 * lim ((t : Int) - 1) < mv ∧ 5 * lim ((t : Int) - 2) < mv ∧ p.trip = none ∧ (p.cont = true ∨ p.start + 2 ≤ t) ∧
      t < 2 * p.per ∧ c.masked ch ((t : Int) - 1) = false ∧ c.masked ch ((t : Int) - 2) = false
    (due → (d.pw ch).trip = some t ∧ (d.wave ch).hEnd ≤ t ∧ (d.wave ch).rise = (c.wave ch).rise ∧
      (∀ i, i ≠ ch.val → d.pw i = c.pw i) ∧ d = { c with pwms := d.pwms }) ∧
    (¬ due → d = c)) ∧
  (∀ levels : List Nat, Runs (.hardTrip levels) fun c d =>
    let own := fun i : Nat => 5 * c.hardLim i < levels.getD i 0
    let hit := fun i : Nat => ∃ j, j < 16 ∧ own j ∧ i ∈ c.pwmGroup j
    ((∀ i, i < 16 → ¬ own i) → d = c) ∧
    ((∃ i, i < 16 ∧ own i) → ((∀ i, i < 16 → c.pst i = 0 → c.rdBit F.PSU_EN_EN i = false) → Recorded c d 417 1) ∧
      d.rd F.PSU_LAST_TRIP_EVENTS = (c.rd F.PSU_LAST_TRIP_EVENTS + 1) % 2 ^ 32 ∧
      (∀ i, i < 16 → (bit (d.rd F.PSU_LAST_TRIP_CHANNELS) i = true ↔ own i)) ∧
      (∀ i, i < 16 → own i → d.rd (F.PSU_COUNT_HARD i) = satU 16 (c.rd (F.PSU_COUNT_HARD i) + 1) ∧ d.rd (F.PSU_INT_STATUS_HARD i) = 1) ∧
      (∀ i, i < 16 → hit i → c.rdBit F.PSU_EN_EN i = true → d.pst i = 4 ∧ ∀ t, d.pwmOut i t = (false, false)) ∧
      (∀ i, i < 16 → own i → c.rdBit F.PSU_EN_EN i = false → d.pst i = 0) ∧
      (∀ i, i < 16 → ¬ hit i → c.pst i = 1 ∨ c.pst i = 2 ∨ c.pst i = 3 → d.pst i = c.pst i) ∧
      KeepsOff c d (fun a => (0x1600000 ≤ a ∧ a < 0x1700000) ∨ inFlt a) ∧
      d = { c with regs := d.regs, flt := d.flt, pwms := d.pwms }))

/-! ## Housekeeping and thermal supervision (R268–R295) -/

/-- R270–R276: a result becomes the record of its channel and joins the queue; the queue gives its oldest record; the reference and the
calibrations.

The model's choices in it: OVERRUN and a calibration in a round (log 29), the clocks that STAMP counts (log 112), and clearing RUN (log
113).

Completes with its own effect: hkRoundStart, hkResult, hkRefEnWrite, hkRefReady, hkCal, hkCalDone, hkFlush, hkQueueRead. -/
def Obligations.Housekeeping : Prop :=
  (∀ (conv : Fin 2) (sum sum2 clips : Nat), Runs (.hkResult conv sum sum2 clips) fun c d =>
    ((c.hkc conv).todo = [] → d = c) ∧
    (∀ e l, (c.hkc conv).todo = e :: l → e.takes sum sum2 clips = false → d = c) ∧
    (∀ e l, (c.hkc conv).todo = e :: l → e.takes sum sum2 clips = true → e.ch < 80 →
      let r := d.rd (F.HK_LAST_RECORD e.ch)
      let v := c.hkValue conv sum (2 ^ e.avg)
      (d.hkc conv).todo = l ∧ bits r 32 32 = (c.hk.at' (c.hkInstant conv e)).1 / 256 % 2 ^ 32 ∧ bits r 20 7 = e.ch ∧ bit r 27 = (conv.val = 1) ∧
      recValue r = (if e.diode = true then satS 20 (c.hkValue conv sum2 (2 ^ e.avg) - v) else v) ∧
      bit r 30 = (!c.on F.HK_STATUS_REF_READY || !c.on (hkValid conv)) ∧
      bit r 31 = (decide (recValue r < c.rdS (F.HK_LIMIT_LO e.ch)) || decide (c.rdS (F.HK_LIMIT_HI e.ch) < recValue r)) ∧
      (e.diode = true → bit r 28 = decide (229376 ≤ v) ∨ e.pull ≠ 0) ∧
      (bit r 31 = true → d.rd F.HK_INT_STATUS_LIMIT = 1) ∧
      (∀ k, k < 80 → k ≠ e.ch → d.rd (F.HK_LAST_RECORD k) = c.rd (F.HK_LAST_RECORD k)) ∧
      (e.queue = true ∨ (e.kind = 1 ∧ c.on F.HK_CTRL_TH_QUEUE = true) →
        (c.hk.queue.length < 512 → d.hk.queue = c.hk.queue ++ [r]) ∧
        (512 ≤ c.hk.queue.length → d.hk.queue = c.hk.queue ∧ d.rd F.HK_QSTAT_OVERFLOW = satU 16 (c.rd F.HK_QSTAT_OVERFLOW + 1))) ∧
      (e.queue = false → e.kind ≠ 1 → d.hk.queue = c.hk.queue))) ∧
  (Runs .hkRoundStart fun c d =>
    let due := c.air.onB = true ∧ c.tempoNum % c.rd F.HK_ROUND_ROUND_TEMPI = 0 ∧ c.hk.roundTempo ≠ some c.air.tempi
    (¬ due → d = c) ∧
    (due → d.rd F.HK_COUNT_ROUNDS = (c.rd F.HK_COUNT_ROUNDS + 1) % 2 ^ F.HK_COUNT_ROUNDS.wd ∧ d.hk.roundAt = c.now ∧
      d.hk.queue = c.hk.queue ∧
      (c.on F.HK_CTRL_REF_EN = false → ∀ x, x < 2 → (d.hkc x).todo = []) ∧
      (c.on F.HK_CTRL_REF_EN = true → c.on (hkBusy 0) = false → c.on (hkBusy 1) = false → d.hk.running = true ∧
        ∀ x, x < 2 → (d.hkc x).clock = 0 ∧ (d.hkc x).todo = hkCross :: hkFixed x ++
          if c.on F.HK_CTRL_RUN then (c.hkList x).filter (fun e => e.runs x) else []))) ∧
  (Runs .hkRefReady fun c d =>
    let due := c.on F.HK_CTRL_REF_EN = true ∧ c.on F.HK_STATUS_REF_READY = false
    (due → d.rd F.HK_STATUS_REF_READY = 1 ∧ d.rd F.HK_INT_STATUS_REF_READY = 1 ∧
      RegsOnly c d [F.HK_STATUS_REF_READY, F.HK_INT_STATUS_REF_READY]) ∧ (¬ due → d = c)) ∧
  (∀ (conv : Fin 2) (offset : Int) (gain : Nat), Runs (.hkCalDone conv offset gain) fun c d =>
    (c.on (hkBusy conv) = false → d = c) ∧
    (c.on (hkBusy conv) = true → d.rdS (F.HK_CALF_OFFSET conv) = satS 16 offset ∧ d.rd (F.HK_CALF_GAIN conv) = gain % 2 ^ 16 ∧
      d.rd (hkBusy conv) = 0 ∧ d.rd (hkValid conv) = 1 ∧ d.rd F.HK_INT_STATUS_CAL_DONE = 1 ∧
      RegsOnly c d [F.HK_CALF_OFFSET conv, F.HK_CALF_GAIN conv, hkBusy conv, hkValid conv, F.HK_INT_STATUS_CAL_DONE])) ∧
  (∀ q : Requester,
    (∀ on : Bool, Writes (.hkRefEnWrite q on) q 0x1700000 fun c d => d.rd F.HK_CTRL_REF_EN = b2n on ∧
      (on = true → RegsOnly c d [F.HK_CTRL_REF_EN]) ∧
      (on = false → d.rd F.HK_STATUS_REF_READY = 0 ∧ (∀ x, x < 2 → (d.hkc x).todo = []) ∧
        Keeps c d [F.HK_CTRL_REF_EN, F.HK_STATUS_REF_READY] ∧ d = { c with regs := d.regs, hk := d.hk })) ∧
    (∀ conv : Fin 2, Writes (.hkCal q conv) q 0x1700000 fun c d =>
      (c.on F.HK_STATUS_REF_READY = false ∨ c.on (hkBusy conv) = true →
        d.rd F.HK_INT_STATUS_CAL_REFUSED = 1 ∧ RegsOnly c d [F.HK_INT_STATUS_CAL_REFUSED]) ∧
      (c.on F.HK_STATUS_REF_READY = true → c.on (hkBusy conv) = false → d.rd (hkBusy conv) = 1 ∧ (d.hkc conv).todo = [] ∧
        d.rd F.HK_COUNT_SKIPPED = satU F.HK_COUNT_SKIPPED.wd (c.rd F.HK_COUNT_SKIPPED + (c.hkc conv).todo.length))) ∧
    (Writes (.hkFlush q) q 0x1700000 fun c d => d.hk.queue = [] ∧ d.rd F.HK_QSTAT_DEPTH = 0 ∧ d.hk.convs = c.hk.convs ∧
      Keeps c d [F.HK_QSTAT_DEPTH] ∧ d = { c with regs := d.regs, hk := d.hk }) ∧
    (∀ half : Half, Reads (.hkQueueRead q half) q 0x1700030 fun c d =>
      d.bus = { req := q, data := half.data (c.hk.queue.headD 0x7f00000) } ∧ Keeps c d [F.HK_QSTAT_DEPTH] ∧
      (half.hasHi = true → d.hk.queue = c.hk.queue.drop 1 ∧ d.rd F.HK_QSTAT_DEPTH = (c.hk.queue.length - 1) % 2 ^ 10) ∧
      (half.hasHi = false → d.hk = c.hk) ∧ d = { c with regs := d.regs, hk := d.hk, bus := d.bus }))

/-- R288, R290, R292, R295: the shutdown and the release of a die; a band moves only where its candidate points; in proportional mode
the cut follows the excess.

The model's choices in it: the latest warm cause replaces the kind (log 49), and a shutdown in deep sleep is recorded at once (log 50).

Completes with its own effect: thermalShutdown, thermalRelease. -/
def Obligations.ThermalProtection : Prop :=
  (RunsAlways (.thermalShutdown 0) fun c d =>
    (c.pwr.bdHot = true → d = c) ∧
    (c.pwr.bdHot = false → d.pwr.bdHot = true ∧ d.inReset = true ∧ d.rd F.TH_SD_CNT_BD = satU 8 (c.rd F.TH_SD_CNT_BD + 1) ∧
      d.pwr.kind = (if c.pwr.kind = some 0 then some 0 else some 3) ∧ d.zmd.mem.reports = c.zmd.mem.reports ∧ d.zmd.mem.run = c.zmd.mem.run ∧
      (∀ f : Fld, (∀ g ∈ aonFlds, f.key ≠ g.key) → d.rd f = f.rst))) ∧
  (RunsAlways (.thermalRelease 0) fun c d =>
    (c.pwr.bdHot = false → d = c) ∧
    (c.pwr.bdHot = true → d.pwr = { c.pwr with bdHot := false } ∧ d.rd F.TH_SD_BD_RESTARTED = 1 ∧ Keeps c d [F.TH_SD_BD_RESTARTED] ∧
      d = { c with regs := d.regs, pwr := d.pwr })) ∧
  (∀ die : Fin 4, ∀ k : Nat, die.val = k + 1 →
    (RunsAlways (.thermalShutdown die) fun c d =>
      (c.hotDie k = true → d = c) ∧
      (c.hotDie k = false → d.hotDie k = true ∧
        (c.inReset = true → d.regs = c.regs) ∧
        (c.inReset = false → d.rd (sdCnt k) = satU 8 (c.rd (sdCnt k) + 1) ∧ d.rd (sdBit k) = 1 ∧ d.rd F.TH_INT_STATUS_SHUTDOWN = 1 ∧
          d.srcBit F.FLT_ACTIVE_ACTIVE (409 + k) = true ∧
          (c.srcBit F.FLT_ACTIVE_ACTIVE (409 + k) = false → Recorded c d (409 + k) 1) ∧
          (k < 2 → d.rd (F.CNV_STATUS_STATE k) = 0 ∧ (d.br k).st = 0) ∧ (k = 2 → d.zmd.permit = false)))) ∧
    (RunsAlways (.thermalRelease die) fun c d =>
      (c.hotDie k = false → d = c) ∧
      (c.hotDie k = true → d.hotDie k = false ∧
        (c.inReset = true → d.regs = c.regs) ∧
        (c.inReset = false → d.rd (sdCnt k) = c.rd (sdCnt k) ∧ d.rd (sdBit k) = 0 ∧ d.rd F.TH_INT_STATUS_RESTART = 1 ∧
          d.srcBit F.FLT_ACTIVE_ACTIVE (409 + k) = false ∧
          (k < 2 → c.rd (F.CNV_STATUS_STATE k) = 0 → c.on (F.CNV_CTRL_POWER_EN k) = true → c.supplyOk k = true → c.refIn = true →
            d.rd (F.CNV_STATUS_STATE k) = 1))))) ∧
  (∀ (c : Chip) (k b : Nat) (ups : List Int) (t : Int),
    let r := c.dwellBand k ups b t false
    let n := candidate ups b t
    (n = b → r.2 = b ∧ SMap.get 0 r.1.th.cnt k = 0) ∧
    (n ≠ b → let m := SMap.get 0 c.th.cnt k
      let m := if m ≠ 0 ∧ SMap.get false c.th.up k = decide (b < n) then m + 1 else 1
      (m < 8 → r.2 = b ∧ SMap.get 0 r.1.th.cnt k = m) ∧ (8 ≤ m → r.2 = n ∧ SMap.get 0 r.1.th.cnt k = 0))) ∧
  (∀ (c : Chip) (d : Fin 2) (e : Int) (first : Bool), c.onlineCount d ≤ 4 →
    let cut := min (c.rd F.TH_CFG_CUT_MAX) (rndDiv (max 0 e * c.rd F.TH_CFG_SLOPE) 100).toNat
    (c.throttle d e first).rd (thMode d) = 0 ∧ (c.throttle d e first).rd (thCut d) = cut % 2 ^ 16 ∧
      ∀ w ∈ sideWings d, (c.throttle d e first).rd (F.WG_THSTEP_STEP_CUT w) = cut % 2 ^ (F.WG_THSTEP_STEP_CUT w).wd)

/-! ## The fault collector and the black box (R298–R318) -/

/-- R299, R300, R303, R307: the event of a source that does not stand asserted counts, marks its source pending, opens or continues its
window, makes the source SEVERE at the Nth event, and is captured first or counted as following; one of a source that stands asserted
is none. An error that a block contains is contained as the block does it. The pair faults, and the end of a window.

The model's choices in it: the containment of an injected, paired or commanded error (log 51), the exits of a pair fault (log 52), and
the sources whose level is the state of a block (log 103).

Completes with its own effect: faultEvent, pairFault, pairFaultEnd, faultWindowClose, datapathFaultClear, wingParityError. -/
def Obligations.FaultEvents : Prop :=
  ∀ src : Fin 512,
    (∀ (cause master access : Nat) (addr : Option Nat), Runs (.faultEvent src cause master access addr) fun c d =>
      (c.srcHigh src = true → d.regs = c.regs ∧ d.flt = c.flt ∧ d = { c with prt := d.prt, gpl := d.gpl }) ∧
      (c.srcHigh src = false → plainSrc src = true →
        d.rd (F.FLT_SRC_EVENTS src) = satU 32 (c.rd (F.FLT_SRC_EVENTS src) + 1) ∧
        d.rd (F.FLT_SRC_LAST_CAUSE src) = cause % 256 ∧ d.srcBit F.FLT_PENDING_PENDING src = true ∧
        d.rd (F.FLT_SRC_COUNT src) = c.countNext src ∧
        d.severe src = (c.severe src || decide (c.rd (F.FLT_CFG_N src) ≤ c.countNext src)) ∧
        (∀ x, x < 512 → x ≠ src.val → d.severe x = c.severe x ∧ d.srcBit F.FLT_PENDING_PENDING x = c.srcBit F.FLT_PENDING_PENDING x) ∧
        (c.flt.winClose.find src = none → d.flt.winClose.find src = some (c.ceilTempo + c.rd (F.FLT_CFG_WINDOW src))) ∧
        (∀ t, c.flt.winClose.find src = some t →
          d.flt.winClose.find src = some (if c.air.tempi < t then t else c.ceilTempo + c.rd (F.FLT_CFG_WINDOW src))) ∧
        (c.on (F.FLT_CFG_INT_EN src) = true → d.rd F.FLT_INT_STATUS_EVENT = 1) ∧
        (c.on F.FLT_FIRST_VALID = true → d.rd F.FLT_FIRST_FOLLOWING = satU 16 (c.rd F.FLT_FIRST_FOLLOWING + 1) ∧
          d.rd F.FLT_FIRST_SOURCE = c.rd F.FLT_FIRST_SOURCE) ∧
        (c.on F.FLT_FIRST_VALID = false → d.rd F.FLT_FIRST_VALID = 1 ∧ d.rd F.FLT_FIRST_SOURCE = src ∧
          d.rd F.FLT_FIRST_CAUSE = cause % 256 ∧ d.rd F.FLT_FIRST_MASTER = master % 32 ∧ d.rd F.FLT_FIRST_ACCESS = access % 8 ∧
          d.rd F.FLT_FIRST_AT_AT = c.now % 2 ^ 64 ∧ d.rd F.FLT_FIRST_ADDR_VALID = b2n addr.isSome ∧
          d.rd F.FLT_FIRST_ADDR_ADDR = addr.getD 0 % 2 ^ 64) ∧
        KeepsOff c d inFlt ∧ d = { c with regs := d.regs, flt := d.flt, prt := d.prt, gpl := d.gpl }) ∧
      (c.srcHigh src = false →
        (src.val < 128 → Recorded c d src (cause % 256) ∧ d.srcBit F.FLT_ACTIVE_ACTIVE src = true ∧ (d.sq src).fParity = true ∧
          (c.leader src = src → d.on (F.SQ_STATUS_MS_FAULT src) = true)) ∧
        (∀ n, n < 128 → src.val = 128 + n → (d.sq n).stab.find cause = some (c.ceilTempo + c.recov) ∧
          (cause ≠ 2 → Recorded c d src (cause % 256)) ∧ (c.leader n = n → d.on (F.SQ_STATUS_MS_FAULT n) = true)) ∧
        (∀ n, n < 128 → src.val = 256 + n → Recorded c d src (cause % 256) ∧ (d.sq n).oscOn = true ∧
          d.on (F.SQ_STATUS_MS_PROTECT (c.leader n)) = true) ∧
        (∀ k, k < 16 → src.val = 384 + k → c.srcBit F.FLT_ACTIVE_ACTIVE src = false → Recorded c d src (cause % 256) ∧
          d.on (F.RK_STATUS_FAULT k) = true) ∧
        (∀ w, w < 4 → src.val = 400 + w → Recorded c d src (cause % 256) ∧ d.prt.wingFault.contains w = true) ∧
        (∀ e, e < 2 → src.val = 409 + e → c.hotDie e = false → d.hotDie e = true ∧ (d.br e).st = 0 ∧ d.rd (F.CNV_STATUS_STATE e) = 0) ∧
        (src.val = 416 → Recorded c d src 1 ∧ d.rd F.HK_STATUS_MISMATCH = 1))) ∧
    (Runs (.pairFault src) fun c d =>
      (c.srcBit F.FLT_PAIR_PAIR src = true → d = c) ∧
      (c.srcBit F.FLT_PAIR_PAIR src = false → d.srcBit F.FLT_PAIR_PAIR src = true ∧ d.rd (F.FLT_SRC_LAST_CAUSE src) = 255 ∧
        d.srcBit F.FLT_PENDING_PENDING src = true ∧ d.rd F.FLT_INT_STATUS_PAIR = 1 ∧
        d.rd (F.FLT_SRC_EVENTS src) = (if c.srcStands src = false ∧ (384 ≤ src.val → src.val < 400 → c.srcBit F.FLT_ACTIVE_ACTIVE src = false)
          then satU 32 (c.rd (F.FLT_SRC_EVENTS src) + 1) else c.rd (F.FLT_SRC_EVENTS src)) ∧
        (414 ≤ src.val → FaultOnly c d) ∧ (src.val < 128 → (d.sq src).fParity = true) ∧
        (∀ e, e < 2 → src.val = 409 + e ∨ src.val = 412 + e → (c.br e).st = 2 → (d.br e).st = 0) ∧
        d.zmd = c.zmd)) ∧
    (Runs (.pairFaultEnd src) fun c d =>
      let due := c.srcBit F.FLT_PAIR_PAIR src = true ∧ c.flt.inject.has src = false
      (¬ due → d = c) ∧
      (due → d.srcBit F.FLT_PAIR_PAIR src = false ∧ (∀ x, x < 512 → x ≠ src.val → d.srcBit F.FLT_PAIR_PAIR x = c.srcBit F.FLT_PAIR_PAIR x) ∧
        (c.flt.ends.has src = true → d.overAt src = c.ceilTempo + c.recov) ∧
        (∀ n, n < 128 → (d.sq n).stab = if src.val = 128 + n
          then (c.sq n).stab.map fun p => if p.1 = 255 then (255, c.ceilTempo + c.recov) else p else (c.sq n).stab) ∧
        Keeps c d [F.FLT_PAIR_PAIR (src / 64)] ∧ d = { c with regs := d.regs, flt := d.flt, sqs := d.sqs })) ∧
    (Runs (.faultWindowClose src) fun c d =>
      (c.flt.winClose.find src = none → d = c) ∧
      (∀ t, c.flt.winClose.find src = some t → (c.dueAfter t 0 = false → d = c) ∧
        (c.dueAfter t 0 = true → d.rd (F.FLT_SRC_COUNT src) = 0 ∧ d.flt.winClose.find src = none ∧ Keeps c d [F.FLT_SRC_COUNT src] ∧
          d = { c with regs := d.regs, flt := d.flt }))) ∧
    (Runs (.datapathFaultClear src) fun c d =>
      (c.recovered src = false ∨ (128 ≤ src.val ∧ (src.val < 400 ∨ 404 ≤ src.val)) → d = c) ∧
      (c.recovered src = true → src.val < 128 → ((c.sq src).fParity = false → d = c) ∧
        ((c.sq src).fParity = true → d.srcBit F.FLT_ACTIVE_ACTIVE src = false ∧ (d.sq src).fParity = false ∧
          (d.sq src).sevParity = c.severe src ∧
          (c.leader src = src → (c.sq src).stab = [] → (c.sq src).sevStab = false → c.severe src = false →
            d.rd (F.SQ_STATUS_MS_FAULT src) = 0))) ∧
      (∀ w, c.recovered src = true → src.val = 400 + w → w < 4 → (c.prt.wingFault.contains w = false → d = c) ∧
        (c.prt.wingFault.contains w = true → d.srcBit F.FLT_ACTIVE_ACTIVE src = false ∧ d.prt.wingFault = setDel w c.prt.wingFault ∧
          (c.severe src = true → d.prt.wingHold.contains w = true)))) ∧
  (∀ (w : Fin 4) (b : Bool), Runs (.wingParityError w b) fun c d =>
    Recorded c d (400 + w) (if b = true then 2 else 1) ∧ d.srcBit F.FLT_ACTIVE_ACTIVE (400 + w) = true ∧
    d.prt.wingFault.contains w.val = true ∧ ∀ n ∈ wingSquares w, c.leader n = n → d.on (F.SQ_STATUS_MS_WING n) = true)

/-- R304, R305, R307: the PF clears PENDING where the cause has gone and SEVERE where PENDING is clear, and re-arms the capture; what
SEVERE held is released at a boundary.

Completes with its own effect: faultPendingClear, severeClear, severeHoldRelease, firstRearm. -/
def Obligations.FaultClears : Prop :=
  (∀ (q : Requester) (j : Fin 8) (v : Nat),
    (Writes (.faultPendingClear q j v) q (0x1900080 + 8 * j) fun c d =>
      let again := fun i : Nat => bit v i = true ∧ c.rdBit (F.FLT_PENDING_PENDING j) i = true ∧ c.srcActive (64 * j + i) = true
      (∀ i, i < 64 → d.rdBit (F.FLT_PENDING_PENDING j) i =
        (c.rdBit (F.FLT_PENDING_PENDING j) i && (!bit v i || c.srcActive (64 * j + i)))) ∧
      ((∃ i, i < 64 ∧ again i) → d.rd F.FLT_INT_STATUS_REASSERT = 1) ∧
      ((∀ i, i < 64 → ¬ again i) → Keeps c d [F.FLT_PENDING_PENDING j]) ∧
      RegsOnly c d [F.FLT_PENDING_PENDING j, F.FLT_REASSERT_COUNT, F.FLT_INT_STATUS_REASSERT]) ∧
    (Writes (.severeClear q j v) q (0x1900120 + 8 * j) fun c d =>
      ∀ i, i < 64 →
        let due := bit v i = true ∧ c.rdBit (F.FLT_PENDING_PENDING j) i = false
        (due → d.severe (64 * j + i) = false ∧ d.rd (F.FLT_SRC_COUNT (64 * j + i)) = 0 ∧
          d.flt.winClose.find (64 * j + i) = none ∧
          (c.severe (64 * j + i) = true → SMap.get 0 d.flt.sevFree (64 * j + i) = c.air.tempi + 1)) ∧
        (¬ due → d.severe (64 * j + i) = c.severe (64 * j + i) ∧
          d.rd (F.FLT_SRC_COUNT (64 * j + i)) = c.rd (F.FLT_SRC_COUNT (64 * j + i))) ∧
        KeepsOff c d inFlt ∧ d = { c with regs := d.regs, flt := d.flt }) ∧
    (Writes (.firstRearm q) q 0x1900010 fun c d => d.rd F.FLT_FIRST_VALID = 0 ∧ d.rd F.FLT_FIRST_FOLLOWING = 0 ∧
      RegsOnly c d [F.FLT_FIRST_VALID, F.FLT_FIRST_FOLLOWING])) ∧
  (Runs .severeHoldRelease fun c d =>
    (c.air.onB = false → d = c) ∧
    (c.air.onB = true →
      (∀ n, n < 128 → (d.sq n).sevParity = ((c.sq n).sevParity && !c.severeOver n) ∧
        (c.severeOver (128 + n) = false → (d.sq n).sevStab = (c.sq n).sevStab) ∧
        ((∀ m, m < 128 → (c.sq m).sevOsc = false) → (d.sq n).sevStab = ((c.sq n).sevStab && !c.severeOver (128 + n))) ∧
        (d.sq n).sevOsc = ((c.sq n).sevOsc && !c.severeOver (256 + n))) ∧
      (∀ k, k < 16 → (d.rk k).sevHold = ((c.rk k).sevHold && !c.severeOver (384 + k)) ∧
        ((c.rk k).sevHold = true → c.severeOver (384 + k) = true → d.rd (F.RK_STATUS_FAULT k) = 0)) ∧
      (∀ w, d.prt.wingHold.contains w = (c.prt.wingHold.contains w && !c.severeOver (400 + w)))))

/-- R309, R311, R313, R314, R316: injection, the queue of records, the ring, FREEZE, the beacon, and the PF's access to the ring.

The model's choices in it: 412 and 413 take the bridge of their die down, 411 and those from 414 up contain nothing (log 51).

Completes with its own effect: injectRelease, injectEvent, injectHoldLow, injectHoldHigh, bbRecordWrite, fltFreeze, atBeacon,
bbReadRequest, bbReadDone, bbAck, bbMark, faultNInitDone. -/
def Obligations.InjectionAndBlackBox : Prop :=
  (∀ q : Requester,
    (Writes (.injectRelease q) q aInject fun c d => d = { c with flt := { c.flt with inject := [] } }) ∧
    (∀ src : Fin 512,
      (Writes (.injectEvent q src) q aInject fun c d =>
        (c.srcHigh src = true → d = c) ∧
        (c.srcHigh src = false →
          (414 ≤ src.val → FaultOnly c d) ∧ (404 ≤ src.val → Recorded c d src 0xFE) ∧
          (∀ e, e < 2 → src.val = 409 + e ∨ src.val = 412 + e → (c.br e).st = 2 → (d.br e).st = 0) ∧
          (src.val < 128 → Recorded c d src 0xFE ∧ (d.sq src).fParity = true))) ∧
      (Writes (.injectHoldLow q src) q aInject fun c d => d.flt.inject.find src = some 2 ∧ d = { c with flt := { c.flt with inject := d.flt.inject } }) ∧
      (Writes (.injectHoldHigh q src) q aInject fun c d => d.flt.inject.find src = some 3 ∧ d = { c with flt := { c.flt with inject := d.flt.inject } })) ∧
    (Writes (.fltFreeze q) q 0x1900000 fun c d => d.rd F.FLT_BB_STATUS_FROZEN = 1 ∧ d.rd F.FLT_INT_STATUS_BB_FROZEN = 1 ∧ d.flt.fifo = [] ∧
      (c.on F.FLT_BB_STATUS_FROZEN = true → d.flt.ring = c.flt.ring ∧
        d.rd F.FLT_BB_STATUS_LOST = satU 16 (c.rd F.FLT_BB_STATUS_LOST + c.flt.fifo.length + 1)) ∧
      (c.on F.FLT_BB_STATUS_FROZEN = false → c.flt.fifo.length ≤ 16 →
        let at0 := fun i : Nat => (c.rd F.FLT_BB_STATUS_HEAD + i) % 512
        let k := c.flt.fifo.length
        d.rd F.FLT_BB_STATUS_HEAD = at0 (k + 1) ∧ SMap.get {} d.flt.ring (at0 k) = { time := c.now, ty := 4, detail := 4 } ∧
        (∀ i, i < k → SMap.get {} d.flt.ring (at0 i) = c.flt.fifo.getD i {}) ∧
        (∀ j, j < 512 → k < (j + 512 - c.rd F.FLT_BB_STATUS_HEAD) % 512 → SMap.get {} d.flt.ring j = SMap.get {} c.flt.ring j)) ∧ FaultOnly c d) ∧
    (∀ i : Fin 512, Writes (.bbReadRequest q i) q 0x1900210 fun c d => d.rd F.FLT_BB_RD_INDEX = i ∧ d.rd F.FLT_BB_STATUS_RD_READY = 0 ∧
      Keeps c d [F.FLT_BB_RD_INDEX, F.FLT_BB_STATUS_RD_READY] ∧ d = { c with regs := d.regs, flt := { c.flt with rdReq := some i } }) ∧
    (Writes (.bbAck q) q 0x1900208 fun c d => d.flt = { c.flt with ring := [] } ∧
      (∀ f ∈ [F.FLT_BB_STATUS_HEAD, F.FLT_BB_STATUS_WRAPPED, F.FLT_BB_STATUS_LOST, F.FLT_BB_STATUS_FROZEN, F.FLT_BB_STATUS_INVALID],
        d.rd f = 0) ∧
      Keeps c d [F.FLT_BB_STATUS_HEAD, F.FLT_BB_STATUS_WRAPPED, F.FLT_BB_STATUS_LOST, F.FLT_BB_STATUS_FROZEN, F.FLT_BB_STATUS_INVALID] ∧
      d = { c with regs := d.regs, flt := d.flt }) ∧
    (∀ v : Nat, Writes (.bbMark q v) q 0x1900228 fun c d =>
      (c.flt.fifo.length < 16 → d = { c with flt := { c.flt with
        fifo := c.flt.fifo ++ [{ time := c.now, ty := 0x20, detail := v % 2 ^ 32 }] } }) ∧
      (16 ≤ c.flt.fifo.length → d.rd F.FLT_BB_STATUS_LOST = satU 16 (c.rd F.FLT_BB_STATUS_LOST + 1) ∧ d.rd F.FLT_INT_STATUS_BB_LOST = 1 ∧
        RegsOnly c d [F.FLT_BB_STATUS_LOST, F.FLT_INT_STATUS_BB_LOST]))) ∧
  (Runs .bbRecordWrite fun c d =>
    (c.flt.fifo = [] → d = c) ∧
    (∀ r l, c.flt.fifo = r :: l →
      (c.on F.FLT_BB_STATUS_FROZEN = true → d.flt = { c.flt with fifo := l } ∧
        d.rd F.FLT_BB_STATUS_LOST = satU 16 (c.rd F.FLT_BB_STATUS_LOST + 1) ∧ Keeps c d [F.FLT_BB_STATUS_LOST]) ∧
      (c.on F.FLT_BB_STATUS_FROZEN = false → d.flt.fifo = l ∧ SMap.get {} d.flt.ring (c.rd F.FLT_BB_STATUS_HEAD) = r ∧
        d.rd F.FLT_BB_STATUS_HEAD = (c.rd F.FLT_BB_STATUS_HEAD + 1) % 512 ∧
        (c.rd F.FLT_BB_STATUS_HEAD = 511 → d.rd F.FLT_BB_STATUS_WRAPPED = 1) ∧
        (∀ i, i ≠ c.rd F.FLT_BB_STATUS_HEAD → SMap.get {} d.flt.ring i = SMap.get {} c.flt.ring i)) ∧
      FaultOnly c d)) ∧
  (RunsAwakeOrAsleep .atBeacon fun c d => d = { c with flt := { c.flt with beacon := c.now } }) ∧
  (Runs .bbReadDone fun c d =>
    (c.flt.rdReq = none → d = c) ∧
    (∀ i, c.flt.rdReq = some i →
      d.rd F.FLT_BB_DATA0_DATA = (SMap.get {} c.flt.ring i).word0 % 2 ^ 64 ∧ d.rd F.FLT_BB_DATA1_DATA = (SMap.get {} c.flt.ring i).word1 % 2 ^ 64 ∧
      d.rd F.FLT_BB_STATUS_RD_READY = 1 ∧ d.rd F.FLT_INT_STATUS_BB_RD_DONE = 1 ∧ d.flt = { c.flt with rdReq := none } ∧
      Keeps c d [F.FLT_BB_DATA0_DATA, F.FLT_BB_DATA1_DATA, F.FLT_BB_STATUS_RD_READY, F.FLT_INT_STATUS_BB_RD_DONE])) ∧
  (Runs .faultNInitDone fun c d => d = { c with flt := { c.flt with initDone := true } })

/-! ## Interrupts (R319–R332) -/

/-- R320, R321, R324–R331: requests, pending bits, claims, completions and routes; after each the four lines stand as the rules have
them.

The model's choices in it: when the lines are judged (log 30), a host target needs EN (log 31), a claim by another requester (log 33),
and COALESCE_TIMEOUT marks the longest waiting source (log 34).

Completes with its own effect: intRequest, intWithdraw, intSetpend, intClrpend, intClaim, intEoi, intHeoi, msixIssue, coalesceTimeout,
intRouteWrite. -/
def Obligations.Interrupts : Prop :=
  (∀ n : Nat,
    (RunsAwakeOrAsleep (.intRequest n) fun c d =>
      (c.asleep = false → IntOnly c d ∧ LinesRight d ∧ d.int.active = c.int.active ∧
        (edgeInput n = true → d.int.pend = setIns n c.int.pend) ∧ (edgeInput n = false → d.int.pend = c.int.pend)) ∧
      (c.asleep = true → edgeInput n = true → c.on (F.INT_SRC_WAKE n) = false → d = { c with int := { c.int with lost := true } }) ∧
      (c.asleep = true → edgeInput n = true → c.on (F.INT_SRC_WAKE n) = true → d.asleep = false ∧ d.int.pend.contains n = true ∧
        d.rd F.PWR_WAKE_CAUSE = 1)) ∧
    (Runs (.intWithdraw n) fun c d => IntOnly c d ∧ LinesRight d ∧ d.int.pend = c.int.pend ∧ d.int.active = c.int.active) ∧
    (∀ q : Requester,
      (Writes (.intSetpend q n) q 0x1A00008 fun c d =>
        (n % 2048 = 0 ∨ n % 2048 = 2047 → d = c) ∧
        (n % 2048 ≠ 0 → n % 2048 ≠ 2047 → c.asleep = false → IntOnly c d ∧ LinesRight d ∧
          d.int.pend = setIns (n % 2048) c.int.pend ∧ d.int.active = c.int.active)) ∧
      (Writes (.intClrpend q n) q 0x1A00010 fun c d =>
        (n % 2048 = 0 ∨ n % 2048 = 2047 → d = c) ∧
        (n % 2048 ≠ 0 → n % 2048 ≠ 2047 → IntOnly c d ∧ LinesRight d ∧
          d.int.pend = setDel (n % 2048) c.int.pend ∧ d.int.active = c.int.active)) ∧
      (∀ f : Fin 9, Writes (.intHeoi q f n) q (0x1A00300 + 8 * f) fun c d => Keeps c d [F.SUP_STATUS_IDLE] ∧ d.int.pend = c.int.pend ∧
        (f.val = 0 → n % 2048 ≠ 0 → n % 2048 ≠ 2047 → d.int.active = c.int.active.filter fun a => !(a.num = n % 2048 && a.tgt = 4)) ∧
        (f.val ≠ 0 → n % 2048 < 64 → d.int.active =
          c.int.active.filter fun a => !(a.tgt = 4 + f.val && c.rd (F.INT_SRC_VECTOR a.num) = n % 2048)) ∧
        (f.val ≠ 0 → 64 ≤ n % 2048 → d = c)) ∧
      (∀ (h : Half) (v : Nat), Writes (.intRouteWrite q n h v) q (0x1A10000 + 8 * (n % 2048)) fun c d =>
        let k := n % 2048
        let w := h.image v
        let bad := 5 ≤ bits w 8 4 ∧ bits w 8 4 ≤ 12 ∧ c.routable (bits w 8 4 - 4) k = false
        (k = 0 ∨ k = 2047 ∨ h = .hi → d = c) ∧
        (k ≠ 0 → k ≠ 2047 → h ≠ .hi → LinesRight d ∧ d.rd (F.INT_SRC_EN k) = bits w 18 1 ∧ d.rd (F.INT_SRC_WAKE k) = bits w 19 1 ∧
          d.rd (F.INT_SRC_PRIO k) = (if bits w 0 8 < 16 ∨ 16 ≤ k then bits w 0 8 else c.rd (F.INT_SRC_PRIO k)) ∧
          (bad → d.rd F.INT_STATUS_ROUTE_REFUSED = 1 ∧ d.rd (F.INT_SRC_TARGET k) = c.rd (F.INT_SRC_TARGET k) ∧
            d.rd (F.INT_SRC_VECTOR k) = c.rd (F.INT_SRC_VECTOR k)) ∧
          (¬ bad → d.rd (F.INT_SRC_VECTOR k) = bits w 12 6 ∧
            d.rd (F.INT_SRC_TARGET k) = if bits w 8 4 < 13 then bits w 8 4 else c.rd (F.INT_SRC_TARGET k)) ∧
          Keeps c d [F.INT_SRC_EN k, F.INT_SRC_WAKE k, F.INT_SRC_PRIO k, F.INT_SRC_TARGET k, F.INT_SRC_VECTOR k,
            F.INT_STATUS_ROUTE_REFUSED, F.SUP_STATUS_IDLE])))) ∧
  (∀ t : Fin 4,
    (∀ s : State, s.chip.reachable (.core t) = true →
      (Completes (.intClaim (.core t) t) s fun d =>
        (∀ n, s.chip.lowest (s.chip.eligible t) = some n → d.bus = { req := .core t, data := n } ∧ d.int.pend = setDel n s.chip.int.pend ∧
          d.int.active = { num := n, tgt := t, pr := s.chip.intPr t n } :: s.chip.int.active ∧ LinesRight d ∧
          d.intStack t = if s.chip.intPr t n < 16 then (n, s.chip.intPr t n) :: s.chip.intStack t else s.chip.intStack t) ∧
        (s.chip.eligible t = [] → d.bus = { req := .core t, data := if s.chip.int.lineSeen.contains t then 2047 else 0 } ∧
          d.int.pend = s.chip.int.pend ∧ d.int.active = s.chip.int.active) ∧
        (d.int.lineSeen.contains t.val = true → d.int.line.contains t.val = true)) ∧
      (∀ n, Completes (.intEoi (.core t) t n) s fun d =>
        (n % 2048 = 0 ∨ n % 2048 = 2047 → d = s.chip.respond (.core t) 0) ∧
        (n % 2048 ≠ 0 → n % 2048 ≠ 2047 → (∀ a ∈ s.chip.int.active, ¬ (a.num = n % 2048 ∧ a.tgt = t)) →
          d.rd F.INT_STATUS_EOI_ERR = 1 ∧ d.rd F.INT_ERRLOG_NUM = n % 2048 ∧ d.rd F.INT_ERRLOG_TARGET = t ∧ d.int = s.chip.int) ∧
        (∀ a, n % 2048 ≠ 0 → n % 2048 ≠ 2047 → (s.chip.int.active.find? fun a => a.num = n % 2048 && a.tgt = t.val) = some a →
          (16 ≤ a.pr ∨ ((s.chip.intStack t).map (·.1)).head? = some (n % 2048)) →
            d.int.active = s.chip.int.active.filter (fun a => !(a.num = n % 2048 && a.tgt = t.val)) ∧ d.int.pend = s.chip.int.pend ∧
            LinesRight d))) ∧
    (∀ (s : State) (q : Requester), q ≠ .core t → Reaches s q → (s.chip.woken q).srcBit F.FLT_PAIR_PAIR 414 = false →
      (Completes (.intClaim q t) s fun d => d.bus.data = 0 ∧ d.bus.unsupported = false ∧ d.bus.exc.isSome = q.isCore ∧
        (∀ x, d.bus.exc = some x → x.1 = 5) ∧ d.int = (s.chip.woken q).int ∧
        d.rd (F.FLT_SRC_LAST_CAUSE 414) = 3) ∧
      (∀ n, Completes (.intEoi q t n) s fun d => d.int = (s.chip.woken q).int ∧ d.rd (F.FLT_SRC_LAST_CAUSE 414) = 3)) ∧
    (Runs (.coalesceTimeout t) fun c d => IntOnly c d ∧ d.int.pend = c.int.pend ∧ d.int.active = c.int.active ∧
      (∀ n, (c.int.waitQ.find? fun n => (c.eligible t).contains n && !c.int.timedOut.contains n) = some n → c.intPending n = true →
        d.int.timedOut.contains n = true ∧ LinesRight d ∧ d.int.line.contains t.val = true))) ∧
  (Runs .msixIssue fun c d =>
    let open0 := c.msixWaiting.filter fun n => c.msixOpen (c.rd (F.INT_SRC_TARGET n) - 4) (c.msixVec n)
    (c.lowest open0 = none → d = c) ∧
    (∀ n, c.lowest open0 = some n → IntOnly c d ∧ LinesRight d ∧ d.int.pend = setDel n c.int.pend ∧
      (let f := c.rd (F.INT_SRC_TARGET n) - 4
       let row := c.msixEntry f (c.msixVec n)
       d.int.lastMsg = some { func := f, vec := c.msixVec n, addr := row.1, data := row.2.1, relaxed := false, vc := 0, tc := 0 }) ∧
      (intKind n = 0 → d.int.active = { num := n, tgt := c.rd (F.INT_SRC_TARGET n), pr := 0 } :: c.int.active) ∧
      (intKind n ≠ 0 → d.int.active = c.int.active)))

/-! ## Supervisor cores (R334–R350) -/

/-- R340–R348: release and hold of a core, initialisation of the memories, WFI and timer, memory errors, and the denial of tenants'
resources.

R334–R336, R339, R346, R349, R350: what a core does in a cycle. It takes an interrupt that is pending and enabled, with the state
saved; else it fetches the instruction at its pc, carries it out, retires it and goes on: operations on registers, loads and stores in
its TCM, a load from an address that holds nothing, and ECALL.

The model's choices in it: one instruction in a cycle, and CORE_WFI (log 35), the queue before INIT_DONE (log 36), the RISC-V manuals
(log 114), registers at a release (log 115), the trap value (log 117), the order of a core's faults (log 121), and who meets a memory
error (log 122).

Completes with its own effect: coreRelease, coreHold, supInitDone, mtimerExpire, coreWfi, supEccError, tenDenyWrite. -/
def Obligations.SupervisorCores : Prop :=
  (∀ s : State, ∃ t : State, exec .supInitDone s = .next t ∧ t.pending = s.pending ∧
    (s.chip.running = false ∨ s.chip.on F.SUP_STATUS_INIT_DONE = true → t = s) ∧
    (s.chip.running = true → s.chip.on F.SUP_STATUS_INIT_DONE = false → t.chip.rd F.SUP_STATUS_INIT_DONE = 1 ∧ t.chip.supHeld = [] ∧
      (s.chip.supHeld = [] → (∀ a, memByte t.mem a = 0) ∧ RegsOnly s.chip t.chip [F.SUP_STATUS_INIT_DONE]) ∧
      (∀ x, s.chip.supHeld = [x] → t = State.memAccess { s with mem := [], chip := { s.chip.wr F.SUP_STATUS_INIT_DONE 1 with supHeld := [] } } x))) ∧
  (∀ k : Fin 4,
    (∀ q : Requester,
      (Writes (.coreRelease q k) q 0x2180000 fun c d =>
        (c.rdBit F.SUP_CTRL_RUN k = true → d = c) ∧
        (c.rdBit F.SUP_CTRL_RUN k = false → d.rdBit F.SUP_CTRL_RUN k = true ∧ d.rdBit F.SUP_STATUS_RUNNING k = true ∧
          d.rdBit F.SUP_STATUS_IDLE k = false ∧ (∀ j, j < 4 → j ≠ k.val → d.rdBit F.SUP_CTRL_RUN j = c.rdBit F.SUP_CTRL_RUN j ∧
            d.rdBit F.SUP_STATUS_RUNNING j = c.rdBit F.SUP_STATUS_RUNNING j ∧ d.hart j = c.hart j) ∧
          (d.hart k).mode = .machine ∧ (d.hart k).pc.toNat = 4 * c.rd (F.SUP_BOOT_ADDR k) % 2 ^ 64 ∧ (∀ n, (d.hart k).csr n = 0) ∧
          (d.hart k).icache = [] ∧ (d.hart k).dcache = [] ∧ (d.hart k).tlb = [] ∧ (d.hart k).resv = none ∧
          Keeps c d [F.SUP_CTRL_RUN, F.SUP_STATUS_RUNNING, F.SUP_STATUS_IDLE] ∧ d = { c with regs := d.regs, harts := d.harts })) ∧
      (Writes (.coreHold q k) q 0x2180000 fun c d =>
        (c.rdBit F.SUP_CTRL_RUN k = false → d = c) ∧
        (c.rdBit F.SUP_CTRL_RUN k = true → d.rdBit F.SUP_CTRL_RUN k = false ∧ d.rdBit F.SUP_STATUS_RUNNING k = false ∧
          (∀ a ∈ d.int.active, a.tgt ≠ k.val) ∧ d.intStack k = [] ∧ d.int.pend = c.int.pend ∧ LinesRight d ∧
          (∀ j, j < 4 → j ≠ k.val → d.rdBit F.SUP_CTRL_RUN j = c.rdBit F.SUP_CTRL_RUN j) ∧
          Keeps c d [F.SUP_CTRL_RUN, F.SUP_STATUS_RUNNING, F.SUP_STATUS_IDLE] ∧ d = { c with regs := d.regs, int := d.int })) ∧
      (∀ v : Nat, Writes (.tenDenyWrite q v) q 0x2180010 fun c d => d.rd F.SUP_TEN_DENY_DENY = v % 2 ^ F.SUP_TEN_DENY_DENY.wd ∧
        ((∀ t ∈ c.claimsOf 9, t < 128 → 1 ≤ c.owner t → c.owner t ≤ 8 → bit v (c.owner t - 1) = true →
            c.rdBit F.SUP_TEN_DENY_DENY (c.owner t - 1) = true) → RegsOnly c d [F.SUP_TEN_DENY_DENY]) ∧
        (∀ t ∈ c.claimsOf 9, t < 128 → 1 ≤ c.owner t → c.owner t ≤ 8 → bit v (c.owner t - 1) = true →
          c.rdBit F.SUP_TEN_DENY_DENY (c.owner t - 1) = false → c.planHere 9 = false → d.claimsOf 9 = []))) ∧
    (Runs (.coreWfi k) fun c d =>
      let h := c.hart k
      let may := h.mode = .machine ∨ (h.mode = .supervisor ∧ h.status 21 = false)
      (c.coreGoes k = false → d = c) ∧
      (c.coreGoes k = true → may → LinesRight d ∧ d.int.pend = c.int.pend ∧ (d.hart k).pc = h.pc + 4 ∧
        d.rd (F.SUP_PC_PC k) = h.pc.toNat % 2 ^ (F.SUP_PC_PC k).wd ∧
        (c.coreReady k = 0 → d.coreReady k = 0 → d.rdBit F.SUP_STATUS_IDLE k = true) ∧
        (c.coreReady k ≠ 0 → d.rdBit F.SUP_STATUS_IDLE k = false) ∧ Keeps c d [F.SUP_STATUS_IDLE, F.SUP_PC_PC k] ∧
        d = { c with regs := d.regs, int := d.int, harts := d.harts, freeCtr := d.freeCtr }) ∧
      (c.coreGoes k = true → ¬ may → d = c.setHart k fun h => h.trap false 2 0x10500073)) ∧
    (Runs (.mtimerExpire k) fun c d =>
      let t := c.rd (F.SUP_MTIMECMP_CMP k)
      (c.canBe t = false → d = c) ∧
      (c.canBe t = true → d.air.mono = c.air.mono + (t - c.now) ∧
        (t < 2 ^ 64 → c.now ≤ t → d.now = t ∧ bit (d.mip k) 7 = true ∧
          (bit ((c.hart k).csr 0x304) 7 = true → d.rdBit F.SUP_STATUS_IDLE k = false)) ∧
        (d.coreReady k = 0 → d.rdBit F.SUP_STATUS_IDLE k = c.rdBit F.SUP_STATUS_IDLE k) ∧
        Keeps c d [F.AIR_AT_AT, F.AIR_EPOCH_EPOCH, F.SUP_STATUS_IDLE] ∧ d = { c with regs := d.regs, air := d.air })) ∧
    (Runs (.supEccError k 0) fun c d => d.rd (F.SUP_ERR_CORRECTED k) = satU (F.SUP_ERR_CORRECTED k).wd (c.rd (F.SUP_ERR_CORRECTED k) + 1) ∧
      Keeps c d [F.SUP_ERR_CORRECTED k] ∧ d = { c with regs := d.regs, harts := d.harts }) ∧
    (∀ e : Fin 5, 3 ≤ e.val → Runs (.supEccError k e) fun c d =>
      d.rd (F.SUP_ERR_PARITY k) = satU (F.SUP_ERR_PARITY k).wd (c.rd (F.SUP_ERR_PARITY k) + 1) ∧ Recorded c d (418 + k) (e.val - 1) ∧
      KeepsOff c d (fun a => inFlt a ∨ a = (F.SUP_ERR_PARITY k).addr) ∧
      d = { c with regs := d.regs, flt := d.flt, harts := d.harts, freeCtr := d.freeCtr }) ∧
    (∀ e : Fin 5, e.val = 1 ∨ e.val = 2 → ∀ s : State, s.chip.running = true →
      let src := if e.val = 1 then 418 + k.val else 422
      let h := s.chip.hart k
      (s.chip.coreGoes k = false → Completes (.supEccError k e) s fun d => Recorded s.chip d src 1 ∧
        d.rd (F.SUP_ERR_UNCORR k) = satU (F.SUP_ERR_UNCORR k).wd (s.chip.rd (F.SUP_ERR_UNCORR k) + 1) ∧
        KeepsOff s.chip d (fun a => inFlt a ∨ a = (F.SUP_ERR_UNCORR k).addr) ∧
        d = { s.chip with regs := d.regs, flt := d.flt, freeCtr := d.freeCtr }) ∧
      (s.chip.coreGoes k = true → h.mode = .machine → h.pmpOk .machine 2 h.pc.toNat 2 = true → e.val = 1 → h.pc.toNat < 0x10000 →
        Completes (.supEccError k e) s fun d => Recorded s.chip d src 1 ∧ (d.hart k).mode = .machine ∧ (d.hart k).csr 0x342 = 1 ∧
          (d.hart k).csr 0x341 = h.pc.toNat ∧ (d.hart k).csr 0x343 = h.pc.toNat ∧ (d.hart k).pc = trapPc (h.csr 0x305) 1 false ∧
          d.rd (F.SUP_ERR_UNCORR k) = satU (F.SUP_ERR_UNCORR k).wd (s.chip.rd (F.SUP_ERR_UNCORR k) + 1) ∧
          d = { s.chip with regs := d.regs, flt := d.flt, harts := d.harts }))) ∧
  (∀ (s : State) (k : Fin 4), s.chip.coreGoes k = true →
    let h := s.chip.hart k
    let t := s.coreStep k
    (∀ n, s.chip.hartIrq k = some n → t.mem = s.mem ∧ t.chip = { s.chip with harts := t.chip.harts } ∧
      let g := t.chip.hart k
      (bit (h.csr 0x303) n = false → g.mode = .machine ∧ g.csr 0x341 = h.pc.toNat ∧ g.csr 0x342 = 2 ^ 63 + n ∧ g.mpp = h.mode ∧
        g.status 3 = false ∧ g.status 7 = h.status 3 ∧ g.pc = trapPc (h.csr 0x305) n true) ∧
      (bit (h.csr 0x303) n = true → g.mode = .supervisor ∧ g.csr 0x141 = h.pc.toNat ∧ g.csr 0x142 = 2 ^ 63 + n ∧
        g.status 8 = decide (h.mode = .supervisor) ∧ g.status 1 = false ∧ g.status 5 = h.status 1 ∧ g.pc = trapPc (h.csr 0x105) n true)) ∧
    (∀ (i : Rv) (enc : Nat), s.chip.hartIrq k = none → h.mode = .machine → h.bad = none → h.pc.toNat + 4 ≤ 0x10000 →
      h.pmpOk .machine 2 h.pc.toNat 2 = true → h.pmpOk .machine 2 (h.pc.toNat + 2) 2 = true →
      memRead s.mem (0x2100000 + 0x10000 * k + h.pc.toNat) 4 = enc → enc % 4 = 3 → decode32 enc = some i →
      t = State.runInstr { s with chip := s.chip.countCycles k } k i 4 enc)) ∧
  (∀ (s : State) (k : Fin 4) (enc : Nat),
    let h := s.chip.hart k
    (∀ (op : Alu) (dbl : Bool) (rd a b : Nat) (imm : Xword) (i : Rv) (y : Xword), 0 < rd →
      (i = .opImm op dbl rd a imm ∧ y = imm) ∨ (i = .op op dbl rd a b ∧ y = h.x b) →
      let t := s.runInstr k i 4 enc
      t.mem = s.mem ∧ (t.chip.hart k).x rd = op.run dbl (h.x a) y ∧ (∀ r, r ≠ rd → (t.chip.hart k).x r = h.x r) ∧
      (t.chip.hart k).pc = h.pc + 4 ∧ (t.chip.hart k).mode = h.mode ∧
      (t.chip.hart k).csr 0xB02 = (if bit (h.csr 0x320) 2 = true then h.csr 0xB02 else (h.csr 0xB02 + 1) % 2 ^ 64) ∧
      RegsOnly s.chip { t.chip with harts := s.chip.harts, freeCtr := s.chip.freeCtr } [F.SUP_PC_PC k] ∧
      t.chip.rd (F.SUP_PC_PC k) = h.pc.toNat % 2 ^ (F.SUP_PC_PC k).wd) ∧
    (∀ (z a b : Nat) (imm : Xword), h.mode = .machine → h.status 17 = false → z ≤ 3 →
      let pa := (h.x a + imm).toNat
      pa % 2 ^ z = 0 → pa < 0x10000 → h.pmpOk .machine 1 pa (2 ^ z) = true →
      let t := s.runInstr k (.store z a b imm) 4 enc
      let off := 0x2100000 + 0x10000 * k.val + pa
      (∀ j, j < 2 ^ z → memByte t.mem (off + j) = BitVec.ofNat 8 ((h.x b).toNat / 256 ^ j)) ∧
      (∀ j, j < off ∨ off + 2 ^ z ≤ j → memByte t.mem j = memByte s.mem j) ∧ (∀ r, (t.chip.hart k).x r = h.x r) ∧
      (t.chip.hart k).pc = h.pc + 4) ∧
    (∀ (z : Nat) (unsig : Bool) (rd a : Nat) (imm : Xword), h.mode = .machine → h.status 17 = false → z ≤ 3 → 0 < rd →
      let pa := (h.x a + imm).toNat
      let t := s.runInstr k (.load z unsig rd a imm) 4 enc
      (pa % 2 ^ z = 0 → pa < 0x10000 → h.bad = none → h.pmpOk .machine 0 pa (2 ^ z) = true → t.mem = s.mem ∧
        (t.chip.hart k).x rd = (if unsig = true then BitVec.ofNat 64 (memRead s.mem (0x2100000 + 0x10000 * k + pa) (2 ^ z))
          else BitVec.ofInt 64 (toS (8 * 2 ^ z) (memRead s.mem (0x2100000 + 0x10000 * k + pa) (2 ^ z)))) ∧
        (t.chip.hart k).pc = h.pc + 4) ∧
      (0x50000000 ≤ pa → t = { s with chip := s.chip.setHart k fun h => h.trap false 5 pa })) ∧
    (s.runInstr k .ecall 4 enc = { s with chip := s.chip.setHart k fun h => h.trap false (8 + h.mode.num) 0 }))

/-! ## Tenancy (R351–R367) -/

/-- R357, R358, R361, R362: a request is answered by the first condition that fails; at its boundary ownership moves; written quotas come
into force at theirs, and withdraw what no longer fits.

The model's choices in it: a request refused with BUSY shows its SQ and FUNC, and the order of the sides (log 42).

Completes with its own effect: assignRequest, assignApply, quotaUpdate. -/
def Obligations.TenantQuotas : Prop :=
  (∀ (q : Requester) (n : Fin 128) (f : Fin 16), Writes (.assignRequest q n f) q 0x1F00000 fun c d =>
    let r := d.rd F.TEN_ASSIGN_STATUS_RESULT
    (c.ten.assign.isSome = true → r = 3) ∧
    (c.ten.assign = none → 8 < f.val ∨ (f.val ≠ 0 ∧ c.vfExists f = false) → r = 4) ∧
    (c.ten.assign = none → f.val = 0 ∨ c.vfExists f = true → c.isMember n = true → r = 5) ∧
    (c.ten.assign = none → f.val = 0 ∨ c.vfExists f = true → c.isMember n = false → r = if c.assignLate n f = 0 then 1 else c.assignLate n f) ∧
    ((∃ m ∈ c.movesWith n, c.on (F.SQ_CTRL_ENABLE m) = true ∨ c.sqState m ≠ 0) → c.assignLate n f = 6) ∧
    (r = 1 → d.ten = { c.ten with assign := some (n.val, f.val, c.boundary64) }) ∧ (r ≠ 1 → d.ten = c.ten) ∧
    (3 ≤ r → d.rd F.TEN_PF_INT_STATUS_ASSIGN_REFUSED = 1) ∧
    d.rd F.TEN_ASSIGN_STATUS_SQ = n ∧ d.rd F.TEN_ASSIGN_STATUS_FUNC = f ∧ d.rd F.TEN_ASSIGN_STATUS_PENDING = b2n d.ten.assign.isSome ∧
    Keeps c d [F.TEN_ASSIGN_STATUS_RESULT, F.TEN_ASSIGN_STATUS_SQ, F.TEN_ASSIGN_STATUS_FUNC, F.TEN_ASSIGN_STATUS_PENDING,
      F.TEN_PF_INT_STATUS_ASSIGN_REFUSED] ∧ d = { c with regs := d.regs, ten := d.ten }) ∧
  (Runs .assignApply fun c d =>
    (c.ten.assign = none → d = c) ∧
    (∀ n f t, c.ten.assign = some (n, f, t) →
      (c.dueAfter t 0 = false → d = c) ∧
      (c.dueAfter t 0 = true → d.ten = { c.ten with assign := none } ∧ d.rd F.TEN_ASSIGN_STATUS_PENDING = 0 ∧
        (c.assignLate n f ≠ 0 → d.rd F.TEN_ASSIGN_STATUS_RESULT = c.assignLate n f ∧ ∀ m, m < 128 → d.owner m = c.owner m) ∧
        (c.assignLate n f = 0 → f < 16 → (∀ m ∈ c.movesWith n, m < 128) → d.rd F.TEN_ASSIGN_STATUS_RESULT = 2 ∧
          d.rd F.TEN_PF_INT_STATUS_ASSIGN_DONE = 1 ∧
          (∀ m ∈ c.movesWith n, d.owner m = f) ∧ (∀ m, m < 128 → m ∉ c.movesWith n → d.owner m = c.owner m)) ∧
        (c.judged → d.sqs = c.sqs)))) ∧
  (Runs .quotaUpdate fun c d =>
    let early := ∃ x, c.ten.assign = some x ∧ x.2.2 ≤ c.air.tempi
    (c.air.onB = false ∨ early ∨ (∀ w ∈ c.ten.waits, c.air.tempi < w.2.2.2) → d = c) ∧
    (c.air.onB = true → ¬ early → d.ten.waits = c.ten.waits.filter fun w => decide (c.air.tempi < w.2.2.2)) ∧
    (∀ f fld v t, c.air.onB = true → ¬ early → c.ten.waits = [(f, fld, v, t)] → t ≤ c.air.tempi →
      let d0 := c.setTen fun x => { x with waits := [], inForce := SMap.put fld.rst x.inForce fld.key v }
      d.ten? fld = v ∧ (fld.addr % 0x100 = 0x10 ∨ c.ten? fld = v →
        (c.judged → d = { d0 with regs := d.regs, cap := d.cap }) ∧ (∀ n, n < 128 → d.rd (F.SQ_CTRL_ENABLE n) = c.rd (F.SQ_CTRL_ENABLE n)) ∧
        d.rd F.TEN_PF_INT_STATUS_WITHDRAW = c.rd F.TEN_PF_INT_STATUS_WITHDRAW) ∧
      (1 ≤ f → f ≤ 8 → fld.addr % 0x100 ≠ 0x10 → c.ten? fld ≠ v → (d0.judge f).out ≠ [] →
        d.rd F.TEN_PF_INT_STATUS_WITHDRAW = 1 ∧ d.rd (F.TEN_VF_INT_STATUS_QUOTA_CUT f) = 1 ∧
        ∀ n ∈ (d0.judge f).out, d.rd (F.SQ_CTRL_ENABLE n) = 0)))

/-- R351, R356, R364–R366: the resets of a VF and of the PF, the withdrawal that follows, doorbells, and what VC1 refuses.

The model's choices in it: the PCI Express defaults (logs 32, 43), what an FLR withdrawal records (log 42), and the mirror at an FLR of
the PF (log 123).

Completes with its own effect: vfFlr, vfFlrDone, flrWithdrawal, pfFlr, doorbell, vc1Misuse. -/
def Obligations.FunctionResets : Prop :=
  (∀ f : Fin 8,
    let v := f.val + 1
    (∀ s : State, s.chip.reachable .pf = true → Completes (.vfFlr f) s fun d =>
      let c := s.chip.woken .pf
      (c.vfExists v = false ∨ c.on (F.TEN_VF_STATUS_FLR_BUSY v) = true → d = c) ∧
      (c.vfExists v = true → c.on (F.TEN_VF_STATUS_FLR_BUSY v) = false → d.rd (F.TEN_VF_STATUS_FLR_BUSY v) = 1 ∧
        (c.planHere v = false → d.claimsOf v = []) ∧ (c.planHere v = true → d.gpl.late.contains v = true ∧ d.claims = c.claims) ∧
        d.rd (F.TEN_FLR_COMPLETED v) = 0 ∧ (∀ a ∈ d.int.active, a.tgt ≠ 4 + v) ∧ d.int.msixEn.contains v = false ∧
        (∀ e, e < 16 → (d.capq e v).paused = none ∧ d.rd (F.CAP_DQ_STATUS_PAUSED e v) = 0) ∧
        (c.ten? (F.TEN_CFG_FLR_DISABLE v) ≠ 0 → d.ten.flrDue.find v = some c.boundary64) ∧
        (c.ten? (F.TEN_CFG_FLR_DISABLE v) = 0 → d.ten = { c.ten with
          roOff := setDel v c.ten.roOff, dstate := SMap.erase v c.ten.dstate, aer := c.ten.aer.filter fun p => p.1 / 8 ≠ v }) ∧ d.sqs = c.sqs)) ∧
    (Runs (.vfFlrDone f) fun c d =>
      let waits := c.on (F.TEN_VF_STATUS_FLR_BUSY v) = false ∨ c.capRuns v = true ∨ c.prt.verifying = some v
      (waits → d = c) ∧
      (¬ waits → d.rd (F.TEN_VF_STATUS_FLR_BUSY v) = 0 ∧ d.rd (F.TEN_FLR_COUNT v) = (c.rd (F.TEN_FLR_COUNT v) + 1) % 2 ^ 16 ∧
        d.rdBit F.TEN_PF_INT_STATUS_FLR f = true ∧ d.rd (F.TEN_VF_INT_EN_EN v) = 0 ∧ d = { c with regs := d.regs } ∧
        KeepsOff c d (fun a => 0x1F00000 ≤ a ∧ a < 0x2000000))) ∧
    (Runs (.flrWithdrawal f) fun c d =>
      (c.ten.flrDue.find v = none → d = c) ∧
      (∀ t, c.ten.flrDue.find v = some t → (c.dueAfter t 0 = false ∨ c.assignDue = true → d = c) ∧
        (c.dueAfter t 0 = true → c.assignDue = false → d.ten.flrDue.find v = none ∧ (∀ n ∈ c.cutLeft v {}, d.rd (F.SQ_CTRL_ENABLE n) = 0) ∧
          (c.cutLeft v {} = [] → c.judged → d.regs = c.regs) ∧ (c.cutLeft v {} ≠ [] → d.rd (F.TEN_CUT_CAUSE v) = 16 ∧ d.rd F.GPL_INT_STATUS_WITHDRAW = 1)))) ∧
    (∀ (q : Requester) (i : Fin 16), Writes (.doorbell q f i) q (0x1F011F8 + 0x100 * f) fun c d => c.asleep = false →
      IntOnly c d ∧ LinesRight d ∧ d.int.pend = setIns (1024 + 16 * f + i) c.int.pend)) ∧
  (∀ s : State, s.chip.reachable .pf = true → Completes .pfFlr s fun d =>
    let c := s.chip.woken .pf
    d.ten.vfEnable = false ∧ d.ten.numVfs = 0 ∧ d.ten.mps = 0 ∧ d.ten.mrrs = 2 ∧ d.ten.bars = [] ∧ d.ten.vc1 = false ∧
    d.mirSeen = false ∧ (∀ f : Fld, f.key / 64 / 0x100000 = 0x15 → d.rd f = f.rst) ∧ (c.planHere 0 = false → d.claimsOf 0 = []) ∧ (∀ a ∈ d.int.active, a.tgt ≠ 4) ∧
    d.int.msixEn.contains 0 = false ∧ d.sqs = c.sqs ∧ d.ten.assign = c.ten.assign ∧
    (∀ v, 1 ≤ v → v ≤ 8 → c.vfExists v = true → d.rd (F.TEN_VF_STATUS_FLR_BUSY v) ≠ 0) ∧
    (∀ n, n < 128 → d.owner n = c.owner n)) ∧
  (∀ (f : Fin 9) (posted : Bool) (a : Nat) (s : State), s.chip.reachable .pf = true → Completes (.vc1Misuse f posted a) s fun d =>
    let c := s.chip.woken .pf
    let quiet := vc1Ok f a = true ∨ (f.val ≠ 0 ∧ (c.vfExists f = false ∨ c.on (F.TEN_VF_STATUS_FLR_BUSY f) = true))
    (c.ten.vc1 = false ∨ (posted = true ∧ quiet) → d = c) ∧
    (c.ten.vc1 = true → posted = false → d = { c with bus := d.bus, ten := { c.ten with aer := d.ten.aer } } ∧ d.bus.unsupported = true) ∧
    (c.ten.vc1 = true → posted = true → ¬ quiet → d.rd F.TEN_PF_INT_STATUS_VC1_MISUSE = 1 ∧ Recorded c d 414 3 ∧
      KeepsOff c d (fun x => inFlt x ∨ x = F.TEN_PF_INT_STATUS_VC1_MISUSE.key / 64) ∧ d = { c with regs := d.regs, flt := d.flt }))

/-! ## Capture (R368–R383) -/

/-- R372–R374, R381: the queue registers of a capture engine, credit, and the fetch of a descriptor and of a gather entry, which the engine
asks of host memory (R352).

The model's choices in it: queued descriptors are fetched for their TAG at an abort, and the size of a ring (log 37).

Completes with its own effect: dqTailWrite, descriptorFetched, gatherFetched, capAbort, capRestart, creditAdd, cqHeadWrite. -/
def Obligations.CaptureQueues : Prop :=
  (∀ (q : Requester) (e : Fin 16) (k : Fin 10),
    (∀ v : Nat,
      (Writes (.dqTailWrite q e k v) q (aQueue e k 0x10) fun c d => d.rd (F.CAP_DQ_TAIL_TAIL e k) = v % 2 ^ 12 ∧ Serves d e ∧ CapOnly c d ∧
        ((c.eng e).cur.isSome = true → RegsOnly c d (F.CAP_DQ_TAIL_TAIL e k :: waitsOf e))) ∧
      (Writes (.cqHeadWrite q e k v) q (aQueue e k 0x30) fun c d => d.rd (F.CAP_CQ_HEAD_HEAD e k) = v % 2 ^ 12 ∧ Serves d e ∧ CapOnly c d ∧
        ((c.eng e).cur.isSome = true → RegsOnly c d (F.CAP_CQ_HEAD_HEAD e k :: waitsOf e)))) ∧
    (Writes (.capRestart q e k) q (aQueue e k 8) fun c d => d.rd (F.CAP_DQ_STATUS_HALTED e k) = 0 ∧ Serves d e ∧ CapOnly c d ∧
      ((c.eng e).cur.isSome = true → RegsOnly c d (F.CAP_DQ_STATUS_HALTED e k :: waitsOf e))) ∧
    (Writes (.capAbort q e k) q (aQueue e k 8) fun c d =>
      let held := (c.capq e k).barred = true ∨ ((c.capq e k).paused.isSome = true ∧ (c.capq e k).ready = false)
      (c.dqLoad e k = 0 → d = c) ∧
      (c.dqLoad e k ≠ 0 → KeepsOff c d (fun a => inCap a ∨ (0x1F00000 ≤ a ∧ a < 0x2000000)) ∧ d = { c with regs := d.regs, cap := d.cap } ∧
        (¬ held → CapOnly c d) ∧ (held → d.rd (F.TEN_VF_INT_STATUS_CAP_RESUMED k) = 1) ∧
        (∀ r, (c.capq e k).paused = some r → r.q = k → Ended e r 6 r.elem c d) ∧
        (∀ r x, (c.capq e k).paused = none → (c.eng e).cur = some r → r.q = k → r.desc = some x →
          (r.run = true → (d.eng e).cur = some { r with abort := true } ∧ Serves d e ∧
            (¬ held → Keeps c d (waitsOf e))) ∧
          (r.run = false → Ended e r 6 r.elem c d)) ∧
        (∀ r, (c.capq e k).paused = none → (c.eng e).cur = some r → r.q ≠ k.val →
          (d.eng e).cur = some r ∧ (¬ held → Keeps c d (waitsOf e)) ∧
          d.capq e k = { abortTo := some (c.rd (F.CAP_DQ_TAIL_TAIL e k) % c.dqSize e k) }) ∧
        ((c.capq e k).paused = none → (c.eng e).cur = none → c.dqSize e k ≤ 2 ^ 12 → c.cqFree e k = true →
          (∀ j, j < 10 → j ≠ k.val → c.capWork e j = false) →
          (d.eng e).cur = some { q := k } ∧ d.rd (F.CAP_ENG_STATE e) = 1 ∧
            Asked d k (64 * c.rd (F.CAP_DQ_BASE_BASE e k) + 64 * c.rd (F.CAP_DQ_STATUS_HEAD e k)) 64)))) ∧
  (∀ (q : Requester) (f : Fin 10) (v : Nat), Writes (.creditAdd q f v) q (0x1B00118 + 0x20 * f) fun c d =>
    d.rd (F.CAP_CREDIT_BYTES f) = satU 48 (c.rd (F.CAP_CREDIT_BYTES f) + v % 2 ^ 48) ∧ RegsOnly c d [F.CAP_CREDIT_BYTES f]) ∧
  (∀ (e : Fin 16) (ok : Bool) (bytes : List Nat) (total : Nat), Runs (.descriptorFetched e ok bytes total) fun c d =>
    ((c.eng e).cur = none ∨ (∃ r, (c.eng e).cur = some r ∧ r.desc.isSome = true) → d = c) ∧
    (∀ r, (c.eng e).cur = some r → r.desc = none → r.q < 10 → CapOnly c d ∧
      (ok = false → (c.capq e r.q).abortTo = none → d.rd (F.CAP_DQ_STATUS_HALTED e r.q) = 1 ∧ d.rd (F.CAP_Q_INT_STATUS_HALT e r.q) = 1 ∧
        Serves d e ∧ ∃ l, d.cap.lastCpl = some l ∧ l.status = 2 ∧ l.index = 0) ∧
      (ok = false → (c.capq e r.q).abortTo.isSome = true → Ended e r 6 1 c d) ∧
      (ok = true → (c.capq e r.q).abortTo.isSome = true → Ended e { r with desc := some (capDesc bytes) } 6 1 c d) ∧
      (ok = true → (c.capq e r.q).abortTo = none → descOk bytes total = false →
        Ended e { r with desc := some (capDesc bytes) } 5 0 c d) ∧
      (ok = true → (c.capq e r.q).abortTo = none → descOk bytes total = true →
        let x := capDesc bytes
        d.rd (F.CAP_ENG_STATE e) = 2 ∧ d.rd (F.CAP_DQ_STATUS_WAIT_START e r.q) = 1 ∧ Asked d r.q x.gather 16 ∧
        (d.eng e).cur = some { r with desc := some x, late := x.start = 1 && decide (x.startAt < c.now)
                                      started := x.start = 0 || (x.start = 1 && decide (x.startAt < c.now)) }))) ∧
  (∀ (e : Fin 16) (ok : Bool) (o p z : Nat), Runs (.gatherFetched e ok o p z) fun c d =>
    ((c.eng e).cur = none → d = c) ∧
    (∀ r x, (c.eng e).cur = some r → r.desc = some x → r.entry = none → r.elem + b2n r.run ≤ x.nElem →
      (d.eng e).cur = some { r with entry := some (if ok then some (o % 2 ^ 64, p % 2 ^ 16, z % 2 ^ 48) else none) } ∧
      d = { c with cap := d.cap }) ∧
    (∀ r, (c.eng e).cur = some r → r.desc = none ∨ r.entry.isSome = true → d = c))

/-- R370–R379: an element starts, waits, pauses or ends the descriptor; a record holds the samples of the oldest block in the engine's
buffer, or of a snapshot; writes are acknowledged; a paused descriptor resumes.

The model's choices in it: the instant of the first sample and what a pause drops (log 39), the order of writes (log 40), BUF of a full
buffer (log 41), and what a tap of a square that is OFF shows (log 97).

Completes with its own effect: elementStart, captureStartAt, snapshotDone, recordWrite, writeAck, captureResume. -/
def Obligations.CaptureRecords : Prop :=
  (∀ e : Fin 16,
    (Runs (.elementStart e) fun c d =>
      ((c.eng e).cur = none → d = c) ∧
      (∀ r x ent, (c.eng e).cur = some r → r.desc = some x → r.entry = some ent →
        (r.run = true ∨ r.started = false → d = c) ∧
        (r.run = false → r.started = true → r.q < 10 →
          let slow := isVfQ r.q = true ∧ r.elem = 1 ∧ c.capBw r.q < c.capUse r.q + c.capDemand x
          let full := isVfQ r.q = true ∧ c.capBw r.q < c.capUse r.q
          (c.elemCheck r x ent ≠ 0 → Ended e r (c.elemCheck r x ent) r.elem c d) ∧
          (c.elemCheck r x ent = 0 → c.capPauses e r.q = true ∨ (¬ slow ∧ full) → (d.capq e r.q).paused = some r.still ∧
            (d.capq e r.q).ready = false ∧ d.rd (F.CAP_DQ_STATUS_PAUSED e r.q) = 1 ∧ d.rd (F.TEN_VF_STATUS_CAP_PAUSED r.q) = 1 ∧
            d.rd (F.TEN_VF_INT_STATUS_CAP_PAUSED r.q) = 1 ∧ Serves d e) ∧
          (∀ o p z, c.elemCheck r x ent = 0 → c.capPauses e r.q = false → ent = some (o, p, z) →
            (slow → d.rd (F.CAP_DQ_STATUS_WAIT_BW e r.q) = 1 ∧ RegsOnly c d [F.CAP_DQ_STATUS_WAIT_BW e r.q]) ∧
            (¬ slow → ¬ full → CapOnly c d ∧
              d.rd (F.CAP_CREDIT_BYTES r.q) = (c.rd (F.CAP_CREDIT_BYTES r.q) - 4096 * p) % 2 ^ 48 ∧
              d.rd (F.CAP_ENG_STATE e) = (if x.src = 4 ∧ r.elem = 1 then 3 else 4) ∧
              (r.elem < x.nElem → Asked d r.q (x.gather + 16 * r.elem) 16) ∧
              ∃ y, (d.eng e).cur = some y ∧ y = { r with
                  run := true, pages := p, host := 4096 * c.rd (F.CAP_WIN_BASE_BASE r.q) + o, entry := none, left := 0, denied := false
                  taking := true, began := y.began, pos := y.pos, clock := y.clock, step := y.step } ∧
                (r.taking = true → y.began = r.began ∧ y.pos = r.pos ∧ y.clock = r.clock ∧ y.step = r.step) ∧
                (r.taking = false → y.began = c.air.mono ∧ y.pos = if x.src = 4 then c.smp else c.smp * y.clock)))))) ∧
    (Runs (.captureStartAt e) fun c d =>
      ((c.eng e).cur = none → d = c) ∧
      (∀ r x, (c.eng e).cur = some r → r.desc = some x →
        (x.start ≠ 1 ∨ r.started = true ∨ c.canBe x.startAt = false → d = c) ∧
        (x.start = 1 → r.started = false → c.canBe x.startAt = true →
          (d.eng e).cur = some { r with started := true, notBefore := some (x.startAt - d.atOff) } ∧
          d.air.mono = c.air.mono + (x.startAt - c.now) ∧ Keeps c d [F.AIR_AT_AT, F.AIR_EPOCH_EPOCH]))) ∧
    (Runs (.snapshotDone e) fun c d =>
      let full := c.rd (F.CAP_ENG_STATE e) = 3 ∧ ∃ r, (c.eng e).cur = some r ∧ capSnapshot ≤ r.filled
      (¬ full → d = c) ∧ (full → d.rd (F.CAP_ENG_STATE e) = 4 ∧ RegsOnly c d [F.CAP_ENG_STATE e])) ∧
    (∀ (at0 frac place : Nat) (bad : Bool) (samples : List Int), Runs (.recordWrite e at0 frac place bad samples) fun c d =>
      ((c.eng e).cur = none → d = c) ∧
      (∀ r x, (c.eng e).cur = some r → r.desc = some x →
        (r.front x = none → d = c) ∧
        (∀ b, r.front x = some b →
          let base := r.base.getD (at0 * 65536 + (frac % 65536 : Nat) - b.off * 65536)
          let sp := c.capStep x
          let idle := r.run = false ∨ r.left ≠ 0 ∨ r.pages = 0 ∨ c.rd (F.CAP_ENG_STATE e) ≠ 4 ∨ (r.base = none ∧ c.firstAt r x base = false)
          let denied := r.denied = true ∨ (isVfQ r.q = true ∧ (c.owner x.unit ≠ r.q ∨ c.isMember x.unit = true))
          (idle → d = c) ∧
          (¬ idle → r.q < 10 → ∃ w, d.cap.lastRec = some w ∧ w.addr = r.host ∧ w.format = x.format ∧ w.tag = x.tag ∧ w.src = x.src ∧
            w.count = x.count ∧ w.seq = r.records % 2 ^ 32 ∧ w.sq = (if x.src = 4 then 0xFFFF else x.unit) ∧
            w.stream = x.list.getD r.blk 0 ∧ w.rate = c.capRate x ∧
            65536 * w.time + w.frac = (base + wholeOf ((b.idx * sp.1 * 65536 : Nat) : Int) sp.2 + b.off * 65536).toNat ∧
            bit w.flags 0 = decide (b.lost ≠ 0) ∧ w.lost = satU 16 b.lost ∧ bit w.flags 3 = bad ∧ bit w.flags 5 = b.step ∧
            (bit w.flags 2 = true ↔ denied) ∧
            (denied → x.src ≠ 4 → bad = false → ∀ v ∈ w.data, v = 0) ∧
            (x.src = 4 → bad = false → w.data = (List.range x.count).map fun i => r.raw.getD (r.filled - 1 - (b.idx + i)) 0) ∧
            (¬ denied → x.src ≠ 4 → bit w.flags 1 = (b.rows.any fun l => (l.getD r.blk (some Cx.zero)).isNone) ∧
              (bad = false → w.data = (packSamples x.format ((List.range x.count).map fun i =>
                ((b.rows.getD i []).getD r.blk (some Cx.zero)).getD Cx.zero)).map (·.1))) ∧
            (r.pages ≠ 1 → d.cap.lastWrite = some {
                func := capFunc r.q, relaxed := !c.ten.roOff.contains (capFunc r.q), addr := r.host, bytes := w.bytes } ∧
              ∃ y, (d.eng e).cur = some y ∧ y.records = r.records + 1 ∧ y.pages = r.pages - 1 ∧ y.host = r.host + 4096 ∧
                y.blocks = (if x.list.length ≤ r.blk + 1 then r.blocks.drop 1 else r.blocks) ∧
                (x.src ≠ 4 → y.used x < capBuffer → d.rd (F.CAP_ENG_BUF e) = y.used x)) ∧
            d.rd (F.CAP_Q_STATS_RECORDS e r.q) = satU 32 (c.rd (F.CAP_Q_STATS_RECORDS e r.q) + 1) ∧
            (bad = true → Recorded c d (427 + e) 1))))) ∧
    (∀ k : Fin 10, Runs (.captureResume e k) fun c d =>
      ((c.capq e k).paused = none → d = c) ∧
      (∀ r, (c.capq e k).paused = some r →
        let dem := match r.desc with
          | some x => c.capDemand x
          | none => 0
        let waits := (c.capq e k).ready = true ∨ bit (c.ten? (F.TEN_CFG_CAP_ENG k)) e = false ∨ c.capMax k < c.flightOf k ∨
          c.capBw k < c.capUse k + dem
        (waits → d = c) ∧
        (¬ waits → d.rd (F.TEN_VF_INT_STATUS_CAP_RESUMED k) = 1 ∧ Serves d e ∧
          ((c.eng e).cur.isSome = true → d.capq e k = { c.capq e k with ready := true }))))) ∧
  (Runs .writeAck fun c d =>
    (c.cap.flight = [] → d = c) ∧
    (∀ f n l, c.cap.flight = (f, n) :: l → (∀ e, e < 16 → (c.eng e).cur = none) →
      d.cap.flight = (if n ≤ 1 then l else (f, n - 1) :: l) ∧ d.rd F.CAP_STATUS_INFLIGHT = d.flightAll % 2 ^ F.CAP_STATUS_INFLIGHT.wd ∧
      (1 ≤ f → f ≤ 8 → d.rd (F.TEN_USE_INFLIGHT f) = d.flightOf f % 2 ^ (F.TEN_USE_INFLIGHT f).wd)))

/-! ## Chain Link (R384–R407) -/

/-- R384–R387, R391, R405: enabling, training, loss and restart of a port.

The model's choices in it: the enable is no event, and what waits for the next UP (log 46), and when an ALIGN is due (log 100).

Completes with its own effect: chlEnWrite, linkUp, trainTimeout, linkLoss, initRx, alignTx, initTx, chlFrameCrcErr. -/
def Obligations.LinkPorts : Prop :=
  ∀ p : Fin 2,
    (∀ (q : Requester) (on : Bool), Writes (.chlEnWrite q p on) q (0x1C00100 + 0x100 * p) fun c d =>
      d.rd (F.CHL_CFG_EN p) = b2n on ∧ LinkOnly c d ∧
      (on = true → c.rd (F.CHL_STATUS_STATE p) = 0 → d.rd (F.CHL_STATUS_STATE p) = 1 ∧ d.srcBit F.FLT_ACTIVE_ACTIVE (424 + p) = true) ∧
      (on = true → c.rd (F.CHL_STATUS_STATE p) ≠ 0 → RegsOnly c d [F.CHL_CFG_EN p]) ∧
      (on = false → d.rd (F.CHL_STATUS_STATE p) = 0 ∧
        (c.rd (F.CHL_STATUS_STATE p) ≠ 0 → d.srcBit F.FLT_ACTIVE_ACTIVE (424 + p) = false) ∧
        (c.rd (F.CHL_STATUS_STATE p) = 2 → (d.port p).stopQ = (c.port p).stopQ.map ChlFrame.again ∧ (d.port p).smpQ = []))) ∧
    (Runs (.linkUp p) fun c d =>
      let due := c.rd (F.CHL_STATUS_STATE p) = 1 ∧ (c.port p).initRx = true ∧ c.railBad.contains .vddSer = false
      (¬ due → d = c) ∧
      (due → d.rd (F.CHL_STATUS_STATE p) = 2 ∧ d.rd (F.CHL_STATUS_LANE_LOCK p) = 15 ∧ d.srcBit F.FLT_ACTIVE_ACTIVE (424 + p) = false ∧
        (d.port p).txSeq = [] ∧ (d.port p).rxSeq = [] ∧ (d.port p).stopQ = (c.port p).stopQ ∧ (d.port p).ctlQ = (c.port p).ctlQ ∧
        LinkOnly c d)) ∧
    (Runs (.trainTimeout p) fun c d =>
      (c.rd (F.CHL_STATUS_STATE p) ≠ 1 → d = c) ∧
      (c.rd (F.CHL_STATUS_STATE p) = 1 → d.rd (F.CHL_STATUS_STATE p) = 1 ∧ (d.port p).cause = some 4 ∧ LinkOnly c d ∧
        ((c.port p).cause = none → Recorded c d (424 + p) 4) ∧
        ((c.port p).cause.isSome = true → d.rd (F.FLT_SRC_EVENTS (424 + p)) = c.rd (F.FLT_SRC_EVENTS (424 + p))))) ∧
    (∀ b : Bool, Runs (.linkLoss p b) fun c d =>
      (c.chlUp p = false → d = c) ∧ (c.chlUp p = true → LinkLost p (if b = true then 2 else 1) c d)) ∧
    (∀ (m : Bool) (h : Fin 16), Runs (.initRx p m h) fun c d =>
      (c.rd (F.CHL_STATUS_STATE p) = 0 → d = c) ∧
      (c.rd (F.CHL_STATUS_STATE p) ≠ 0 → d.rd (F.CHL_STATUS_PEER_MASTER p) = b2n m ∧ d.rd (F.CHL_STATUS_PEER_HOPS p) = h ∧
        d.rd (F.CHL_STATUS_STATE p) = 1) ∧
      (c.rd (F.CHL_STATUS_STATE p) = 1 → (d.port p).initRx = true ∧ d = { c with regs := d.regs, chl := d.chl } ∧
        Keeps c d [F.CHL_STATUS_PEER_MASTER p, F.CHL_STATUS_PEER_HOPS p]) ∧
      (2 ≤ c.rd (F.CHL_STATUS_STATE p) → (d.port p).initRx = false ∧ (d.port p).stopQ = (c.port p).stopQ.map ChlFrame.again)) ∧
    (Runs (.initTx p) fun c d => d.regs = c.regs ∧ (∀ j, j ≠ p.val → d.port j = c.port j) ∧ d = { c with chl := d.chl } ∧
      d.port p = if c.rd (F.CHL_STATUS_STATE p) = 1
        then { c.port p with
          lastBlk := some ⟨true, 0x66 + (if c.rd F.AIR_CTRL_SOURCE = 3 then c.rd F.CHL_SYS_HOPS % 16 * 2 ^ 12 else 2 ^ 8)⟩
          lane := ((c.port p).lane + 1) % 4, line := (d.port p).line, scr := (d.port p).scr
          rows := (c.port p).rows + if (c.port p).lane = 3 then 1 else 0 }
        else c.port p) ∧
    (Runs (.alignTx p) fun c d => d.regs = c.regs ∧ (∀ j, j ≠ p.val → d.port j = c.port j) ∧ d = { c with chl := d.chl } ∧
      let due := c.rd (F.CHL_STATUS_STATE p) ≠ 0 ∧ 16383 ≤ (c.port p).rows ∧ (c.port p).lane = 0
      (¬ due → d = c) ∧
      (due → d.port p = { c.port p with lastBlk := some ⟨true, 0x99⟩, rows := 0, line := (d.port p).line, scr := (d.port p).scr } ∧
        ∀ l, l < 4 → (d.port p).line.find l = some ⟨true, (scramble (SMap.get 0 (c.port p).scr l) 0x99).1⟩)) ∧
    (Runs (.chlFrameCrcErr p) fun c d =>
      (c.rd (F.CHL_STATUS_STATE p) = 0 → d = c) ∧
      (c.rd (F.CHL_STATUS_STATE p) ≠ 0 → d.rd (F.CHL_ERR_CRC_ERR p) = satU 16 (c.rd (F.CHL_ERR_CRC_ERR p) + 1) ∧
        RegsOnly c d [F.CHL_ERR_CRC_ERR p]))

/-- R198, R389, R390, R399, R407: messages and stops leave and arrive exactly once and in order; a full receive queue answers BUSY.

The model's choices in it: SEND before CANCEL (log 44), and the counters of STOP frames and the verification of RESUME frames (log
101).

Completes with its own effect: stopFrameRx, messageRx, resumeRx, ackRx, retransmit, send, cancel, pop. -/
def Obligations.LinkMessages : Prop :=
  ∀ p : Fin 2,
    (∀ (q : Requester) (n : Fin 16),
      (∀ len : Nat, Writes (.send q p n len) q (0x1C00138 + 0x100 * p) fun c d =>
        let bad := c.slotState p n = 1 ∨ c.slotState p n = 2 ∨ len % 64 = 0 ∨ 32 < len % 64
        (bad → d = c) ∧
        (¬ bad → d.slotState p n = 1 ∧ (∀ m, m < 16 → m ≠ n.val → d.slotState p m = c.slotState p m) ∧
          (d.port p).ctlQ = (c.port p).ctlQ ++ [
            { cls := 1, kind := 0, slot := some n.val
              blocks := (List.range (len % 64)).map fun i => c.rd (F.CHL_TXBUF_DATA p (32 * n + i)) }] ∧
          Keeps c d [F.CHL_TXSTAT_SLOT_STATE p] ∧ d = { c with regs := d.regs, chl := d.chl })) ∧
      (Writes (.cancel q p n) q (0x1C00138 + 0x100 * p) fun c d =>
        (c.slotState p n = 1 → d.slotState p n = 4 ∧ d.rd (F.CHL_TXSTAT_CANCEL_RES p) = 1 ∧
          (d.port p).ctlQ = (c.port p).ctlQ.filter fun f => f.slot ≠ some n.val) ∧
        (c.slotState p n = 2 ∨ c.slotState p n = 3 → d.slotState p n = c.slotState p n ∧ d.rd (F.CHL_TXSTAT_CANCEL_RES p) = 2 ∧
          d.rd (F.CHL_INT_STATUS_CANCEL_LATE p) = 1 ∧ d.chl = c.chl) ∧
        (c.slotState p n = 0 ∨ 4 ≤ c.slotState p n → d.rd (F.CHL_TXSTAT_CANCEL_RES p) = 3 ∧ RegsOnly c d [F.CHL_TXSTAT_CANCEL_RES p])) ∧
      (Writes (.pop q p) q (0x1C00148 + 0x100 * p) fun c d =>
        (c.rd (F.CHL_RXQ_COUNT p) = 0 → d = c) ∧
        (c.rd (F.CHL_RXQ_COUNT p) ≠ 0 → d.rd (F.CHL_RXQ_HEAD p) = (c.rd (F.CHL_RXQ_HEAD p) + 1) % 16 ∧
          d.rd (F.CHL_RXQ_COUNT p) = (c.rd (F.CHL_RXQ_COUNT p) - 1) % 32 ∧
          RegsOnly c d [F.CHL_RXQ_HEAD p, F.CHL_RXQ_COUNT p, F.CHL_RXQ_LEN p, F.CHL_RXQ_RESUME p]))) ∧
    (∀ (busy : Bool) (next : Nat),
      (Runs (.ackRx p false busy next) fun c d => (c.chlUp p = false → d = c) ∧
        (c.chlUp p = true → d = { c with chl := d.chl } ∧ (d.port p).ctlQ = (c.port p).ctlQ ∧
          (∀ f ∈ (d.port p).stopQ, f.sent = true → seqBelow f.seq next = false) ∧
          (busy = false → (d.port p).stopQ = (c.port p).stopQ.filter fun f => !(f.sent && seqBelow f.seq next)))) ∧
      (Runs (.ackRx p true busy next) fun c d => (c.chlUp p = false → d = c) ∧
        (c.chlUp p = true → (d.port p).stopQ = (c.port p).stopQ ∧
          (∀ f ∈ (d.port p).ctlQ, f.sent = true → seqBelow f.seq next = false) ∧
          (∀ f ∈ (c.port p).ctlQ, f.sent = true → seqBelow f.seq next = true → ∀ n, f.slot = some n → n < 16 →
            d.slotState p n = 3 ∧ d.rd (F.CHL_INT_STATUS_TX_DONE p) = 1) ∧
          RegsOnly c { d with chl := c.chl } [F.CHL_TXSTAT_SLOT_STATE p, F.CHL_INT_STATUS_TX_DONE p]))) ∧
    (∀ ctl : Bool, Runs (.retransmit p ctl) fun c d =>
      let l := (if ctl = true then (c.port p).ctlQ else (c.port p).stopQ).filter fun f => f.sent
      let worn := ∃ f ∈ l, c.rd (F.CHL_CFG_RETX_MAX p) ≤ f.tries
      (c.chlUp p = false ∨ l = [] → d = c) ∧
      (c.chlUp p = true → l ≠ [] → worn → LinkLost p 3 c d) ∧
      (c.chlUp p = true → l ≠ [] → ¬ worn → d.rd (F.CHL_ERR_RETX p) = satU 16 (c.rd (F.CHL_ERR_RETX p) + l.length) ∧
        Keeps c d [F.CHL_ERR_RETX p] ∧ d = { c with regs := d.regs, chl := d.chl })) ∧
    (∀ (n : Nat) (blocks : List Nat), Runs (.messageRx p n blocks) fun c d =>
      let next := SMap.get 0 (c.port p).rxSeq 1
      (c.chlUp p = false → d = c) ∧
      (c.chlUp p = true → n % 65536 ≠ next → d = { c with chl := d.chl } ∧
        (d.port p).acks = (c.port p).acks ++ if seqBelow n next then [(1, false, next)] else []) ∧
      (c.chlUp p = true → n % 65536 = next → 16 ≤ c.rd (F.CHL_RXQ_COUNT p) → d = { c with chl := d.chl } ∧
        (d.port p).acks = (c.port p).acks ++ [(1, true, next)] ∧ (d.port p).rxSeq = (c.port p).rxSeq) ∧
      (c.chlUp p = true → n % 65536 = next → c.rd (F.CHL_RXQ_COUNT p) < 16 →
        d.rd (F.CHL_RXQ_COUNT p) = c.rd (F.CHL_RXQ_COUNT p) + 1 ∧ d.rd (F.CHL_RXQ_HEAD p) = c.rd (F.CHL_RXQ_HEAD p) ∧
        d.rd (F.CHL_INT_STATUS_RX_MSG p) = 1 ∧ SMap.get 0 (d.port p).rxSeq 1 = (next + 1) % 65536 ∧
        (d.port p).acks = (c.port p).acks ++ [(1, false, (next + 1) % 65536)] ∧
        (∀ i, i < 32 → i < blocks.length → d.rd (F.CHL_RXBUF_DATA p (32 * ((c.rd (F.CHL_RXQ_HEAD p) + c.rd (F.CHL_RXQ_COUNT p)) % 16) + i)) =
          blocks.getD i 0 % 2 ^ 64) ∧
        d = { c with regs := d.regs, chl := d.chl })) ∧
    (∀ (n : Nat) (words : List Nat), Runs (.resumeRx p n words) fun c d =>
      let m := (List.range 20).flatMap fun w => leBytes 8 (words.getD w 0)
      let f := msgNum m 4 1
      let fresh := msgNum m 8 8 ∉ SMap.get [] c.prt.accepted f
      let code := if msgNum m 2 1 = 2 then c.verdict m f (c.keySlot f) false else 2
      let next := SMap.get 0 (c.port p).rxSeq 1
      (c.chlUp p = false → d = c) ∧
      (c.chlUp p = true → n % 65536 ≠ next ∨ 16 ≤ c.rd (F.CHL_RXQ_COUNT p) → d = { c with chl := d.chl }) ∧
      (c.chlUp p = true → n % 65536 = next → c.rd (F.CHL_RXQ_COUNT p) < 16 →
        d.rd (F.CHL_RXQ_COUNT p) = c.rd (F.CHL_RXQ_COUNT p) + 1 ∧ d.rd (F.CHL_INT_STATUS_RX_MSG p) = 1 ∧
        (fresh → (d.port (other p)).ctlQ = (c.port (other p)).ctlQ ++ [{ cls := 1, kind := 1, slot := none, blocks := words }]) ∧
        (¬ fresh → d.port (other p) = c.port (other p) ∧ ∀ j, j < 9 → d.stopped j = c.stopped j) ∧
        (fresh → f ≤ 8 → d.rd (F.PRT_CMD_STATUS_RESULT f) = code % 16) ∧
        (fresh → f ≤ 8 → code = 1 → d.stopped f = false ∧ msgNum m 8 8 ∈ SMap.get [] d.prt.accepted f ∧
          d.rd (F.PRT_CTR_COUNTER f) = max (msgNum m 8 8) (c.rd (F.PRT_CTR_COUNTER f)) % 2 ^ 64) ∧
        (fresh → 8 < f ∨ code ≠ 1 → ∀ j, j < 9 → d.stopped j = c.stopped j ∧
          d.rd (F.PRT_CTR_COUNTER j) = c.rd (F.PRT_CTR_COUNTER j)))) ∧
    (∀ (n kind : Nat) (f : Fin 16) (ctr dev : Nat) (hash : List Nat), Runs (.stopFrameRx p n kind f ctr dev hash) fun c d =>
      let next := SMap.get 0 (c.port p).rxSeq 0
      let here := c.chlUp p = true ∧ n % 65536 = next
      let own := dev % 2 ^ 64 = c.rd F.PRT_DEVID_DEVICE_ID
      (c.chlUp p = false → d = c) ∧
      (c.chlUp p = true → n % 65536 ≠ next → d = { c with chl := d.chl } ∧ d.port (other p) = c.port (other p)) ∧
      (here → (d.port p).acks = (c.port p).acks ++ [(0, false, (next + 1) % 65536)]) ∧
      (here → own → d.rd (F.CHL_INT_STATUS_LOOP p) = 1 ∧ Recorded c d (424 + p) 5 ∧ d.port (other p) = c.port (other p)) ∧
      (here → ¬ own → kind = 1 → f.val ≤ 8 → ctr % 2 ^ 64 ∉ SMap.get [] c.prt.accepted f →
        d.stopped f = true ∧ ctr % 2 ^ 64 ∈ SMap.get [] d.prt.accepted f ∧
        d.rd (F.PRT_CTR_COUNTER f) = max (ctr % 2 ^ 64) (c.rd (F.PRT_CTR_COUNTER f)) % 2 ^ 64 ∧ d.rd (F.CHL_INT_STATUS_STOP_RX p) = 1 ∧
        (d.port (other p)).stopQ = (c.port (other p)).stopQ ++ [{ cls := 0, blocks := stopBlocks 1 f (ctr % 2 ^ 64) (dev % 2 ^ 64) hash }]) ∧
      (here → ¬ own → kind = 1 → f.val ≤ 8 → ctr % 2 ^ 64 ∈ SMap.get [] c.prt.accepted f → d = { c with chl := d.chl } ∧
        d.port (other p) = c.port (other p)) ∧
      (here → ¬ own → kind = 2 → d.rd F.CHL_SYS_LINK_STOP = 1 ∧ d.rd (F.CHL_INT_STATUS_STOP_RX p) = 1 ∧
        (∀ k, k < 128 → c.isMember k = false → d.on (F.SQ_STATUS_MS_STOP k) = true) ∧
        (d.port (other p)).stopQ.length = (c.port (other p)).stopQ.length + 1))

/-- R393–R403: the link stop's release, the timing exchange, and sample streams that leave, arrive and go on.

The model's choices in it: CONFLICT counts at the outgoing port (log 46), and how far behind the newest sample a frame's 64 lie (log
98).

Completes with its own effect: timingRx, delayReqRx, delayRespRx, samplesRx, timingTx, delayReqTx, samplesTx, lstopAck, linkStopRelease. -/
def Obligations.LinkTimingAndSamples : Prop :=
  (∀ q : Requester, Writes (.lstopAck q) q 0x1C00008 fun c d =>
    d = if q.isPf = true ∧ c.on F.CHL_SYS_LINK_STOP = true then { c with chl := { c.chl with stopAck := some (c.air.tempi + 1) } } else c) ∧
  (Runs .linkStopRelease fun c d =>
    let due := c.air.onB = true ∧ (∃ t, c.chl.stopAck = some t ∧ t ≤ c.air.tempi) ∧ c.on F.CHL_SYS_LINK_STOP = true
    (¬ due → d = c) ∧
    (due → d.rd F.CHL_SYS_LINK_STOP = 0 ∧ d.chl = { c.chl with stopAck := none } ∧
      ∀ n, n < 128 → c.isMember n = false → d.stopCovers n = false → d.rd (F.SQ_STATUS_MS_STOP n) = 0)) ∧
  (∀ p : Fin 2,
    (Runs (.timingTx p) fun c d =>
      let slave := c.rd F.AIR_CTRL_SOURCE = 3
      let due := c.chlUp p = true ∧ c.now % 19660800 = 0 ∧ (slave → c.rd F.AIR_CTRL_CHL_PORT ≠ p)
      (¬ due → d = c) ∧
      (due → ∃ dev, (d.port p).ctlQ = (c.port p).ctlQ ++ [{ cls := 1, kind := 2, slot := none, blocks := [c.effState + if slave then 16 * c.rd F.CHL_SYS_HOPS else 0, dev] }] ∧
        (¬ slave → dev = c.rd F.PRT_DEVID_DEVICE_ID) ∧ (∀ m, slave → c.chl.master = some m → dev = m) ∧ d.regs = c.regs)) ∧
    (Runs (.delayReqTx p) fun c d =>
      let due := c.chlUp p = true ∧ c.now % 19660800 = 9830400 ∧ c.rd F.AIR_CTRL_SOURCE = 3 ∧ c.rd F.AIR_CTRL_CHL_PORT = p
      (¬ due → d = c) ∧
      (due → (d.port p).ctlQ = (c.port p).ctlQ ++ [{ cls := 1, kind := 3, slot := none, blocks := [0] }] ∧ d = { c with chl := d.chl })) ∧
    (∀ t4 : Nat,
      (Runs (.delayReqRx p t4) fun c d => (c.chlUp p = false → d = c) ∧
        (c.chlUp p = true → (d.port p).ctlQ = (c.port p).ctlQ ++ [{ cls := 1, kind := 4, slot := none, blocks := [t4] }] ∧ d = { c with chl := d.chl })) ∧
      (Runs (.delayRespRx p t4) fun c d =>
        ((c.port p).t3 = none ∨ c.chlUp p = false → d = c) ∧
        (∀ t, (c.port p).t3 = some t → c.chlUp p = true →
          d.port p = { c.port p with t3 := none, exch := some ((t4 : Int) - t, c.air.mono) } ∧ d = { c with chl := d.chl }))) ∧
    (∀ (t1 : Nat) (st : Fin 4) (hops : Fin 16) (dev t2 : Nat), Runs (.timingRx p t1 st hops dev t2) fun c d =>
      (c.chlUp p = false → d = c) ∧
      (c.chlUp p = true → c.rd F.AIR_CTRL_SOURCE ≠ 3 → d.rd (F.CHL_STATUS_MASTER_CONFLICT p) = 1 ∧
        d.rd (F.CHL_INT_STATUS_MASTER_CONFLICT p) = 1 ∧ RegsOnly c d [F.CHL_STATUS_MASTER_CONFLICT p, F.CHL_INT_STATUS_MASTER_CONFLICT p]) ∧
      (c.chlUp p = true → c.rd F.AIR_CTRL_SOURCE = 3 → c.rd F.AIR_CTRL_CHL_PORT ≠ p → d = c) ∧
      (c.chlUp p = true → c.rd F.AIR_CTRL_SOURCE = 3 → c.rd F.AIR_CTRL_CHL_PORT = p →
        (7 ≤ hops.val → d.rd F.CHL_SYS_HOPS = 15 ∧ RegsOnly c d [F.CHL_SYS_HOPS]) ∧
        (hops.val < 7 → d.rd F.CHL_SYS_HOPS = hops.val + 1 ∧ d.chl.master = some (dev % 2 ^ 64) ∧ d.now = c.now ∧
          (∀ x m, (c.port p).exch = some (x, m) → ((t2 : Int) - t1 + x) % 2 = 0 →
            let delay := ((t2 : Int) - t1 + x) / 2
            d.rd (F.CHL_TIME_PATH p) = ofS 32 delay ∧
            d.rdS (F.CHL_TIME_ERR p) = satS 32 ((t2 : Int) - (t1 + delay + c.rdS (F.CHL_ASYM_ASYM p)))) ∧
          ((∀ x m, (c.port p).exch = some (x, m) → 196608000 < c.air.mono - m) → d.rd F.AIR_STATUS_LAST_ERR = c.rd F.AIR_STATUS_LAST_ERR)))) ∧
    (∀ (n : Nat) (stream : Fin 256) (ul : Bool) (lane : Fin 8) (bw stamp : Nat) (words : List Nat),
      Runs (.samplesRx p n stream ul lane bw stamp words) fun c d =>
        let gap := (n % 65536 + 65536 - SMap.get 0 (c.port p).rxSeq 2) % 65536
        (c.chlUp p = false → d = c) ∧
        (c.chlUp p = true → SMap.get 0 (d.port p).rxSeq 2 = (n + 1) % 65536 ∧
          (gap ≠ 0 → d.rd (F.CHL_SMP_MISSING p) = satU 16 (c.rd (F.CHL_SMP_MISSING p) + gap) ∧ d.rd (F.CHL_INT_STATUS_SMP_LOSS p) = 1) ∧
          (gap = 0 → d.rd (F.CHL_SMP_MISSING p) = c.rd (F.CHL_SMP_MISSING p)) ∧
          (c.on (F.CHL_RXSTR_INJECT p stream) = false → d.chl.play = c.chl.play) ∧
          (c.on (F.CHL_RXSTR_FWD p stream) = false → (d.port (other p)).smpQ = (c.port (other p)).smpQ) ∧
          (c.on (F.CHL_RXSTR_FWD p stream) = true → c.ownStream (other p) stream = true →
            (d.port (other p)).smpQ = (c.port (other p)).smpQ ∧ d.rd (F.CHL_INT_STATUS_CONFLICT (other p)) = 1) ∧
          (c.on (F.CHL_RXSTR_FWD p stream) = true → c.ownStream (other p) stream = false → c.chlUp (other p) = true →
            (c.port (other p)).smpQ.length < 64 → (d.port (other p)).smpQ = (c.port (other p)).smpQ ++
              [{ cls := 2, kind := lane, stream := stream, dir := b2n ul, bw := bw % 4096, blocks := stamp % 2 ^ 64 :: words }]) ∧
          KeepsOff c d inChl ∧ d = { c with regs := d.regs, chl := d.chl }))) ∧
  (∀ (n : Fin 128) (lane : Fin 8) (stamp behind : Nat), Runs (.samplesTx n lane stamp behind) fun c d =>
    let k := c.dest n lane
    let samples := ((SMap.get {} (c.sq n).out lane).samples.drop behind).take 64
    let off := c.acts n = false ∨ c.sqState n = 0 ∨ k < 2
    (off ∨ c.chlUp (k - 2) = false → d = c) ∧
    (¬ off → c.chlUp (k - 2) = true →
      (64 ≤ (c.port (k - 2)).smpQ.length → d.rd (F.CHL_SMP_SMP_DROP (k - 2)) = satU 16 (c.rd (F.CHL_SMP_SMP_DROP (k - 2)) + 1) ∧ d.chl = c.chl) ∧
      ((c.port (k - 2)).smpQ.length < 64 → d = { c with chl := d.chl } ∧
        (d.port (k - 2)).smpQ = (c.port (k - 2)).smpQ ++ [
          { cls := 2, kind := lane, stream := c.stream n, dir := b2n (isUl n), bw := c.slotBw n
            blocks := stamp % 2 ^ 64 :: packFrame (if bit (c.laneEn n) lane = true then samples.reverse else []) }])))

/-! ## Security, power and reset (R408–R433) -/

/-- R414–R416: a slot command is judged by the first test that fails; an accepted one loads, clears or locks its slot and no other.

Completes with its own effect: keyLoad, keyClear, keyLock, selftestDone. -/
def Obligations.KeySlots : Prop :=
  (∀ (q : Requester) (k : Fin 16),
    let judged := fun (op : Nat) (i : Instr) (P : Chip → Chip → Prop) => Writes i q 0x1D00008 fun c d =>
      let r := c.keyJudge k op
      d.rd F.SEC_KEY_STATUS_RESULT = r ∧ d.rd F.SEC_KEY_STATUS_SLOT = k ∧ d.rd F.SEC_KEY_STATUS_OP = op ∧
      let locked := (op = 1 ∨ op = 2) ∧ c.rdBit F.SEC_KEY_VALID_LOCKED k = true
      let stopped := (op = 1 ∨ op = 2) ∧ c.stopped k = true
      let zero := op = 1 ∧ ∀ j, j < 4 → c.rd (F.SEC_KEY_STAGE_HASH j) = 0
      (8 < k.val → r = 2) ∧ (k.val ≤ 8 → locked → r = 3) ∧ (k.val ≤ 8 → ¬ locked → stopped → r = 8) ∧
      (k.val ≤ 8 → ¬ locked → ¬ stopped → zero → r = 4) ∧ (k.val ≤ 8 → ¬ locked → ¬ stopped → ¬ zero → r = 1) ∧
      (r ≠ 1 → RegsOnly c d [F.SEC_KEY_STATUS_RESULT, F.SEC_KEY_STATUS_SLOT, F.SEC_KEY_STATUS_OP]) ∧
      (r = 1 → P c d ∧ d = { c with regs := d.regs } ∧
        (∀ f j, f < 9 → j < 4 → f ≠ k.val → d.rd (F.SEC_KEY_HASH f j) = c.rd (F.SEC_KEY_HASH f j) ∧
          d.rdBit F.SEC_KEY_VALID_VALID f = c.rdBit F.SEC_KEY_VALID_VALID f ∧
          d.rdBit F.SEC_KEY_VALID_LOCKED f = c.rdBit F.SEC_KEY_VALID_LOCKED f))
    (∀ (h : Half) (v : Nat), h ≠ .hi → bits v 8 2 = 0 → Writes (.registerWrite q 0x1D00008 h v) q 0x1D00008 fun c d =>
      d.rd F.SEC_KEY_STATUS_RESULT = 2 ∧ d.rd F.SEC_KEY_STATUS_SLOT = bits v 0 4 ∧ d.rd F.SEC_KEY_STATUS_OP = 0 ∧
      RegsOnly c d [F.SEC_KEY_STATUS_RESULT, F.SEC_KEY_STATUS_SLOT, F.SEC_KEY_STATUS_OP]) ∧
    judged 1 (.keyLoad q k) (fun c d => d.rdBit F.SEC_KEY_VALID_VALID k = true ∧
      ∀ j, j < 4 → d.rd (F.SEC_KEY_HASH k j) = c.rd (F.SEC_KEY_STAGE_HASH j) % 2 ^ 64) ∧
    judged 2 (.keyClear q k) (fun _ d => d.rdBit F.SEC_KEY_VALID_VALID k = false ∧ ∀ j, j < 4 → d.rd (F.SEC_KEY_HASH k j) = 0) ∧
    judged 3 (.keyLock q k) (fun c d => d.rdBit F.SEC_KEY_VALID_LOCKED k = true ∧
      ∀ j, j < 4 → d.rd (F.SEC_KEY_HASH k j) = c.rd (F.SEC_KEY_HASH k j))) ∧
  (∀ fail : Bool, Runs (.selftestDone fail) fun c d =>
    (c.on F.SEC_STATUS_SELFTEST_DONE = true → d = c) ∧
    (c.on F.SEC_STATUS_SELFTEST_DONE = false → d.rd F.SEC_STATUS_SELFTEST_DONE = 1 ∧ d.rd F.SEC_STATUS_KAT_FAIL = b2n fail ∧
      (fail = true → Recorded c d 444 1) ∧ (fail = false → RegsOnly c d [F.SEC_STATUS_SELFTEST_DONE, F.SEC_STATUS_KAT_FAIL])))

/-- R417, R418: the instruction register of the test access port, and what the data register that it selects captures; an instruction that
drives the pins stops every square, until a boundary after another one. HIGHZ releases the scanned balls; EXTEST and CLAMP never drive
both switches of a pair; no instruction touches another ball.

The model's choices in it: what the cells capture and where a ball's cell stands (log 48), and the balls that no rule speaks of (log
134).

Completes with its own effect: extest, samplePreload, idcode, clamp, highz, bypass, jtagStopRelease. -/
def Obligations.TestAccessPort : Prop :=
  let loads := fun (i : Instr) (op : Nat) (stops : Bool) => RunsAlways i fun c d =>
    d.tap.ir = op ∧ (stops = false ∨ c.inReset = true → d = { c with tap := d.tap, freeCtr := d.freeCtr }) ∧
    (op = 2 → d.tap.dr = .idcode (c.rd F.SEC_IDCODE_IDCODE)) ∧ (2 < op → d.tap.dr = .bypass) ∧
    (op < 2 → ∃ x, d.tap.dr = .boundary x) ∧
    (c.tap.stops = true → d.tap.offAt = c.air.tempi + 1) ∧ (c.tap.stops = false → d.tap.offAt = c.tap.offAt) ∧
    (stops = true → c.inReset = false → d.rd F.SEC_STATUS_JTAG_STOP = 1 ∧
      ∀ n, n < 128 → c.isMember n = false → d.on (F.SQ_STATUS_MS_STOP n) = true)
  loads .extest 0 true ∧ loads .idcode 2 false ∧ loads .clamp 4 true ∧ loads .highz 5 true ∧
  (∀ op : Fin 256, loads (.bypass op) (if op.val ∈ [0, 1, 2, 4, 5] then op else 0xFF) (op.val ∈ [0, 4, 5])) ∧
  (∀ h l o : Nat, loads (.samplePreload h l o) 1 false ∧ RunsAlways (.samplePreload h l o) fun _ d =>
    d.tap.pwmH = h % 2 ^ 16 ∧ d.tap.pwmL = l % 2 ^ 16 ∧ d.tap.others = o ∧ Nat.land d.tap.pwm.1 d.tap.pwm.2 = 0) ∧
  (Runs .jtagStopRelease fun c d =>
    let due := c.air.onB = true ∧ c.tap.offAt ≤ c.air.tempi ∧ c.tap.stops = false ∧ c.on F.SEC_STATUS_JTAG_STOP = true
    (¬ due → d = c) ∧
    (due → d.rd F.SEC_STATUS_JTAG_STOP = 0 ∧
      ∀ n, n < 128 → c.isMember n = false → d.stopCovers n = false → d.rd (F.SQ_STATUS_MS_STOP n) = 0)) ∧
  (∀ (c : Chip) (t : Nat),
    (∀ b : Ball, c.railGood b.rail = true → b.scanned = true → c.tap.ir = 5 → c.pad t b = b.loose) ∧
    (∀ i : Fin 16, c.tap.ir = 0 ∨ c.tap.ir = 4 → ¬ (c.pad t (.pwmH i) = .high ∧ c.pad t (.pwmL i) = .high)) ∧
    (∀ (b : Ball) (x : Tap), b.scanned = false → Chip.pad { c with tap := x } t b = c.pad t b))

/-- R314, R420–R426, R431, R442: rails, the four causes of a reset, and the release that ends it.

R441: the balls in a reset of the board die, and those without their rail.

The model's choices in it: VIO_SEL as an operand (log 4), the latest warm cause, and RET_VALID (log 49), levels that last over a reset
(log 50), and a failure of VDD_SER (log 56).

Completes with its own effect: railFail, railGood, coldReset, perstAssert, pwrRstWarm, resetRelease, vbatLow, retentionFlagClear. -/
def Obligations.PowerAndReset : Prop :=
  (RunsAlways .coldReset (HeldReset 0)) ∧
  (RunsAlways .perstAssert fun c d => ∃ e, HeldReset 1 c e ∧ d = e.wr F.PWR_STATUS_PERST_LEVEL 0) ∧
  (∀ (q : Requester) (key : Nat), Writes (.pwrRstWarm q key) q 0x1E00008 fun c d =>
    (key = 0xA5 → HeldReset 2 c d) ∧ (key ≠ 0xA5 → d = c)) ∧
  (∀ (auto vio : Bool), RunsAlways (.resetRelease auto vio) fun c d =>
    let blocked := fun k : Nat => c.pwr.bdHot = true ∨ c.railGood .vddBd = false ∨ c.railGood .vddIo = false ∨ (k = 0 ∧ c.railGood .vddSer = false)
    (c.pwr.kind = none → d = c) ∧
    (∀ k, c.pwr.kind = some k → (blocked k → d = c) ∧
      (¬ blocked k → d.inReset = false ∧ d.rd F.PWR_STATUS_LAST_RESET = k % 4 ∧ d.rd F.PWR_STATUS_PERST_LEVEL = 1 ∧
        d.now = d.rd F.AIR_EPOCH_EPOCH * sfnCycle % 2 ^ 64 ∧ d.rd F.PRT_STATUS_PIN_LEVEL = b2n c.prt.pinHigh ∧
        (k ≠ 0 → d.rd F.PWR_COUNT_WARM = (c.rd F.PWR_COUNT_WARM + 1) % 2 ^ 16 ∧ d.rd F.PWR_COUNT_COLD = c.rd F.PWR_COUNT_COLD) ∧
        d.pwr.vioRose = false ∧ (k = 0 → d.pwr.retFlag = true ∧
          (c.pwr.vioRose = true → d.rd F.PWR_STATUS_VIO_3V3 = b2n vio) ∧
          (c.pwr.vioRose = false → c.pwr.retFlag = true → d.rd F.PWR_STATUS_VIO_3V3 = c.rd F.PWR_STATUS_VIO_3V3) ∧
          (c.pwr.retFlag = true → d.rd F.PWR_STATUS_RET_VALID = 1 ∧ d.rd F.PWR_COUNT_COLD = (c.rd F.PWR_COUNT_COLD + 1) % 2 ^ 16) ∧
          (c.pwr.retFlag = false → d.rd F.PWR_STATUS_RET_VALID = 0 ∧ d.rd F.PWR_COUNT_RET_LOST = 1 ∧ d.rd F.PWR_COUNT_COLD = 1 ∧
            d.rd F.PRT_STATUS_LATCH_LOST = 1 ∧ d.rd F.PWR_INT_STATUS_RET_LOST = 1)) ∧
        (auto = true → c.rd F.TOP_IMG_STATUS_STATE = 0 → c.img.erasing = false → d.rd F.TOP_IMG_STATUS_STATE = 1 ∧ d.rd F.TOP_IMG_CTRL_SOURCE = 1)))) ∧
  (∀ r : Rail,
    (RunsAlways (.railFail r) fun c d =>
      (c.railGood r = false → d = c) ∧
      (c.railGood r = true → d.railGood r = false ∧
        (r = .vddBd ∨ r = .vddIo → d.pwr.kind = some 0 ∧ d.inReset = true ∧ d.tap = {} ∧
          (∀ f : Fld, (∀ g ∈ aonFlds, f.key ≠ g.key) → d.rd f = f.rst)) ∧
        (r = .vddZm → MeterStopped false { c with railBad := r :: c.railBad } d) ∧
        (r = .vbat → d.zmd = { c.zmd with
          vbatLost := true, mem := { c.zmd.mem with absent := d.zmd.mem.absent, absentFrom := d.zmd.mem.absentFrom } }) ∧
        (r ≠ .vddBd → r ≠ .vddIo → r ≠ .vddZm → c.inReset = true → d = { c with railBad := r :: c.railBad, zmd := d.zmd } ∧
          (r ≠ .vbat → d.zmd = c.zmd)) ∧
        (r = .vbat → c.inReset = false → d.rd F.PWR_STATUS_VBAT_OK = 0 ∧ d.rd F.PWR_INT_STATUS_VBAT_LOW = 1) ∧
        (r = .vddSer → c.inReset = false → d.rd F.PWR_STATUS_SER_GOOD = 0 ∧ d.rd F.PWR_INT_STATUS_RAIL_FAIL = 1 ∧
          (∀ p, p < 2 → d.chlUp p = false) ∧ d.reachable .pf = false) ∧
        (∀ e : Fin 2, r = .vddCnv e ∨ r = .vddaCnv e → c.inReset = false → d.rd (cnvGood e) = 0 ∧ d.rd (F.CNV_STATUS_STATE e) = 0 ∧
          (d.br e).st = 0 ∧ d.rd F.PWR_INT_STATUS_RAIL_FAIL = 1))) ∧
    (RunsAlways (.railGood r) fun c d =>
      (c.railGood r = true → d = c) ∧
      (c.railGood r = false → d.railGood r = true ∧ (∀ x, x ≠ r → d.railGood x = c.railGood x) ∧
        (c.inReset = true ∨ r = .vddZm → d = { c with railBad := d.railBad, pwr := { c.pwr with vioRose := c.pwr.vioRose || decide (r = .vddIo) } }) ∧
        (r = .vddIo → d.pwr.vioRose = true) ∧
        (c.inReset = false → r ≠ .vddZm → d.rd F.PWR_STATUS_VBAT_OK = b2n (d.railGood .vbat) ∧ d.rd F.PWR_STATUS_SER_GOOD = b2n (d.railGood .vddSer) ∧
          (r ≠ .vbat → r ≠ .vddBd → r ≠ .vddIo → d.rd F.PWR_INT_STATUS_RAIL_GOOD = 1))))) ∧
  (RunsAlways .vbatLow fun c d =>
    (c.railGood .vbat = false → d = c) ∧
    (c.railGood .vbat = true → d.railGood .vbat = false ∧
      (c.inReset = false → d.rd F.PWR_STATUS_VBAT_OK = 0 ∧ d.rd F.PWR_INT_STATUS_VBAT_LOW = 1))) ∧
  (RunsAlways .retentionFlagClear fun c d =>
    (c.railGood .vddIo = true ∨ c.railGood .vbat = true → d = c) ∧
    (c.railGood .vddIo = false → c.railGood .vbat = false → d = { c with pwr := { c.pwr with retFlag := false } })) ∧
  (∀ (c : Chip) (t : Nat),
    (∀ b : Ball, c.railGood b.rail = false → c.pad t b = b.loose) ∧
    (c.inReset = true → c.tap.ir = 2 →
      (∀ i : Fin 16, c.railGood (Ball.tx i).rail = true → c.pad t (.tx i) = .zeroCode) ∧
      (c.railGood .vddIo = true → c.pad t .alertN = .undriven ∧ c.pad t .ppsOut = .low ∧ c.pad t .syncOut = .low ∧
        c.pad t .xspiClk = .low ∧ c.pad t .xspiCsN = .high ∧ c.pad t .hkVref = .low ∧
        ∀ i : Fin 16, c.pad t (.pwmH i) = .low ∧ c.pad t (.pwmL i) = .low)))

/-- R332, R427, R428, R430: deep sleep is refused with the code of the first condition that fails, and entered when none does; what wakes the
package, and what the wake records.

The model's choices in it: the order of waiting interrupts is lost at the entry: waitQ and timedOut are emptied (log 55).

Completes with its own effect: sleepEnter, wake. -/
def Obligations.DeepSleep : Prop :=
  (∀ q : Requester, Writes (.sleepEnter q) q 0x1E00018 fun c d =>
    (c.sleepCode ≠ 0 → d.rd F.PWR_SLEEP_REFUSED = c.sleepCode ∧ d.rd F.PWR_INT_STATUS_SLEEP_REFUSED = 1 ∧
      RegsOnly c d [F.PWR_SLEEP_REFUSED, F.PWR_INT_STATUS_SLEEP_REFUSED]) ∧
    (c.sleepCode = 0 → d.asleep = true ∧ d.running = false ∧ Keeps c d [F.PWR_SLEEP_STATE] ∧
      d.int = { c.int with waitQ := [], timedOut := [] } ∧ d.hk = { c.hk with slept := d.hk.slept } ∧ d.hk.slept.isSome = true ∧
      d = { c with regs := d.regs, int := d.int, harts := d.harts, hk := d.hk }) ∧
    let squares := ∃ n, n < 128 ∧ c.sqState n ≠ 0
    let converter := ∃ e, e < 2 ∧ (c.rd (F.CNV_STATUS_STATE e) ≠ 0 ∨ c.on (F.CNV_CTRL_POWER_EN e) = true)
    let pwm := c.rd F.PSU_EN_EN ≠ 0
    let capture := ∃ e, e < 16 ∧ (c.eng e).cur.isSome = true
    let plan := ∃ x, x < 10 ∧ (c.rd (F.GPL_STATUS_STATE x) = 2 ∨ c.rd (F.GPL_STATUS_STATE x) = 3)
    let link := ∃ p, p < 2 ∧ c.rd (F.CHL_STATUS_STATE p) ≠ 0
    let keystore := c.prt.pendBox ≠ [] ∨ c.prt.verifying.isSome = true
    let image := c.rd F.TOP_IMG_STATUS_STATE = 1 ∨ c.img.resolving = true ∨ c.on F.TOP_IMG_STATUS_HASH_BUSY = true
    (squares → c.sleepCode = 1) ∧ (¬ squares → converter → c.sleepCode = 2) ∧ (¬ squares → ¬ converter → pwm → c.sleepCode = 3) ∧
    (¬ squares → ¬ converter → ¬ pwm → capture → c.sleepCode = 4) ∧
    (¬ squares → ¬ converter → ¬ pwm → ¬ capture → plan → c.sleepCode = 5) ∧
    (¬ squares → ¬ converter → ¬ pwm → ¬ capture → ¬ plan → link → c.sleepCode = 6) ∧
    (¬ squares → ¬ converter → ¬ pwm → ¬ capture → ¬ plan → ¬ link → keystore → c.sleepCode = 7) ∧
    (¬ squares → ¬ converter → ¬ pwm → ¬ capture → ¬ plan → ¬ link → ¬ keystore → image → c.sleepCode = 8) ∧
    (¬ squares → ¬ converter → ¬ pwm → ¬ capture → ¬ plan → ¬ link → ¬ keystore → ¬ image → c.sleepCode = 0)) ∧
  (∀ (tlp : Bool) (n : Nat), RunsAwakeOrAsleep (.wake tlp n) fun c d =>
    let wakes := (tlp = true ∧ c.reachable .pf = true) ∨ (tlp = false ∧ (c.intInput n = true ∨ edgeInput n = true) ∧ c.on (F.INT_SRC_WAKE n) = true)
    (c.asleep = false → d = c) ∧ (c.asleep = true → ¬ wakes → d = c) ∧
    (c.asleep = true → wakes → d.asleep = false ∧ d.rd F.PWR_WAKE_CAUSE = (if tlp = true then 2 else 1) ∧
      d.rd F.PWR_WAKE_NUM = (if tlp = true then 0 else n) ∧ d.rd F.PWR_INT_STATUS_WAKE = 1 ∧ d.rd F.INT_STATUS_RESTORED = 1 ∧
      d.int.active = c.int.active ∧ (tlp = true → d.int.pend = c.int.pend)))

/-- R9, R450: after reset every register field holds the value of its table's reset column, nothing is listed in memory, and no command
waits; AT and EPOCH are 0, every square and both converter dies are OFF, and nothing is routed.

The model's choices in it: fields without a stated value are 0 (log 3), IMG_AUTO and VIO_SEL were low (log 4), TEST_LOCK is 1 (log 6),
the moment of the first release (log 11), and MASTER and HOPS (log 25). -/
def Obligations.ResetState : Prop :=
  (∀ f : Fld, State.reset.chip.rd f = f.rst) ∧ State.reset.mem = [] ∧ State.reset.pending = [] ∧ State.reset.chip.now = 0 ∧
  (∀ n, n < 128 → State.reset.chip.sqState n = 0 ∧ State.reset.chip.routed n = false) ∧
  (∀ e, e < 2 → State.reset.chip.rd (F.CNV_STATUS_STATE e) = 0 ∧ State.reset.chip.supplyOk e = true) ∧
  State.reset.chip.inReset = false ∧ State.reset.chip.faultNLow = true
end

