-- ==== Sys2Proof/Laws/Map.lean ====
section
/-!
SUPPORT. Laws of sparse maps: read after write, writes elsewhere, and that writes keep the canonical form.
-/

namespace Sys2Proof.SMap

variable {α : Type}

/-- What was inserted is read. -/
theorem get_insert_same (d : α) (m : SMap α) (k : Nat) (v : α) : SMap.get d (SMap.insert k v m) k = v := by
  induction m with
  | nil => simp [SMap.insert, SMap.get]
  | cons p m ih =>
    unfold SMap.insert
    split
    · simp [SMap.get]
    · split
      · simp [SMap.get]
      · rename_i h; simp [SMap.get, h, ih]

/-- An insertion leaves other keys. -/
theorem get_insert_ne (d : α) (m : SMap α) {k j : Nat} (v : α) (h : j ≠ k) :
    SMap.get d (SMap.insert k v m) j = SMap.get d m j := by
  induction m with
  | nil => simp [SMap.insert, SMap.get, h.symm]
  | cons p m ih =>
    unfold SMap.insert
    split
    · simp [SMap.get, h.symm]
    · split
      · rename_i h1; subst h1; simp [SMap.get, h.symm]
      · simp [SMap.get, ih]

/-- An erased key reads as the default. -/
theorem get_erase_same (d : α) (m : SMap α) (k : Nat) : SMap.get d (SMap.erase k m) k = d := by
  induction m with
  | nil => rfl
  | cons p m ih =>
    by_cases h : p.1 = k
    · simpa [SMap.erase, h] using ih
    · simpa [SMap.erase, SMap.get, h] using ih

/-- An erasure leaves other keys. -/
theorem get_erase_ne (d : α) (m : SMap α) {k j : Nat} (h : j ≠ k) : SMap.get d (SMap.erase k m) j = SMap.get d m j := by
  induction m with
  | nil => rfl
  | cons p m ih =>
    by_cases hk : p.1 = k
    · have : p.1 ≠ j := fun e => h (e ▸ hk)
      simpa [SMap.erase, SMap.get, hk, this, h.symm] using ih
    · simp only [SMap.erase, SMap.get, hk, ne_eq, not_false_eq_true, decide_true, List.filter_cons_of_pos]
      split
      · rfl
      · simpa [SMap.erase] using ih

variable [DecidableEq α]

/-- Read after write. -/
@[simp] theorem get_put_same (d : α) (m : SMap α) (k : Nat) (v : α) : SMap.get d (SMap.put d m k v) k = v := by
  unfold SMap.put
  split
  · rename_i h; rw [get_erase_same, h]
  · exact get_insert_same d m k v

/-- A write leaves other keys. -/
theorem get_put_ne (d e : α) (m : SMap α) {k j : Nat} (v : α) (h : j ≠ k) :
    SMap.get e (SMap.put d m k v) j = SMap.get e m j := by
  unfold SMap.put
  split
  · exact get_erase_ne e m h
  · exact get_insert_ne e m v h

/-- The canonical form of a list with at least one entry, by its parts. -/
theorem wf_cons (d : α) (p : Nat × α) (m : SMap α) :
    SMap.wf d (p :: m) = true ↔ p.2 ≠ d ∧ (∀ q ∈ m.head?, p.1 < q.1) ∧ SMap.wf d m = true := by
  cases m with
  | nil => simp [SMap.wf]
  | cons q m => simp [SMap.wf, and_assoc]

/-- Every later key is larger than the first. -/
theorem lt_of_wf (d : α) {p : Nat × α} {m : SMap α} (h : SMap.wf d (p :: m) = true) : ∀ q ∈ m, p.1 < q.1 := by
  induction m generalizing p with
  | nil => simp
  | cons q m ih =>
    obtain ⟨-, h1, h2⟩ := (wf_cons d p (q :: m)).mp h
    have hq : p.1 < q.1 := h1 q (by simp)
    intro r hr
    rcases List.mem_cons.mp hr with rfl | hr
    · exact hq
    · exact Nat.lt_trans hq (ih h2 r hr)

/-- Insertion keeps the canonical form, and puts in front either the new key or the old first one. -/
theorem wf_insert (d : α) {m : SMap α} (hm : SMap.wf d m = true) (k : Nat) {v : α} (hv : v ≠ d) :
    SMap.wf d (SMap.insert k v m) = true ∧ ∀ q ∈ (SMap.insert k v m).head?, q.1 = k ∨ ∃ p ∈ m.head?, q.1 = p.1 ∧ p.1 < k := by
  induction m with
  | nil => simp [SMap.insert, SMap.wf, hv]
  | cons p m ih =>
    obtain ⟨h0, h1, h2⟩ := (wf_cons d p m).mp hm
    unfold SMap.insert
    split
    · rename_i hk
      exact ⟨(wf_cons d _ _).mpr ⟨hv, by simpa using hk, hm⟩, by simp⟩
    · split
      · rename_i hk
        refine ⟨(wf_cons d _ _).mpr ⟨hv, fun q hq => ?_, h2⟩, by simp⟩
        have := h1 q hq
        simpa [← hk] using this
      · rename_i hk1 hk2
        obtain ⟨i1, i2⟩ := ih h2
        have hp : p.1 < k := by omega
        refine ⟨(wf_cons d _ _).mpr ⟨h0, fun q hq => ?_, i1⟩, by simp [hp]⟩
        rcases i2 q hq with h | ⟨r, hr, h, -⟩
        · simpa [h] using hp
        · simpa [h] using h1 r hr

/-- Filtering keeps the canonical form. -/
theorem wf_filter (d : α) (m : SMap α) (hm : SMap.wf d m = true) (g : Nat × α → Bool) : SMap.wf d (m.filter g) = true := by
  induction m with
  | nil => simpa using hm
  | cons p m ih =>
    obtain ⟨h0, -, h2⟩ := (wf_cons d p m).mp hm
    have hl := lt_of_wf d hm
    by_cases hp : g p
    · rw [List.filter_cons_of_pos hp, wf_cons]
      refine ⟨h0, fun q hq => ?_, ih h2⟩
      have : q ∈ m.filter g := List.mem_of_mem_head? hq
      exact hl q (List.mem_filter.mp this).1
    · rw [List.filter_cons_of_neg hp]
      exact ih h2

/-- A write keeps the canonical form. -/
theorem wf_put (d : α) {m : SMap α} (hm : SMap.wf d m = true) (k : Nat) (v : α) : SMap.wf d (SMap.put d m k v) = true := by
  unfold SMap.put
  split
  · exact wf_filter d m hm _
  · rename_i hv; exact (wf_insert d hm k hv).1

end Sys2Proof.SMap
end

