-- ==== Sys2Proof/Laws/State.lean ====
section
/-!
SUPPORT. What each update of the state leaves alone: one lemma per field and update, and what the register store reads after each.
-/

namespace Sys2Proof.Machine

/-! `wr` changes `regs` alone. -/

@[simp] theorem wr_shadow (c : Chip) (f : Fld) (v : Nat) : (c.wr f v).shadow = c.shadow := rfl
@[simp] theorem wr_claims (c : Chip) (f : Fld) (v : Nat) : (c.wr f v).claims = c.claims := rfl
@[simp] theorem wr_bus (c : Chip) (f : Fld) (v : Nat) : (c.wr f v).bus = c.bus := rfl
@[simp] theorem wr_freeCtr (c : Chip) (f : Fld) (v : Nat) : (c.wr f v).freeCtr = c.freeCtr := rfl
@[simp] theorem wr_flt (c : Chip) (f : Fld) (v : Nat) : (c.wr f v).flt = c.flt := rfl
@[simp] theorem wr_int (c : Chip) (f : Fld) (v : Nat) : (c.wr f v).int = c.int := rfl
@[simp] theorem wr_air (c : Chip) (f : Fld) (v : Nat) : (c.wr f v).air = c.air := rfl
@[simp] theorem wr_img (c : Chip) (f : Fld) (v : Nat) : (c.wr f v).img = c.img := rfl
@[simp] theorem wr_bridges (c : Chip) (f : Fld) (v : Nat) : (c.wr f v).bridges = c.bridges := rfl
@[simp] theorem wr_smp (c : Chip) (f : Fld) (v : Nat) : (c.wr f v).smp = c.smp := rfl
@[simp] theorem wr_adc (c : Chip) (f : Fld) (v : Nat) : (c.wr f v).adc = c.adc := rfl
@[simp] theorem wr_dac (c : Chip) (f : Fld) (v : Nat) : (c.wr f v).dac = c.dac := rfl
@[simp] theorem wr_rxLost (c : Chip) (f : Fld) (v : Nat) : (c.wr f v).rxLost = c.rxLost := rfl
@[simp] theorem wr_comb (c : Chip) (f : Fld) (v : Nat) : (c.wr f v).comb = c.comb := rfl
@[simp] theorem wr_dacFlit (c : Chip) (f : Fld) (v : Nat) : (c.wr f v).dacFlit = c.dacFlit := rfl
@[simp] theorem wr_laneSusp (c : Chip) (f : Fld) (v : Nat) : (c.wr f v).laneSusp = c.laneSusp := rfl
@[simp] theorem wr_sqs (c : Chip) (f : Fld) (v : Nat) : (c.wr f v).sqs = c.sqs := rfl
@[simp] theorem wr_ranks (c : Chip) (f : Fld) (v : Nat) : (c.wr f v).ranks = c.ranks := rfl
@[simp] theorem wr_prt (c : Chip) (f : Fld) (v : Nat) : (c.wr f v).prt = c.prt := rfl
@[simp] theorem wr_gpl (c : Chip) (f : Fld) (v : Nat) : (c.wr f v).gpl = c.gpl := rfl
@[simp] theorem wr_ten (c : Chip) (f : Fld) (v : Nat) : (c.wr f v).ten = c.ten := rfl
@[simp] theorem wr_rxGain (c : Chip) (f : Fld) (v : Nat) : (c.wr f v).rxGain = c.rxGain := rfl
@[simp] theorem wr_cnvs (c : Chip) (f : Fld) (v : Nat) : (c.wr f v).cnvs = c.cnvs := rfl
@[simp] theorem wr_rffes (c : Chip) (f : Fld) (v : Nat) : (c.wr f v).rffes = c.rffes := rfl
@[simp] theorem wr_chl (c : Chip) (f : Fld) (v : Nat) : (c.wr f v).chl = c.chl := rfl
@[simp] theorem wr_trTaken (c : Chip) (f : Fld) (v : Nat) : (c.wr f v).trTaken = c.trTaken := rfl
@[simp] theorem wr_trLive (c : Chip) (f : Fld) (v : Nat) : (c.wr f v).trLive = c.trLive := rfl
@[simp] theorem wr_trLevel (c : Chip) (f : Fld) (v : Nat) : (c.wr f v).trLevel = c.trLevel := rfl
@[simp] theorem wr_trAt (c : Chip) (f : Fld) (v : Nat) : (c.wr f v).trAt = c.trAt := rfl
@[simp] theorem wr_refIn (c : Chip) (f : Fld) (v : Nat) : (c.wr f v).refIn = c.refIn := rfl
@[simp] theorem wr_zmd (c : Chip) (f : Fld) (v : Nat) : (c.wr f v).zmd = c.zmd := rfl
@[simp] theorem wr_pwms (c : Chip) (f : Fld) (v : Nat) : (c.wr f v).pwms = c.pwms := rfl
@[simp] theorem wr_hk (c : Chip) (f : Fld) (v : Nat) : (c.wr f v).hk = c.hk := rfl
@[simp] theorem wr_th (c : Chip) (f : Fld) (v : Nat) : (c.wr f v).th = c.th := rfl
@[simp] theorem wr_mirSeen (c : Chip) (f : Fld) (v : Nat) : (c.wr f v).mirSeen = c.mirSeen := rfl
@[simp] theorem wr_cap (c : Chip) (f : Fld) (v : Nat) : (c.wr f v).cap = c.cap := rfl
@[simp] theorem wr_tap (c : Chip) (f : Fld) (v : Nat) : (c.wr f v).tap = c.tap := rfl
@[simp] theorem wr_supHeld (c : Chip) (f : Fld) (v : Nat) : (c.wr f v).supHeld = c.supHeld := rfl
@[simp] theorem wr_harts (c : Chip) (f : Fld) (v : Nat) : (c.wr f v).harts = c.harts := rfl
@[simp] theorem wr_pwr (c : Chip) (f : Fld) (v : Nat) : (c.wr f v).pwr = c.pwr := rfl
@[simp] theorem wr_railBad (c : Chip) (f : Fld) (v : Nat) : (c.wr f v).railBad = c.railBad := rfl

/-! `respond` changes `bus` alone. -/

@[simp] theorem respond_regs (c : Chip) (q : Requester) (v : Nat) : (c.respond q v).regs = c.regs := rfl
@[simp] theorem respond_shadow (c : Chip) (q : Requester) (v : Nat) : (c.respond q v).shadow = c.shadow := rfl
@[simp] theorem respond_claims (c : Chip) (q : Requester) (v : Nat) : (c.respond q v).claims = c.claims := rfl
@[simp] theorem respond_freeCtr (c : Chip) (q : Requester) (v : Nat) : (c.respond q v).freeCtr = c.freeCtr := rfl
@[simp] theorem respond_flt (c : Chip) (q : Requester) (v : Nat) : (c.respond q v).flt = c.flt := rfl
@[simp] theorem respond_int (c : Chip) (q : Requester) (v : Nat) : (c.respond q v).int = c.int := rfl
@[simp] theorem respond_air (c : Chip) (q : Requester) (v : Nat) : (c.respond q v).air = c.air := rfl
@[simp] theorem respond_img (c : Chip) (q : Requester) (v : Nat) : (c.respond q v).img = c.img := rfl
@[simp] theorem respond_bridges (c : Chip) (q : Requester) (v : Nat) : (c.respond q v).bridges = c.bridges := rfl
@[simp] theorem respond_smp (c : Chip) (q : Requester) (v : Nat) : (c.respond q v).smp = c.smp := rfl
@[simp] theorem respond_adc (c : Chip) (q : Requester) (v : Nat) : (c.respond q v).adc = c.adc := rfl
@[simp] theorem respond_dac (c : Chip) (q : Requester) (v : Nat) : (c.respond q v).dac = c.dac := rfl
@[simp] theorem respond_rxLost (c : Chip) (q : Requester) (v : Nat) : (c.respond q v).rxLost = c.rxLost := rfl
@[simp] theorem respond_comb (c : Chip) (q : Requester) (v : Nat) : (c.respond q v).comb = c.comb := rfl
@[simp] theorem respond_dacFlit (c : Chip) (q : Requester) (v : Nat) : (c.respond q v).dacFlit = c.dacFlit := rfl
@[simp] theorem respond_laneSusp (c : Chip) (q : Requester) (v : Nat) : (c.respond q v).laneSusp = c.laneSusp := rfl
@[simp] theorem respond_sqs (c : Chip) (q : Requester) (v : Nat) : (c.respond q v).sqs = c.sqs := rfl
@[simp] theorem respond_ranks (c : Chip) (q : Requester) (v : Nat) : (c.respond q v).ranks = c.ranks := rfl
@[simp] theorem respond_prt (c : Chip) (q : Requester) (v : Nat) : (c.respond q v).prt = c.prt := rfl
@[simp] theorem respond_gpl (c : Chip) (q : Requester) (v : Nat) : (c.respond q v).gpl = c.gpl := rfl
@[simp] theorem respond_ten (c : Chip) (q : Requester) (v : Nat) : (c.respond q v).ten = c.ten := rfl
@[simp] theorem respond_rxGain (c : Chip) (q : Requester) (v : Nat) : (c.respond q v).rxGain = c.rxGain := rfl
@[simp] theorem respond_cnvs (c : Chip) (q : Requester) (v : Nat) : (c.respond q v).cnvs = c.cnvs := rfl
@[simp] theorem respond_rffes (c : Chip) (q : Requester) (v : Nat) : (c.respond q v).rffes = c.rffes := rfl
@[simp] theorem respond_chl (c : Chip) (q : Requester) (v : Nat) : (c.respond q v).chl = c.chl := rfl
@[simp] theorem respond_trTaken (c : Chip) (q : Requester) (v : Nat) : (c.respond q v).trTaken = c.trTaken := rfl
@[simp] theorem respond_trLive (c : Chip) (q : Requester) (v : Nat) : (c.respond q v).trLive = c.trLive := rfl
@[simp] theorem respond_trLevel (c : Chip) (q : Requester) (v : Nat) : (c.respond q v).trLevel = c.trLevel := rfl
@[simp] theorem respond_trAt (c : Chip) (q : Requester) (v : Nat) : (c.respond q v).trAt = c.trAt := rfl
@[simp] theorem respond_refIn (c : Chip) (q : Requester) (v : Nat) : (c.respond q v).refIn = c.refIn := rfl
@[simp] theorem respond_zmd (c : Chip) (q : Requester) (v : Nat) : (c.respond q v).zmd = c.zmd := rfl
@[simp] theorem respond_pwms (c : Chip) (q : Requester) (v : Nat) : (c.respond q v).pwms = c.pwms := rfl
@[simp] theorem respond_hk (c : Chip) (q : Requester) (v : Nat) : (c.respond q v).hk = c.hk := rfl
@[simp] theorem respond_th (c : Chip) (q : Requester) (v : Nat) : (c.respond q v).th = c.th := rfl
@[simp] theorem respond_mirSeen (c : Chip) (q : Requester) (v : Nat) : (c.respond q v).mirSeen = c.mirSeen := rfl
@[simp] theorem respond_cap (c : Chip) (q : Requester) (v : Nat) : (c.respond q v).cap = c.cap := rfl
@[simp] theorem respond_tap (c : Chip) (q : Requester) (v : Nat) : (c.respond q v).tap = c.tap := rfl
@[simp] theorem respond_supHeld (c : Chip) (q : Requester) (v : Nat) : (c.respond q v).supHeld = c.supHeld := rfl
@[simp] theorem respond_harts (c : Chip) (q : Requester) (v : Nat) : (c.respond q v).harts = c.harts := rfl
@[simp] theorem respond_pwr (c : Chip) (q : Requester) (v : Nat) : (c.respond q v).pwr = c.pwr := rfl
@[simp] theorem respond_railBad (c : Chip) (q : Requester) (v : Nat) : (c.respond q v).railBad = c.railBad := rfl
@[simp] theorem respond_rd (c : Chip) (q : Requester) (v : Nat) (x : Fld) : (c.respond q v).rd x = c.rd x := rfl

/-! `tick` changes `freeCtr` alone. -/

@[simp] theorem tick_regs (c : Chip) : (c.tick).regs = c.regs := rfl
@[simp] theorem tick_shadow (c : Chip) : (c.tick).shadow = c.shadow := rfl
@[simp] theorem tick_claims (c : Chip) : (c.tick).claims = c.claims := rfl
@[simp] theorem tick_bus (c : Chip) : (c.tick).bus = c.bus := rfl
@[simp] theorem tick_flt (c : Chip) : (c.tick).flt = c.flt := rfl
@[simp] theorem tick_int (c : Chip) : (c.tick).int = c.int := rfl
@[simp] theorem tick_air (c : Chip) : (c.tick).air = c.air := rfl
@[simp] theorem tick_img (c : Chip) : (c.tick).img = c.img := rfl
@[simp] theorem tick_bridges (c : Chip) : (c.tick).bridges = c.bridges := rfl
@[simp] theorem tick_smp (c : Chip) : (c.tick).smp = c.smp := rfl
@[simp] theorem tick_adc (c : Chip) : (c.tick).adc = c.adc := rfl
@[simp] theorem tick_dac (c : Chip) : (c.tick).dac = c.dac := rfl
@[simp] theorem tick_rxLost (c : Chip) : (c.tick).rxLost = c.rxLost := rfl
@[simp] theorem tick_comb (c : Chip) : (c.tick).comb = c.comb := rfl
@[simp] theorem tick_dacFlit (c : Chip) : (c.tick).dacFlit = c.dacFlit := rfl
@[simp] theorem tick_laneSusp (c : Chip) : (c.tick).laneSusp = c.laneSusp := rfl
@[simp] theorem tick_sqs (c : Chip) : (c.tick).sqs = c.sqs := rfl
@[simp] theorem tick_ranks (c : Chip) : (c.tick).ranks = c.ranks := rfl
@[simp] theorem tick_prt (c : Chip) : (c.tick).prt = c.prt := rfl
@[simp] theorem tick_gpl (c : Chip) : (c.tick).gpl = c.gpl := rfl
@[simp] theorem tick_ten (c : Chip) : (c.tick).ten = c.ten := rfl
@[simp] theorem tick_rxGain (c : Chip) : (c.tick).rxGain = c.rxGain := rfl
@[simp] theorem tick_cnvs (c : Chip) : (c.tick).cnvs = c.cnvs := rfl
@[simp] theorem tick_rffes (c : Chip) : (c.tick).rffes = c.rffes := rfl
@[simp] theorem tick_chl (c : Chip) : (c.tick).chl = c.chl := rfl
@[simp] theorem tick_trTaken (c : Chip) : (c.tick).trTaken = c.trTaken := rfl
@[simp] theorem tick_trLive (c : Chip) : (c.tick).trLive = c.trLive := rfl
@[simp] theorem tick_trLevel (c : Chip) : (c.tick).trLevel = c.trLevel := rfl
@[simp] theorem tick_trAt (c : Chip) : (c.tick).trAt = c.trAt := rfl
@[simp] theorem tick_refIn (c : Chip) : (c.tick).refIn = c.refIn := rfl
@[simp] theorem tick_zmd (c : Chip) : (c.tick).zmd = c.zmd := rfl
@[simp] theorem tick_pwms (c : Chip) : (c.tick).pwms = c.pwms := rfl
@[simp] theorem tick_hk (c : Chip) : (c.tick).hk = c.hk := rfl
@[simp] theorem tick_th (c : Chip) : (c.tick).th = c.th := rfl
@[simp] theorem tick_mirSeen (c : Chip) : (c.tick).mirSeen = c.mirSeen := rfl
@[simp] theorem tick_cap (c : Chip) : (c.tick).cap = c.cap := rfl
@[simp] theorem tick_tap (c : Chip) : (c.tick).tap = c.tap := rfl
@[simp] theorem tick_supHeld (c : Chip) : (c.tick).supHeld = c.supHeld := rfl
@[simp] theorem tick_harts (c : Chip) : (c.tick).harts = c.harts := rfl
@[simp] theorem tick_pwr (c : Chip) : (c.tick).pwr = c.pwr := rfl
@[simp] theorem tick_railBad (c : Chip) : (c.tick).railBad = c.railBad := rfl
@[simp] theorem tick_rd (c : Chip) (x : Fld) : (c.tick).rd x = c.rd x := rfl

/-! `setSq` changes `sqs` alone. -/

@[simp] theorem setSq_regs (c : Chip) (n : Nat) (g : Sq → Sq) : (c.setSq n g).regs = c.regs := rfl
@[simp] theorem setSq_shadow (c : Chip) (n : Nat) (g : Sq → Sq) : (c.setSq n g).shadow = c.shadow := rfl
@[simp] theorem setSq_claims (c : Chip) (n : Nat) (g : Sq → Sq) : (c.setSq n g).claims = c.claims := rfl
@[simp] theorem setSq_bus (c : Chip) (n : Nat) (g : Sq → Sq) : (c.setSq n g).bus = c.bus := rfl
@[simp] theorem setSq_freeCtr (c : Chip) (n : Nat) (g : Sq → Sq) : (c.setSq n g).freeCtr = c.freeCtr := rfl
@[simp] theorem setSq_flt (c : Chip) (n : Nat) (g : Sq → Sq) : (c.setSq n g).flt = c.flt := rfl
@[simp] theorem setSq_int (c : Chip) (n : Nat) (g : Sq → Sq) : (c.setSq n g).int = c.int := rfl
@[simp] theorem setSq_air (c : Chip) (n : Nat) (g : Sq → Sq) : (c.setSq n g).air = c.air := rfl
@[simp] theorem setSq_img (c : Chip) (n : Nat) (g : Sq → Sq) : (c.setSq n g).img = c.img := rfl
@[simp] theorem setSq_bridges (c : Chip) (n : Nat) (g : Sq → Sq) : (c.setSq n g).bridges = c.bridges := rfl
@[simp] theorem setSq_smp (c : Chip) (n : Nat) (g : Sq → Sq) : (c.setSq n g).smp = c.smp := rfl
@[simp] theorem setSq_adc (c : Chip) (n : Nat) (g : Sq → Sq) : (c.setSq n g).adc = c.adc := rfl
@[simp] theorem setSq_dac (c : Chip) (n : Nat) (g : Sq → Sq) : (c.setSq n g).dac = c.dac := rfl
@[simp] theorem setSq_rxLost (c : Chip) (n : Nat) (g : Sq → Sq) : (c.setSq n g).rxLost = c.rxLost := rfl
@[simp] theorem setSq_comb (c : Chip) (n : Nat) (g : Sq → Sq) : (c.setSq n g).comb = c.comb := rfl
@[simp] theorem setSq_dacFlit (c : Chip) (n : Nat) (g : Sq → Sq) : (c.setSq n g).dacFlit = c.dacFlit := rfl
@[simp] theorem setSq_laneSusp (c : Chip) (n : Nat) (g : Sq → Sq) : (c.setSq n g).laneSusp = c.laneSusp := rfl
@[simp] theorem setSq_ranks (c : Chip) (n : Nat) (g : Sq → Sq) : (c.setSq n g).ranks = c.ranks := rfl
@[simp] theorem setSq_prt (c : Chip) (n : Nat) (g : Sq → Sq) : (c.setSq n g).prt = c.prt := rfl
@[simp] theorem setSq_gpl (c : Chip) (n : Nat) (g : Sq → Sq) : (c.setSq n g).gpl = c.gpl := rfl
@[simp] theorem setSq_ten (c : Chip) (n : Nat) (g : Sq → Sq) : (c.setSq n g).ten = c.ten := rfl
@[simp] theorem setSq_rxGain (c : Chip) (n : Nat) (g : Sq → Sq) : (c.setSq n g).rxGain = c.rxGain := rfl
@[simp] theorem setSq_cnvs (c : Chip) (n : Nat) (g : Sq → Sq) : (c.setSq n g).cnvs = c.cnvs := rfl
@[simp] theorem setSq_rffes (c : Chip) (n : Nat) (g : Sq → Sq) : (c.setSq n g).rffes = c.rffes := rfl
@[simp] theorem setSq_chl (c : Chip) (n : Nat) (g : Sq → Sq) : (c.setSq n g).chl = c.chl := rfl
@[simp] theorem setSq_trTaken (c : Chip) (n : Nat) (g : Sq → Sq) : (c.setSq n g).trTaken = c.trTaken := rfl
@[simp] theorem setSq_trLive (c : Chip) (n : Nat) (g : Sq → Sq) : (c.setSq n g).trLive = c.trLive := rfl
@[simp] theorem setSq_trLevel (c : Chip) (n : Nat) (g : Sq → Sq) : (c.setSq n g).trLevel = c.trLevel := rfl
@[simp] theorem setSq_trAt (c : Chip) (n : Nat) (g : Sq → Sq) : (c.setSq n g).trAt = c.trAt := rfl
@[simp] theorem setSq_refIn (c : Chip) (n : Nat) (g : Sq → Sq) : (c.setSq n g).refIn = c.refIn := rfl
@[simp] theorem setSq_zmd (c : Chip) (n : Nat) (g : Sq → Sq) : (c.setSq n g).zmd = c.zmd := rfl
@[simp] theorem setSq_pwms (c : Chip) (n : Nat) (g : Sq → Sq) : (c.setSq n g).pwms = c.pwms := rfl
@[simp] theorem setSq_hk (c : Chip) (n : Nat) (g : Sq → Sq) : (c.setSq n g).hk = c.hk := rfl
@[simp] theorem setSq_th (c : Chip) (n : Nat) (g : Sq → Sq) : (c.setSq n g).th = c.th := rfl
@[simp] theorem setSq_mirSeen (c : Chip) (n : Nat) (g : Sq → Sq) : (c.setSq n g).mirSeen = c.mirSeen := rfl
@[simp] theorem setSq_cap (c : Chip) (n : Nat) (g : Sq → Sq) : (c.setSq n g).cap = c.cap := rfl
@[simp] theorem setSq_tap (c : Chip) (n : Nat) (g : Sq → Sq) : (c.setSq n g).tap = c.tap := rfl
@[simp] theorem setSq_supHeld (c : Chip) (n : Nat) (g : Sq → Sq) : (c.setSq n g).supHeld = c.supHeld := rfl
@[simp] theorem setSq_harts (c : Chip) (n : Nat) (g : Sq → Sq) : (c.setSq n g).harts = c.harts := rfl
@[simp] theorem setSq_pwr (c : Chip) (n : Nat) (g : Sq → Sq) : (c.setSq n g).pwr = c.pwr := rfl
@[simp] theorem setSq_railBad (c : Chip) (n : Nat) (g : Sq → Sq) : (c.setSq n g).railBad = c.railBad := rfl
@[simp] theorem setSq_rd (c : Chip) (n : Nat) (g : Sq → Sq) (x : Fld) : (c.setSq n g).rd x = c.rd x := rfl

/-! `setRk` changes `ranks` alone. -/

@[simp] theorem setRk_regs (c : Chip) (n : Nat) (g : Rank → Rank) : (c.setRk n g).regs = c.regs := rfl
@[simp] theorem setRk_shadow (c : Chip) (n : Nat) (g : Rank → Rank) : (c.setRk n g).shadow = c.shadow := rfl
@[simp] theorem setRk_claims (c : Chip) (n : Nat) (g : Rank → Rank) : (c.setRk n g).claims = c.claims := rfl
@[simp] theorem setRk_bus (c : Chip) (n : Nat) (g : Rank → Rank) : (c.setRk n g).bus = c.bus := rfl
@[simp] theorem setRk_freeCtr (c : Chip) (n : Nat) (g : Rank → Rank) : (c.setRk n g).freeCtr = c.freeCtr := rfl
@[simp] theorem setRk_flt (c : Chip) (n : Nat) (g : Rank → Rank) : (c.setRk n g).flt = c.flt := rfl
@[simp] theorem setRk_int (c : Chip) (n : Nat) (g : Rank → Rank) : (c.setRk n g).int = c.int := rfl
@[simp] theorem setRk_air (c : Chip) (n : Nat) (g : Rank → Rank) : (c.setRk n g).air = c.air := rfl
@[simp] theorem setRk_img (c : Chip) (n : Nat) (g : Rank → Rank) : (c.setRk n g).img = c.img := rfl
@[simp] theorem setRk_bridges (c : Chip) (n : Nat) (g : Rank → Rank) : (c.setRk n g).bridges = c.bridges := rfl
@[simp] theorem setRk_smp (c : Chip) (n : Nat) (g : Rank → Rank) : (c.setRk n g).smp = c.smp := rfl
@[simp] theorem setRk_adc (c : Chip) (n : Nat) (g : Rank → Rank) : (c.setRk n g).adc = c.adc := rfl
@[simp] theorem setRk_dac (c : Chip) (n : Nat) (g : Rank → Rank) : (c.setRk n g).dac = c.dac := rfl
@[simp] theorem setRk_rxLost (c : Chip) (n : Nat) (g : Rank → Rank) : (c.setRk n g).rxLost = c.rxLost := rfl
@[simp] theorem setRk_comb (c : Chip) (n : Nat) (g : Rank → Rank) : (c.setRk n g).comb = c.comb := rfl
@[simp] theorem setRk_dacFlit (c : Chip) (n : Nat) (g : Rank → Rank) : (c.setRk n g).dacFlit = c.dacFlit := rfl
@[simp] theorem setRk_laneSusp (c : Chip) (n : Nat) (g : Rank → Rank) : (c.setRk n g).laneSusp = c.laneSusp := rfl
@[simp] theorem setRk_sqs (c : Chip) (n : Nat) (g : Rank → Rank) : (c.setRk n g).sqs = c.sqs := rfl
@[simp] theorem setRk_prt (c : Chip) (n : Nat) (g : Rank → Rank) : (c.setRk n g).prt = c.prt := rfl
@[simp] theorem setRk_gpl (c : Chip) (n : Nat) (g : Rank → Rank) : (c.setRk n g).gpl = c.gpl := rfl
@[simp] theorem setRk_ten (c : Chip) (n : Nat) (g : Rank → Rank) : (c.setRk n g).ten = c.ten := rfl
@[simp] theorem setRk_rxGain (c : Chip) (n : Nat) (g : Rank → Rank) : (c.setRk n g).rxGain = c.rxGain := rfl
@[simp] theorem setRk_cnvs (c : Chip) (n : Nat) (g : Rank → Rank) : (c.setRk n g).cnvs = c.cnvs := rfl
@[simp] theorem setRk_rffes (c : Chip) (n : Nat) (g : Rank → Rank) : (c.setRk n g).rffes = c.rffes := rfl
@[simp] theorem setRk_chl (c : Chip) (n : Nat) (g : Rank → Rank) : (c.setRk n g).chl = c.chl := rfl
@[simp] theorem setRk_trTaken (c : Chip) (n : Nat) (g : Rank → Rank) : (c.setRk n g).trTaken = c.trTaken := rfl
@[simp] theorem setRk_trLive (c : Chip) (n : Nat) (g : Rank → Rank) : (c.setRk n g).trLive = c.trLive := rfl
@[simp] theorem setRk_trLevel (c : Chip) (n : Nat) (g : Rank → Rank) : (c.setRk n g).trLevel = c.trLevel := rfl
@[simp] theorem setRk_trAt (c : Chip) (n : Nat) (g : Rank → Rank) : (c.setRk n g).trAt = c.trAt := rfl
@[simp] theorem setRk_refIn (c : Chip) (n : Nat) (g : Rank → Rank) : (c.setRk n g).refIn = c.refIn := rfl
@[simp] theorem setRk_zmd (c : Chip) (n : Nat) (g : Rank → Rank) : (c.setRk n g).zmd = c.zmd := rfl
@[simp] theorem setRk_pwms (c : Chip) (n : Nat) (g : Rank → Rank) : (c.setRk n g).pwms = c.pwms := rfl
@[simp] theorem setRk_hk (c : Chip) (n : Nat) (g : Rank → Rank) : (c.setRk n g).hk = c.hk := rfl
@[simp] theorem setRk_th (c : Chip) (n : Nat) (g : Rank → Rank) : (c.setRk n g).th = c.th := rfl
@[simp] theorem setRk_mirSeen (c : Chip) (n : Nat) (g : Rank → Rank) : (c.setRk n g).mirSeen = c.mirSeen := rfl
@[simp] theorem setRk_cap (c : Chip) (n : Nat) (g : Rank → Rank) : (c.setRk n g).cap = c.cap := rfl
@[simp] theorem setRk_tap (c : Chip) (n : Nat) (g : Rank → Rank) : (c.setRk n g).tap = c.tap := rfl
@[simp] theorem setRk_supHeld (c : Chip) (n : Nat) (g : Rank → Rank) : (c.setRk n g).supHeld = c.supHeld := rfl
@[simp] theorem setRk_harts (c : Chip) (n : Nat) (g : Rank → Rank) : (c.setRk n g).harts = c.harts := rfl
@[simp] theorem setRk_pwr (c : Chip) (n : Nat) (g : Rank → Rank) : (c.setRk n g).pwr = c.pwr := rfl
@[simp] theorem setRk_railBad (c : Chip) (n : Nat) (g : Rank → Rank) : (c.setRk n g).railBad = c.railBad := rfl
@[simp] theorem setRk_rd (c : Chip) (n : Nat) (g : Rank → Rank) (x : Fld) : (c.setRk n g).rd x = c.rd x := rfl

/-! `setBr` changes `bridges` alone. -/

@[simp] theorem setBr_regs (c : Chip) (n : Nat) (g : Bridge → Bridge) : (c.setBr n g).regs = c.regs := rfl
@[simp] theorem setBr_shadow (c : Chip) (n : Nat) (g : Bridge → Bridge) : (c.setBr n g).shadow = c.shadow := rfl
@[simp] theorem setBr_claims (c : Chip) (n : Nat) (g : Bridge → Bridge) : (c.setBr n g).claims = c.claims := rfl
@[simp] theorem setBr_bus (c : Chip) (n : Nat) (g : Bridge → Bridge) : (c.setBr n g).bus = c.bus := rfl
@[simp] theorem setBr_freeCtr (c : Chip) (n : Nat) (g : Bridge → Bridge) : (c.setBr n g).freeCtr = c.freeCtr := rfl
@[simp] theorem setBr_flt (c : Chip) (n : Nat) (g : Bridge → Bridge) : (c.setBr n g).flt = c.flt := rfl
@[simp] theorem setBr_int (c : Chip) (n : Nat) (g : Bridge → Bridge) : (c.setBr n g).int = c.int := rfl
@[simp] theorem setBr_air (c : Chip) (n : Nat) (g : Bridge → Bridge) : (c.setBr n g).air = c.air := rfl
@[simp] theorem setBr_img (c : Chip) (n : Nat) (g : Bridge → Bridge) : (c.setBr n g).img = c.img := rfl
@[simp] theorem setBr_smp (c : Chip) (n : Nat) (g : Bridge → Bridge) : (c.setBr n g).smp = c.smp := rfl
@[simp] theorem setBr_adc (c : Chip) (n : Nat) (g : Bridge → Bridge) : (c.setBr n g).adc = c.adc := rfl
@[simp] theorem setBr_dac (c : Chip) (n : Nat) (g : Bridge → Bridge) : (c.setBr n g).dac = c.dac := rfl
@[simp] theorem setBr_rxLost (c : Chip) (n : Nat) (g : Bridge → Bridge) : (c.setBr n g).rxLost = c.rxLost := rfl
@[simp] theorem setBr_comb (c : Chip) (n : Nat) (g : Bridge → Bridge) : (c.setBr n g).comb = c.comb := rfl
@[simp] theorem setBr_dacFlit (c : Chip) (n : Nat) (g : Bridge → Bridge) : (c.setBr n g).dacFlit = c.dacFlit := rfl
@[simp] theorem setBr_laneSusp (c : Chip) (n : Nat) (g : Bridge → Bridge) : (c.setBr n g).laneSusp = c.laneSusp := rfl
@[simp] theorem setBr_sqs (c : Chip) (n : Nat) (g : Bridge → Bridge) : (c.setBr n g).sqs = c.sqs := rfl
@[simp] theorem setBr_ranks (c : Chip) (n : Nat) (g : Bridge → Bridge) : (c.setBr n g).ranks = c.ranks := rfl
@[simp] theorem setBr_prt (c : Chip) (n : Nat) (g : Bridge → Bridge) : (c.setBr n g).prt = c.prt := rfl
@[simp] theorem setBr_gpl (c : Chip) (n : Nat) (g : Bridge → Bridge) : (c.setBr n g).gpl = c.gpl := rfl
@[simp] theorem setBr_ten (c : Chip) (n : Nat) (g : Bridge → Bridge) : (c.setBr n g).ten = c.ten := rfl
@[simp] theorem setBr_rxGain (c : Chip) (n : Nat) (g : Bridge → Bridge) : (c.setBr n g).rxGain = c.rxGain := rfl
@[simp] theorem setBr_cnvs (c : Chip) (n : Nat) (g : Bridge → Bridge) : (c.setBr n g).cnvs = c.cnvs := rfl
@[simp] theorem setBr_rffes (c : Chip) (n : Nat) (g : Bridge → Bridge) : (c.setBr n g).rffes = c.rffes := rfl
@[simp] theorem setBr_chl (c : Chip) (n : Nat) (g : Bridge → Bridge) : (c.setBr n g).chl = c.chl := rfl
@[simp] theorem setBr_trTaken (c : Chip) (n : Nat) (g : Bridge → Bridge) : (c.setBr n g).trTaken = c.trTaken := rfl
@[simp] theorem setBr_trLive (c : Chip) (n : Nat) (g : Bridge → Bridge) : (c.setBr n g).trLive = c.trLive := rfl
@[simp] theorem setBr_trLevel (c : Chip) (n : Nat) (g : Bridge → Bridge) : (c.setBr n g).trLevel = c.trLevel := rfl
@[simp] theorem setBr_trAt (c : Chip) (n : Nat) (g : Bridge → Bridge) : (c.setBr n g).trAt = c.trAt := rfl
@[simp] theorem setBr_refIn (c : Chip) (n : Nat) (g : Bridge → Bridge) : (c.setBr n g).refIn = c.refIn := rfl
@[simp] theorem setBr_zmd (c : Chip) (n : Nat) (g : Bridge → Bridge) : (c.setBr n g).zmd = c.zmd := rfl
@[simp] theorem setBr_pwms (c : Chip) (n : Nat) (g : Bridge → Bridge) : (c.setBr n g).pwms = c.pwms := rfl
@[simp] theorem setBr_hk (c : Chip) (n : Nat) (g : Bridge → Bridge) : (c.setBr n g).hk = c.hk := rfl
@[simp] theorem setBr_th (c : Chip) (n : Nat) (g : Bridge → Bridge) : (c.setBr n g).th = c.th := rfl
@[simp] theorem setBr_mirSeen (c : Chip) (n : Nat) (g : Bridge → Bridge) : (c.setBr n g).mirSeen = c.mirSeen := rfl
@[simp] theorem setBr_cap (c : Chip) (n : Nat) (g : Bridge → Bridge) : (c.setBr n g).cap = c.cap := rfl
@[simp] theorem setBr_tap (c : Chip) (n : Nat) (g : Bridge → Bridge) : (c.setBr n g).tap = c.tap := rfl
@[simp] theorem setBr_supHeld (c : Chip) (n : Nat) (g : Bridge → Bridge) : (c.setBr n g).supHeld = c.supHeld := rfl
@[simp] theorem setBr_harts (c : Chip) (n : Nat) (g : Bridge → Bridge) : (c.setBr n g).harts = c.harts := rfl
@[simp] theorem setBr_pwr (c : Chip) (n : Nat) (g : Bridge → Bridge) : (c.setBr n g).pwr = c.pwr := rfl
@[simp] theorem setBr_railBad (c : Chip) (n : Nat) (g : Bridge → Bridge) : (c.setBr n g).railBad = c.railBad := rfl
@[simp] theorem setBr_rd (c : Chip) (n : Nat) (g : Bridge → Bridge) (x : Fld) : (c.setBr n g).rd x = c.rd x := rfl

/-! `setFlt` changes `flt` alone. -/

@[simp] theorem setFlt_regs (c : Chip) (g : Flt → Flt) : (c.setFlt g).regs = c.regs := rfl
@[simp] theorem setFlt_shadow (c : Chip) (g : Flt → Flt) : (c.setFlt g).shadow = c.shadow := rfl
@[simp] theorem setFlt_claims (c : Chip) (g : Flt → Flt) : (c.setFlt g).claims = c.claims := rfl
@[simp] theorem setFlt_bus (c : Chip) (g : Flt → Flt) : (c.setFlt g).bus = c.bus := rfl
@[simp] theorem setFlt_freeCtr (c : Chip) (g : Flt → Flt) : (c.setFlt g).freeCtr = c.freeCtr := rfl
@[simp] theorem setFlt_int (c : Chip) (g : Flt → Flt) : (c.setFlt g).int = c.int := rfl
@[simp] theorem setFlt_air (c : Chip) (g : Flt → Flt) : (c.setFlt g).air = c.air := rfl
@[simp] theorem setFlt_img (c : Chip) (g : Flt → Flt) : (c.setFlt g).img = c.img := rfl
@[simp] theorem setFlt_bridges (c : Chip) (g : Flt → Flt) : (c.setFlt g).bridges = c.bridges := rfl
@[simp] theorem setFlt_smp (c : Chip) (g : Flt → Flt) : (c.setFlt g).smp = c.smp := rfl
@[simp] theorem setFlt_adc (c : Chip) (g : Flt → Flt) : (c.setFlt g).adc = c.adc := rfl
@[simp] theorem setFlt_dac (c : Chip) (g : Flt → Flt) : (c.setFlt g).dac = c.dac := rfl
@[simp] theorem setFlt_rxLost (c : Chip) (g : Flt → Flt) : (c.setFlt g).rxLost = c.rxLost := rfl
@[simp] theorem setFlt_comb (c : Chip) (g : Flt → Flt) : (c.setFlt g).comb = c.comb := rfl
@[simp] theorem setFlt_dacFlit (c : Chip) (g : Flt → Flt) : (c.setFlt g).dacFlit = c.dacFlit := rfl
@[simp] theorem setFlt_laneSusp (c : Chip) (g : Flt → Flt) : (c.setFlt g).laneSusp = c.laneSusp := rfl
@[simp] theorem setFlt_sqs (c : Chip) (g : Flt → Flt) : (c.setFlt g).sqs = c.sqs := rfl
@[simp] theorem setFlt_ranks (c : Chip) (g : Flt → Flt) : (c.setFlt g).ranks = c.ranks := rfl
@[simp] theorem setFlt_prt (c : Chip) (g : Flt → Flt) : (c.setFlt g).prt = c.prt := rfl
@[simp] theorem setFlt_gpl (c : Chip) (g : Flt → Flt) : (c.setFlt g).gpl = c.gpl := rfl
@[simp] theorem setFlt_ten (c : Chip) (g : Flt → Flt) : (c.setFlt g).ten = c.ten := rfl
@[simp] theorem setFlt_rxGain (c : Chip) (g : Flt → Flt) : (c.setFlt g).rxGain = c.rxGain := rfl
@[simp] theorem setFlt_cnvs (c : Chip) (g : Flt → Flt) : (c.setFlt g).cnvs = c.cnvs := rfl
@[simp] theorem setFlt_rffes (c : Chip) (g : Flt → Flt) : (c.setFlt g).rffes = c.rffes := rfl
@[simp] theorem setFlt_chl (c : Chip) (g : Flt → Flt) : (c.setFlt g).chl = c.chl := rfl
@[simp] theorem setFlt_trTaken (c : Chip) (g : Flt → Flt) : (c.setFlt g).trTaken = c.trTaken := rfl
@[simp] theorem setFlt_trLive (c : Chip) (g : Flt → Flt) : (c.setFlt g).trLive = c.trLive := rfl
@[simp] theorem setFlt_trLevel (c : Chip) (g : Flt → Flt) : (c.setFlt g).trLevel = c.trLevel := rfl
@[simp] theorem setFlt_trAt (c : Chip) (g : Flt → Flt) : (c.setFlt g).trAt = c.trAt := rfl
@[simp] theorem setFlt_refIn (c : Chip) (g : Flt → Flt) : (c.setFlt g).refIn = c.refIn := rfl
@[simp] theorem setFlt_zmd (c : Chip) (g : Flt → Flt) : (c.setFlt g).zmd = c.zmd := rfl
@[simp] theorem setFlt_pwms (c : Chip) (g : Flt → Flt) : (c.setFlt g).pwms = c.pwms := rfl
@[simp] theorem setFlt_hk (c : Chip) (g : Flt → Flt) : (c.setFlt g).hk = c.hk := rfl
@[simp] theorem setFlt_th (c : Chip) (g : Flt → Flt) : (c.setFlt g).th = c.th := rfl
@[simp] theorem setFlt_mirSeen (c : Chip) (g : Flt → Flt) : (c.setFlt g).mirSeen = c.mirSeen := rfl
@[simp] theorem setFlt_cap (c : Chip) (g : Flt → Flt) : (c.setFlt g).cap = c.cap := rfl
@[simp] theorem setFlt_tap (c : Chip) (g : Flt → Flt) : (c.setFlt g).tap = c.tap := rfl
@[simp] theorem setFlt_supHeld (c : Chip) (g : Flt → Flt) : (c.setFlt g).supHeld = c.supHeld := rfl
@[simp] theorem setFlt_harts (c : Chip) (g : Flt → Flt) : (c.setFlt g).harts = c.harts := rfl
@[simp] theorem setFlt_pwr (c : Chip) (g : Flt → Flt) : (c.setFlt g).pwr = c.pwr := rfl
@[simp] theorem setFlt_railBad (c : Chip) (g : Flt → Flt) : (c.setFlt g).railBad = c.railBad := rfl
@[simp] theorem setFlt_flt (c : Chip) (g : Flt → Flt) : (c.setFlt g).flt = g c.flt := rfl
@[simp] theorem setFlt_rd (c : Chip) (g : Flt → Flt) (x : Fld) : (c.setFlt g).rd x = c.rd x := rfl

/-! `setInt` changes `int` alone. -/

@[simp] theorem setInt_regs (c : Chip) (g : IntSt → IntSt) : (c.setInt g).regs = c.regs := rfl
@[simp] theorem setInt_shadow (c : Chip) (g : IntSt → IntSt) : (c.setInt g).shadow = c.shadow := rfl
@[simp] theorem setInt_claims (c : Chip) (g : IntSt → IntSt) : (c.setInt g).claims = c.claims := rfl
@[simp] theorem setInt_bus (c : Chip) (g : IntSt → IntSt) : (c.setInt g).bus = c.bus := rfl
@[simp] theorem setInt_freeCtr (c : Chip) (g : IntSt → IntSt) : (c.setInt g).freeCtr = c.freeCtr := rfl
@[simp] theorem setInt_flt (c : Chip) (g : IntSt → IntSt) : (c.setInt g).flt = c.flt := rfl
@[simp] theorem setInt_air (c : Chip) (g : IntSt → IntSt) : (c.setInt g).air = c.air := rfl
@[simp] theorem setInt_img (c : Chip) (g : IntSt → IntSt) : (c.setInt g).img = c.img := rfl
@[simp] theorem setInt_bridges (c : Chip) (g : IntSt → IntSt) : (c.setInt g).bridges = c.bridges := rfl
@[simp] theorem setInt_smp (c : Chip) (g : IntSt → IntSt) : (c.setInt g).smp = c.smp := rfl
@[simp] theorem setInt_adc (c : Chip) (g : IntSt → IntSt) : (c.setInt g).adc = c.adc := rfl
@[simp] theorem setInt_dac (c : Chip) (g : IntSt → IntSt) : (c.setInt g).dac = c.dac := rfl
@[simp] theorem setInt_rxLost (c : Chip) (g : IntSt → IntSt) : (c.setInt g).rxLost = c.rxLost := rfl
@[simp] theorem setInt_comb (c : Chip) (g : IntSt → IntSt) : (c.setInt g).comb = c.comb := rfl
@[simp] theorem setInt_dacFlit (c : Chip) (g : IntSt → IntSt) : (c.setInt g).dacFlit = c.dacFlit := rfl
@[simp] theorem setInt_laneSusp (c : Chip) (g : IntSt → IntSt) : (c.setInt g).laneSusp = c.laneSusp := rfl
@[simp] theorem setInt_sqs (c : Chip) (g : IntSt → IntSt) : (c.setInt g).sqs = c.sqs := rfl
@[simp] theorem setInt_ranks (c : Chip) (g : IntSt → IntSt) : (c.setInt g).ranks = c.ranks := rfl
@[simp] theorem setInt_prt (c : Chip) (g : IntSt → IntSt) : (c.setInt g).prt = c.prt := rfl
@[simp] theorem setInt_gpl (c : Chip) (g : IntSt → IntSt) : (c.setInt g).gpl = c.gpl := rfl
@[simp] theorem setInt_ten (c : Chip) (g : IntSt → IntSt) : (c.setInt g).ten = c.ten := rfl
@[simp] theorem setInt_rxGain (c : Chip) (g : IntSt → IntSt) : (c.setInt g).rxGain = c.rxGain := rfl
@[simp] theorem setInt_cnvs (c : Chip) (g : IntSt → IntSt) : (c.setInt g).cnvs = c.cnvs := rfl
@[simp] theorem setInt_rffes (c : Chip) (g : IntSt → IntSt) : (c.setInt g).rffes = c.rffes := rfl
@[simp] theorem setInt_chl (c : Chip) (g : IntSt → IntSt) : (c.setInt g).chl = c.chl := rfl
@[simp] theorem setInt_trTaken (c : Chip) (g : IntSt → IntSt) : (c.setInt g).trTaken = c.trTaken := rfl
@[simp] theorem setInt_trLive (c : Chip) (g : IntSt → IntSt) : (c.setInt g).trLive = c.trLive := rfl
@[simp] theorem setInt_trLevel (c : Chip) (g : IntSt → IntSt) : (c.setInt g).trLevel = c.trLevel := rfl
@[simp] theorem setInt_trAt (c : Chip) (g : IntSt → IntSt) : (c.setInt g).trAt = c.trAt := rfl
@[simp] theorem setInt_refIn (c : Chip) (g : IntSt → IntSt) : (c.setInt g).refIn = c.refIn := rfl
@[simp] theorem setInt_zmd (c : Chip) (g : IntSt → IntSt) : (c.setInt g).zmd = c.zmd := rfl
@[simp] theorem setInt_pwms (c : Chip) (g : IntSt → IntSt) : (c.setInt g).pwms = c.pwms := rfl
@[simp] theorem setInt_hk (c : Chip) (g : IntSt → IntSt) : (c.setInt g).hk = c.hk := rfl
@[simp] theorem setInt_th (c : Chip) (g : IntSt → IntSt) : (c.setInt g).th = c.th := rfl
@[simp] theorem setInt_mirSeen (c : Chip) (g : IntSt → IntSt) : (c.setInt g).mirSeen = c.mirSeen := rfl
@[simp] theorem setInt_cap (c : Chip) (g : IntSt → IntSt) : (c.setInt g).cap = c.cap := rfl
@[simp] theorem setInt_tap (c : Chip) (g : IntSt → IntSt) : (c.setInt g).tap = c.tap := rfl
@[simp] theorem setInt_supHeld (c : Chip) (g : IntSt → IntSt) : (c.setInt g).supHeld = c.supHeld := rfl
@[simp] theorem setInt_harts (c : Chip) (g : IntSt → IntSt) : (c.setInt g).harts = c.harts := rfl
@[simp] theorem setInt_pwr (c : Chip) (g : IntSt → IntSt) : (c.setInt g).pwr = c.pwr := rfl
@[simp] theorem setInt_railBad (c : Chip) (g : IntSt → IntSt) : (c.setInt g).railBad = c.railBad := rfl
@[simp] theorem setInt_int (c : Chip) (g : IntSt → IntSt) : (c.setInt g).int = g c.int := rfl
@[simp] theorem setInt_rd (c : Chip) (g : IntSt → IntSt) (x : Fld) : (c.setInt g).rd x = c.rd x := rfl

/-! `setAir` changes `air` alone. -/

@[simp] theorem setAir_regs (c : Chip) (g : Air → Air) : (c.setAir g).regs = c.regs := rfl
@[simp] theorem setAir_shadow (c : Chip) (g : Air → Air) : (c.setAir g).shadow = c.shadow := rfl
@[simp] theorem setAir_claims (c : Chip) (g : Air → Air) : (c.setAir g).claims = c.claims := rfl
@[simp] theorem setAir_bus (c : Chip) (g : Air → Air) : (c.setAir g).bus = c.bus := rfl
@[simp] theorem setAir_freeCtr (c : Chip) (g : Air → Air) : (c.setAir g).freeCtr = c.freeCtr := rfl
@[simp] theorem setAir_flt (c : Chip) (g : Air → Air) : (c.setAir g).flt = c.flt := rfl
@[simp] theorem setAir_int (c : Chip) (g : Air → Air) : (c.setAir g).int = c.int := rfl
@[simp] theorem setAir_img (c : Chip) (g : Air → Air) : (c.setAir g).img = c.img := rfl
@[simp] theorem setAir_bridges (c : Chip) (g : Air → Air) : (c.setAir g).bridges = c.bridges := rfl
@[simp] theorem setAir_smp (c : Chip) (g : Air → Air) : (c.setAir g).smp = c.smp := rfl
@[simp] theorem setAir_adc (c : Chip) (g : Air → Air) : (c.setAir g).adc = c.adc := rfl
@[simp] theorem setAir_dac (c : Chip) (g : Air → Air) : (c.setAir g).dac = c.dac := rfl
@[simp] theorem setAir_rxLost (c : Chip) (g : Air → Air) : (c.setAir g).rxLost = c.rxLost := rfl
@[simp] theorem setAir_comb (c : Chip) (g : Air → Air) : (c.setAir g).comb = c.comb := rfl
@[simp] theorem setAir_dacFlit (c : Chip) (g : Air → Air) : (c.setAir g).dacFlit = c.dacFlit := rfl
@[simp] theorem setAir_laneSusp (c : Chip) (g : Air → Air) : (c.setAir g).laneSusp = c.laneSusp := rfl
@[simp] theorem setAir_sqs (c : Chip) (g : Air → Air) : (c.setAir g).sqs = c.sqs := rfl
@[simp] theorem setAir_ranks (c : Chip) (g : Air → Air) : (c.setAir g).ranks = c.ranks := rfl
@[simp] theorem setAir_prt (c : Chip) (g : Air → Air) : (c.setAir g).prt = c.prt := rfl
@[simp] theorem setAir_gpl (c : Chip) (g : Air → Air) : (c.setAir g).gpl = c.gpl := rfl
@[simp] theorem setAir_ten (c : Chip) (g : Air → Air) : (c.setAir g).ten = c.ten := rfl
@[simp] theorem setAir_rxGain (c : Chip) (g : Air → Air) : (c.setAir g).rxGain = c.rxGain := rfl
@[simp] theorem setAir_cnvs (c : Chip) (g : Air → Air) : (c.setAir g).cnvs = c.cnvs := rfl
@[simp] theorem setAir_rffes (c : Chip) (g : Air → Air) : (c.setAir g).rffes = c.rffes := rfl
@[simp] theorem setAir_chl (c : Chip) (g : Air → Air) : (c.setAir g).chl = c.chl := rfl
@[simp] theorem setAir_trTaken (c : Chip) (g : Air → Air) : (c.setAir g).trTaken = c.trTaken := rfl
@[simp] theorem setAir_trLive (c : Chip) (g : Air → Air) : (c.setAir g).trLive = c.trLive := rfl
@[simp] theorem setAir_trLevel (c : Chip) (g : Air → Air) : (c.setAir g).trLevel = c.trLevel := rfl
@[simp] theorem setAir_trAt (c : Chip) (g : Air → Air) : (c.setAir g).trAt = c.trAt := rfl
@[simp] theorem setAir_refIn (c : Chip) (g : Air → Air) : (c.setAir g).refIn = c.refIn := rfl
@[simp] theorem setAir_zmd (c : Chip) (g : Air → Air) : (c.setAir g).zmd = c.zmd := rfl
@[simp] theorem setAir_pwms (c : Chip) (g : Air → Air) : (c.setAir g).pwms = c.pwms := rfl
@[simp] theorem setAir_hk (c : Chip) (g : Air → Air) : (c.setAir g).hk = c.hk := rfl
@[simp] theorem setAir_th (c : Chip) (g : Air → Air) : (c.setAir g).th = c.th := rfl
@[simp] theorem setAir_mirSeen (c : Chip) (g : Air → Air) : (c.setAir g).mirSeen = c.mirSeen := rfl
@[simp] theorem setAir_cap (c : Chip) (g : Air → Air) : (c.setAir g).cap = c.cap := rfl
@[simp] theorem setAir_tap (c : Chip) (g : Air → Air) : (c.setAir g).tap = c.tap := rfl
@[simp] theorem setAir_supHeld (c : Chip) (g : Air → Air) : (c.setAir g).supHeld = c.supHeld := rfl
@[simp] theorem setAir_harts (c : Chip) (g : Air → Air) : (c.setAir g).harts = c.harts := rfl
@[simp] theorem setAir_pwr (c : Chip) (g : Air → Air) : (c.setAir g).pwr = c.pwr := rfl
@[simp] theorem setAir_railBad (c : Chip) (g : Air → Air) : (c.setAir g).railBad = c.railBad := rfl
@[simp] theorem setAir_air (c : Chip) (g : Air → Air) : (c.setAir g).air = g c.air := rfl
@[simp] theorem setAir_rd (c : Chip) (g : Air → Air) (x : Fld) : (c.setAir g).rd x = c.rd x := rfl

/-! `setImg` changes `img` alone. -/

@[simp] theorem setImg_regs (c : Chip) (g : Img → Img) : (c.setImg g).regs = c.regs := rfl
@[simp] theorem setImg_shadow (c : Chip) (g : Img → Img) : (c.setImg g).shadow = c.shadow := rfl
@[simp] theorem setImg_claims (c : Chip) (g : Img → Img) : (c.setImg g).claims = c.claims := rfl
@[simp] theorem setImg_bus (c : Chip) (g : Img → Img) : (c.setImg g).bus = c.bus := rfl
@[simp] theorem setImg_freeCtr (c : Chip) (g : Img → Img) : (c.setImg g).freeCtr = c.freeCtr := rfl
@[simp] theorem setImg_flt (c : Chip) (g : Img → Img) : (c.setImg g).flt = c.flt := rfl
@[simp] theorem setImg_int (c : Chip) (g : Img → Img) : (c.setImg g).int = c.int := rfl
@[simp] theorem setImg_air (c : Chip) (g : Img → Img) : (c.setImg g).air = c.air := rfl
@[simp] theorem setImg_bridges (c : Chip) (g : Img → Img) : (c.setImg g).bridges = c.bridges := rfl
@[simp] theorem setImg_smp (c : Chip) (g : Img → Img) : (c.setImg g).smp = c.smp := rfl
@[simp] theorem setImg_adc (c : Chip) (g : Img → Img) : (c.setImg g).adc = c.adc := rfl
@[simp] theorem setImg_dac (c : Chip) (g : Img → Img) : (c.setImg g).dac = c.dac := rfl
@[simp] theorem setImg_rxLost (c : Chip) (g : Img → Img) : (c.setImg g).rxLost = c.rxLost := rfl
@[simp] theorem setImg_comb (c : Chip) (g : Img → Img) : (c.setImg g).comb = c.comb := rfl
@[simp] theorem setImg_dacFlit (c : Chip) (g : Img → Img) : (c.setImg g).dacFlit = c.dacFlit := rfl
@[simp] theorem setImg_laneSusp (c : Chip) (g : Img → Img) : (c.setImg g).laneSusp = c.laneSusp := rfl
@[simp] theorem setImg_sqs (c : Chip) (g : Img → Img) : (c.setImg g).sqs = c.sqs := rfl
@[simp] theorem setImg_ranks (c : Chip) (g : Img → Img) : (c.setImg g).ranks = c.ranks := rfl
@[simp] theorem setImg_prt (c : Chip) (g : Img → Img) : (c.setImg g).prt = c.prt := rfl
@[simp] theorem setImg_gpl (c : Chip) (g : Img → Img) : (c.setImg g).gpl = c.gpl := rfl
@[simp] theorem setImg_ten (c : Chip) (g : Img → Img) : (c.setImg g).ten = c.ten := rfl
@[simp] theorem setImg_rxGain (c : Chip) (g : Img → Img) : (c.setImg g).rxGain = c.rxGain := rfl
@[simp] theorem setImg_cnvs (c : Chip) (g : Img → Img) : (c.setImg g).cnvs = c.cnvs := rfl
@[simp] theorem setImg_rffes (c : Chip) (g : Img → Img) : (c.setImg g).rffes = c.rffes := rfl
@[simp] theorem setImg_chl (c : Chip) (g : Img → Img) : (c.setImg g).chl = c.chl := rfl
@[simp] theorem setImg_trTaken (c : Chip) (g : Img → Img) : (c.setImg g).trTaken = c.trTaken := rfl
@[simp] theorem setImg_trLive (c : Chip) (g : Img → Img) : (c.setImg g).trLive = c.trLive := rfl
@[simp] theorem setImg_trLevel (c : Chip) (g : Img → Img) : (c.setImg g).trLevel = c.trLevel := rfl
@[simp] theorem setImg_trAt (c : Chip) (g : Img → Img) : (c.setImg g).trAt = c.trAt := rfl
@[simp] theorem setImg_refIn (c : Chip) (g : Img → Img) : (c.setImg g).refIn = c.refIn := rfl
@[simp] theorem setImg_zmd (c : Chip) (g : Img → Img) : (c.setImg g).zmd = c.zmd := rfl
@[simp] theorem setImg_pwms (c : Chip) (g : Img → Img) : (c.setImg g).pwms = c.pwms := rfl
@[simp] theorem setImg_hk (c : Chip) (g : Img → Img) : (c.setImg g).hk = c.hk := rfl
@[simp] theorem setImg_th (c : Chip) (g : Img → Img) : (c.setImg g).th = c.th := rfl
@[simp] theorem setImg_mirSeen (c : Chip) (g : Img → Img) : (c.setImg g).mirSeen = c.mirSeen := rfl
@[simp] theorem setImg_cap (c : Chip) (g : Img → Img) : (c.setImg g).cap = c.cap := rfl
@[simp] theorem setImg_tap (c : Chip) (g : Img → Img) : (c.setImg g).tap = c.tap := rfl
@[simp] theorem setImg_supHeld (c : Chip) (g : Img → Img) : (c.setImg g).supHeld = c.supHeld := rfl
@[simp] theorem setImg_harts (c : Chip) (g : Img → Img) : (c.setImg g).harts = c.harts := rfl
@[simp] theorem setImg_pwr (c : Chip) (g : Img → Img) : (c.setImg g).pwr = c.pwr := rfl
@[simp] theorem setImg_railBad (c : Chip) (g : Img → Img) : (c.setImg g).railBad = c.railBad := rfl
@[simp] theorem setImg_img (c : Chip) (g : Img → Img) : (c.setImg g).img = g c.img := rfl
@[simp] theorem setImg_rd (c : Chip) (g : Img → Img) (x : Fld) : (c.setImg g).rd x = c.rd x := rfl

/-! `setPrt` changes `prt` alone. -/

@[simp] theorem setPrt_regs (c : Chip) (g : Prt → Prt) : (c.setPrt g).regs = c.regs := rfl
@[simp] theorem setPrt_shadow (c : Chip) (g : Prt → Prt) : (c.setPrt g).shadow = c.shadow := rfl
@[simp] theorem setPrt_claims (c : Chip) (g : Prt → Prt) : (c.setPrt g).claims = c.claims := rfl
@[simp] theorem setPrt_bus (c : Chip) (g : Prt → Prt) : (c.setPrt g).bus = c.bus := rfl
@[simp] theorem setPrt_freeCtr (c : Chip) (g : Prt → Prt) : (c.setPrt g).freeCtr = c.freeCtr := rfl
@[simp] theorem setPrt_flt (c : Chip) (g : Prt → Prt) : (c.setPrt g).flt = c.flt := rfl
@[simp] theorem setPrt_int (c : Chip) (g : Prt → Prt) : (c.setPrt g).int = c.int := rfl
@[simp] theorem setPrt_air (c : Chip) (g : Prt → Prt) : (c.setPrt g).air = c.air := rfl
@[simp] theorem setPrt_img (c : Chip) (g : Prt → Prt) : (c.setPrt g).img = c.img := rfl
@[simp] theorem setPrt_bridges (c : Chip) (g : Prt → Prt) : (c.setPrt g).bridges = c.bridges := rfl
@[simp] theorem setPrt_smp (c : Chip) (g : Prt → Prt) : (c.setPrt g).smp = c.smp := rfl
@[simp] theorem setPrt_adc (c : Chip) (g : Prt → Prt) : (c.setPrt g).adc = c.adc := rfl
@[simp] theorem setPrt_dac (c : Chip) (g : Prt → Prt) : (c.setPrt g).dac = c.dac := rfl
@[simp] theorem setPrt_rxLost (c : Chip) (g : Prt → Prt) : (c.setPrt g).rxLost = c.rxLost := rfl
@[simp] theorem setPrt_comb (c : Chip) (g : Prt → Prt) : (c.setPrt g).comb = c.comb := rfl
@[simp] theorem setPrt_dacFlit (c : Chip) (g : Prt → Prt) : (c.setPrt g).dacFlit = c.dacFlit := rfl
@[simp] theorem setPrt_laneSusp (c : Chip) (g : Prt → Prt) : (c.setPrt g).laneSusp = c.laneSusp := rfl
@[simp] theorem setPrt_sqs (c : Chip) (g : Prt → Prt) : (c.setPrt g).sqs = c.sqs := rfl
@[simp] theorem setPrt_ranks (c : Chip) (g : Prt → Prt) : (c.setPrt g).ranks = c.ranks := rfl
@[simp] theorem setPrt_gpl (c : Chip) (g : Prt → Prt) : (c.setPrt g).gpl = c.gpl := rfl
@[simp] theorem setPrt_ten (c : Chip) (g : Prt → Prt) : (c.setPrt g).ten = c.ten := rfl
@[simp] theorem setPrt_rxGain (c : Chip) (g : Prt → Prt) : (c.setPrt g).rxGain = c.rxGain := rfl
@[simp] theorem setPrt_cnvs (c : Chip) (g : Prt → Prt) : (c.setPrt g).cnvs = c.cnvs := rfl
@[simp] theorem setPrt_rffes (c : Chip) (g : Prt → Prt) : (c.setPrt g).rffes = c.rffes := rfl
@[simp] theorem setPrt_chl (c : Chip) (g : Prt → Prt) : (c.setPrt g).chl = c.chl := rfl
@[simp] theorem setPrt_trTaken (c : Chip) (g : Prt → Prt) : (c.setPrt g).trTaken = c.trTaken := rfl
@[simp] theorem setPrt_trLive (c : Chip) (g : Prt → Prt) : (c.setPrt g).trLive = c.trLive := rfl
@[simp] theorem setPrt_trLevel (c : Chip) (g : Prt → Prt) : (c.setPrt g).trLevel = c.trLevel := rfl
@[simp] theorem setPrt_trAt (c : Chip) (g : Prt → Prt) : (c.setPrt g).trAt = c.trAt := rfl
@[simp] theorem setPrt_refIn (c : Chip) (g : Prt → Prt) : (c.setPrt g).refIn = c.refIn := rfl
@[simp] theorem setPrt_zmd (c : Chip) (g : Prt → Prt) : (c.setPrt g).zmd = c.zmd := rfl
@[simp] theorem setPrt_pwms (c : Chip) (g : Prt → Prt) : (c.setPrt g).pwms = c.pwms := rfl
@[simp] theorem setPrt_hk (c : Chip) (g : Prt → Prt) : (c.setPrt g).hk = c.hk := rfl
@[simp] theorem setPrt_th (c : Chip) (g : Prt → Prt) : (c.setPrt g).th = c.th := rfl
@[simp] theorem setPrt_mirSeen (c : Chip) (g : Prt → Prt) : (c.setPrt g).mirSeen = c.mirSeen := rfl
@[simp] theorem setPrt_cap (c : Chip) (g : Prt → Prt) : (c.setPrt g).cap = c.cap := rfl
@[simp] theorem setPrt_tap (c : Chip) (g : Prt → Prt) : (c.setPrt g).tap = c.tap := rfl
@[simp] theorem setPrt_supHeld (c : Chip) (g : Prt → Prt) : (c.setPrt g).supHeld = c.supHeld := rfl
@[simp] theorem setPrt_harts (c : Chip) (g : Prt → Prt) : (c.setPrt g).harts = c.harts := rfl
@[simp] theorem setPrt_pwr (c : Chip) (g : Prt → Prt) : (c.setPrt g).pwr = c.pwr := rfl
@[simp] theorem setPrt_railBad (c : Chip) (g : Prt → Prt) : (c.setPrt g).railBad = c.railBad := rfl
@[simp] theorem setPrt_prt (c : Chip) (g : Prt → Prt) : (c.setPrt g).prt = g c.prt := rfl
@[simp] theorem setPrt_rd (c : Chip) (g : Prt → Prt) (x : Fld) : (c.setPrt g).rd x = c.rd x := rfl

/-! `setTen` changes `ten` alone. -/

@[simp] theorem setTen_regs (c : Chip) (g : Ten → Ten) : (c.setTen g).regs = c.regs := rfl
@[simp] theorem setTen_shadow (c : Chip) (g : Ten → Ten) : (c.setTen g).shadow = c.shadow := rfl
@[simp] theorem setTen_claims (c : Chip) (g : Ten → Ten) : (c.setTen g).claims = c.claims := rfl
@[simp] theorem setTen_bus (c : Chip) (g : Ten → Ten) : (c.setTen g).bus = c.bus := rfl
@[simp] theorem setTen_freeCtr (c : Chip) (g : Ten → Ten) : (c.setTen g).freeCtr = c.freeCtr := rfl
@[simp] theorem setTen_flt (c : Chip) (g : Ten → Ten) : (c.setTen g).flt = c.flt := rfl
@[simp] theorem setTen_int (c : Chip) (g : Ten → Ten) : (c.setTen g).int = c.int := rfl
@[simp] theorem setTen_air (c : Chip) (g : Ten → Ten) : (c.setTen g).air = c.air := rfl
@[simp] theorem setTen_img (c : Chip) (g : Ten → Ten) : (c.setTen g).img = c.img := rfl
@[simp] theorem setTen_bridges (c : Chip) (g : Ten → Ten) : (c.setTen g).bridges = c.bridges := rfl
@[simp] theorem setTen_smp (c : Chip) (g : Ten → Ten) : (c.setTen g).smp = c.smp := rfl
@[simp] theorem setTen_adc (c : Chip) (g : Ten → Ten) : (c.setTen g).adc = c.adc := rfl
@[simp] theorem setTen_dac (c : Chip) (g : Ten → Ten) : (c.setTen g).dac = c.dac := rfl
@[simp] theorem setTen_rxLost (c : Chip) (g : Ten → Ten) : (c.setTen g).rxLost = c.rxLost := rfl
@[simp] theorem setTen_comb (c : Chip) (g : Ten → Ten) : (c.setTen g).comb = c.comb := rfl
@[simp] theorem setTen_dacFlit (c : Chip) (g : Ten → Ten) : (c.setTen g).dacFlit = c.dacFlit := rfl
@[simp] theorem setTen_laneSusp (c : Chip) (g : Ten → Ten) : (c.setTen g).laneSusp = c.laneSusp := rfl
@[simp] theorem setTen_sqs (c : Chip) (g : Ten → Ten) : (c.setTen g).sqs = c.sqs := rfl
@[simp] theorem setTen_ranks (c : Chip) (g : Ten → Ten) : (c.setTen g).ranks = c.ranks := rfl
@[simp] theorem setTen_prt (c : Chip) (g : Ten → Ten) : (c.setTen g).prt = c.prt := rfl
@[simp] theorem setTen_gpl (c : Chip) (g : Ten → Ten) : (c.setTen g).gpl = c.gpl := rfl
@[simp] theorem setTen_rxGain (c : Chip) (g : Ten → Ten) : (c.setTen g).rxGain = c.rxGain := rfl
@[simp] theorem setTen_cnvs (c : Chip) (g : Ten → Ten) : (c.setTen g).cnvs = c.cnvs := rfl
@[simp] theorem setTen_rffes (c : Chip) (g : Ten → Ten) : (c.setTen g).rffes = c.rffes := rfl
@[simp] theorem setTen_chl (c : Chip) (g : Ten → Ten) : (c.setTen g).chl = c.chl := rfl
@[simp] theorem setTen_trTaken (c : Chip) (g : Ten → Ten) : (c.setTen g).trTaken = c.trTaken := rfl
@[simp] theorem setTen_trLive (c : Chip) (g : Ten → Ten) : (c.setTen g).trLive = c.trLive := rfl
@[simp] theorem setTen_trLevel (c : Chip) (g : Ten → Ten) : (c.setTen g).trLevel = c.trLevel := rfl
@[simp] theorem setTen_trAt (c : Chip) (g : Ten → Ten) : (c.setTen g).trAt = c.trAt := rfl
@[simp] theorem setTen_refIn (c : Chip) (g : Ten → Ten) : (c.setTen g).refIn = c.refIn := rfl
@[simp] theorem setTen_zmd (c : Chip) (g : Ten → Ten) : (c.setTen g).zmd = c.zmd := rfl
@[simp] theorem setTen_pwms (c : Chip) (g : Ten → Ten) : (c.setTen g).pwms = c.pwms := rfl
@[simp] theorem setTen_hk (c : Chip) (g : Ten → Ten) : (c.setTen g).hk = c.hk := rfl
@[simp] theorem setTen_th (c : Chip) (g : Ten → Ten) : (c.setTen g).th = c.th := rfl
@[simp] theorem setTen_mirSeen (c : Chip) (g : Ten → Ten) : (c.setTen g).mirSeen = c.mirSeen := rfl
@[simp] theorem setTen_cap (c : Chip) (g : Ten → Ten) : (c.setTen g).cap = c.cap := rfl
@[simp] theorem setTen_tap (c : Chip) (g : Ten → Ten) : (c.setTen g).tap = c.tap := rfl
@[simp] theorem setTen_supHeld (c : Chip) (g : Ten → Ten) : (c.setTen g).supHeld = c.supHeld := rfl
@[simp] theorem setTen_harts (c : Chip) (g : Ten → Ten) : (c.setTen g).harts = c.harts := rfl
@[simp] theorem setTen_pwr (c : Chip) (g : Ten → Ten) : (c.setTen g).pwr = c.pwr := rfl
@[simp] theorem setTen_railBad (c : Chip) (g : Ten → Ten) : (c.setTen g).railBad = c.railBad := rfl
@[simp] theorem setTen_ten (c : Chip) (g : Ten → Ten) : (c.setTen g).ten = g c.ten := rfl
@[simp] theorem setTen_rd (c : Chip) (g : Ten → Ten) (x : Fld) : (c.setTen g).rd x = c.rd x := rfl

/-! `setCv` changes `cnvs` alone. -/

@[simp] theorem setCv_regs (c : Chip) (n : Nat) (g : Cnv → Cnv) : (c.setCv n g).regs = c.regs := rfl
@[simp] theorem setCv_shadow (c : Chip) (n : Nat) (g : Cnv → Cnv) : (c.setCv n g).shadow = c.shadow := rfl
@[simp] theorem setCv_claims (c : Chip) (n : Nat) (g : Cnv → Cnv) : (c.setCv n g).claims = c.claims := rfl
@[simp] theorem setCv_bus (c : Chip) (n : Nat) (g : Cnv → Cnv) : (c.setCv n g).bus = c.bus := rfl
@[simp] theorem setCv_freeCtr (c : Chip) (n : Nat) (g : Cnv → Cnv) : (c.setCv n g).freeCtr = c.freeCtr := rfl
@[simp] theorem setCv_flt (c : Chip) (n : Nat) (g : Cnv → Cnv) : (c.setCv n g).flt = c.flt := rfl
@[simp] theorem setCv_int (c : Chip) (n : Nat) (g : Cnv → Cnv) : (c.setCv n g).int = c.int := rfl
@[simp] theorem setCv_air (c : Chip) (n : Nat) (g : Cnv → Cnv) : (c.setCv n g).air = c.air := rfl
@[simp] theorem setCv_img (c : Chip) (n : Nat) (g : Cnv → Cnv) : (c.setCv n g).img = c.img := rfl
@[simp] theorem setCv_bridges (c : Chip) (n : Nat) (g : Cnv → Cnv) : (c.setCv n g).bridges = c.bridges := rfl
@[simp] theorem setCv_smp (c : Chip) (n : Nat) (g : Cnv → Cnv) : (c.setCv n g).smp = c.smp := rfl
@[simp] theorem setCv_adc (c : Chip) (n : Nat) (g : Cnv → Cnv) : (c.setCv n g).adc = c.adc := rfl
@[simp] theorem setCv_dac (c : Chip) (n : Nat) (g : Cnv → Cnv) : (c.setCv n g).dac = c.dac := rfl
@[simp] theorem setCv_rxLost (c : Chip) (n : Nat) (g : Cnv → Cnv) : (c.setCv n g).rxLost = c.rxLost := rfl
@[simp] theorem setCv_comb (c : Chip) (n : Nat) (g : Cnv → Cnv) : (c.setCv n g).comb = c.comb := rfl
@[simp] theorem setCv_dacFlit (c : Chip) (n : Nat) (g : Cnv → Cnv) : (c.setCv n g).dacFlit = c.dacFlit := rfl
@[simp] theorem setCv_laneSusp (c : Chip) (n : Nat) (g : Cnv → Cnv) : (c.setCv n g).laneSusp = c.laneSusp := rfl
@[simp] theorem setCv_sqs (c : Chip) (n : Nat) (g : Cnv → Cnv) : (c.setCv n g).sqs = c.sqs := rfl
@[simp] theorem setCv_ranks (c : Chip) (n : Nat) (g : Cnv → Cnv) : (c.setCv n g).ranks = c.ranks := rfl
@[simp] theorem setCv_prt (c : Chip) (n : Nat) (g : Cnv → Cnv) : (c.setCv n g).prt = c.prt := rfl
@[simp] theorem setCv_gpl (c : Chip) (n : Nat) (g : Cnv → Cnv) : (c.setCv n g).gpl = c.gpl := rfl
@[simp] theorem setCv_ten (c : Chip) (n : Nat) (g : Cnv → Cnv) : (c.setCv n g).ten = c.ten := rfl
@[simp] theorem setCv_rxGain (c : Chip) (n : Nat) (g : Cnv → Cnv) : (c.setCv n g).rxGain = c.rxGain := rfl
@[simp] theorem setCv_rffes (c : Chip) (n : Nat) (g : Cnv → Cnv) : (c.setCv n g).rffes = c.rffes := rfl
@[simp] theorem setCv_chl (c : Chip) (n : Nat) (g : Cnv → Cnv) : (c.setCv n g).chl = c.chl := rfl
@[simp] theorem setCv_trTaken (c : Chip) (n : Nat) (g : Cnv → Cnv) : (c.setCv n g).trTaken = c.trTaken := rfl
@[simp] theorem setCv_trLive (c : Chip) (n : Nat) (g : Cnv → Cnv) : (c.setCv n g).trLive = c.trLive := rfl
@[simp] theorem setCv_trLevel (c : Chip) (n : Nat) (g : Cnv → Cnv) : (c.setCv n g).trLevel = c.trLevel := rfl
@[simp] theorem setCv_trAt (c : Chip) (n : Nat) (g : Cnv → Cnv) : (c.setCv n g).trAt = c.trAt := rfl
@[simp] theorem setCv_refIn (c : Chip) (n : Nat) (g : Cnv → Cnv) : (c.setCv n g).refIn = c.refIn := rfl
@[simp] theorem setCv_zmd (c : Chip) (n : Nat) (g : Cnv → Cnv) : (c.setCv n g).zmd = c.zmd := rfl
@[simp] theorem setCv_pwms (c : Chip) (n : Nat) (g : Cnv → Cnv) : (c.setCv n g).pwms = c.pwms := rfl
@[simp] theorem setCv_hk (c : Chip) (n : Nat) (g : Cnv → Cnv) : (c.setCv n g).hk = c.hk := rfl
@[simp] theorem setCv_th (c : Chip) (n : Nat) (g : Cnv → Cnv) : (c.setCv n g).th = c.th := rfl
@[simp] theorem setCv_mirSeen (c : Chip) (n : Nat) (g : Cnv → Cnv) : (c.setCv n g).mirSeen = c.mirSeen := rfl
@[simp] theorem setCv_cap (c : Chip) (n : Nat) (g : Cnv → Cnv) : (c.setCv n g).cap = c.cap := rfl
@[simp] theorem setCv_tap (c : Chip) (n : Nat) (g : Cnv → Cnv) : (c.setCv n g).tap = c.tap := rfl
@[simp] theorem setCv_supHeld (c : Chip) (n : Nat) (g : Cnv → Cnv) : (c.setCv n g).supHeld = c.supHeld := rfl
@[simp] theorem setCv_harts (c : Chip) (n : Nat) (g : Cnv → Cnv) : (c.setCv n g).harts = c.harts := rfl
@[simp] theorem setCv_pwr (c : Chip) (n : Nat) (g : Cnv → Cnv) : (c.setCv n g).pwr = c.pwr := rfl
@[simp] theorem setCv_railBad (c : Chip) (n : Nat) (g : Cnv → Cnv) : (c.setCv n g).railBad = c.railBad := rfl
@[simp] theorem setCv_rd (c : Chip) (n : Nat) (g : Cnv → Cnv) (x : Fld) : (c.setCv n g).rd x = c.rd x := rfl

/-! `setRf` changes `rffes` alone. -/

@[simp] theorem setRf_regs (c : Chip) (n : Nat) (g : Rffe → Rffe) : (c.setRf n g).regs = c.regs := rfl
@[simp] theorem setRf_shadow (c : Chip) (n : Nat) (g : Rffe → Rffe) : (c.setRf n g).shadow = c.shadow := rfl
@[simp] theorem setRf_claims (c : Chip) (n : Nat) (g : Rffe → Rffe) : (c.setRf n g).claims = c.claims := rfl
@[simp] theorem setRf_bus (c : Chip) (n : Nat) (g : Rffe → Rffe) : (c.setRf n g).bus = c.bus := rfl
@[simp] theorem setRf_freeCtr (c : Chip) (n : Nat) (g : Rffe → Rffe) : (c.setRf n g).freeCtr = c.freeCtr := rfl
@[simp] theorem setRf_flt (c : Chip) (n : Nat) (g : Rffe → Rffe) : (c.setRf n g).flt = c.flt := rfl
@[simp] theorem setRf_int (c : Chip) (n : Nat) (g : Rffe → Rffe) : (c.setRf n g).int = c.int := rfl
@[simp] theorem setRf_air (c : Chip) (n : Nat) (g : Rffe → Rffe) : (c.setRf n g).air = c.air := rfl
@[simp] theorem setRf_img (c : Chip) (n : Nat) (g : Rffe → Rffe) : (c.setRf n g).img = c.img := rfl
@[simp] theorem setRf_bridges (c : Chip) (n : Nat) (g : Rffe → Rffe) : (c.setRf n g).bridges = c.bridges := rfl
@[simp] theorem setRf_smp (c : Chip) (n : Nat) (g : Rffe → Rffe) : (c.setRf n g).smp = c.smp := rfl
@[simp] theorem setRf_adc (c : Chip) (n : Nat) (g : Rffe → Rffe) : (c.setRf n g).adc = c.adc := rfl
@[simp] theorem setRf_dac (c : Chip) (n : Nat) (g : Rffe → Rffe) : (c.setRf n g).dac = c.dac := rfl
@[simp] theorem setRf_rxLost (c : Chip) (n : Nat) (g : Rffe → Rffe) : (c.setRf n g).rxLost = c.rxLost := rfl
@[simp] theorem setRf_comb (c : Chip) (n : Nat) (g : Rffe → Rffe) : (c.setRf n g).comb = c.comb := rfl
@[simp] theorem setRf_dacFlit (c : Chip) (n : Nat) (g : Rffe → Rffe) : (c.setRf n g).dacFlit = c.dacFlit := rfl
@[simp] theorem setRf_laneSusp (c : Chip) (n : Nat) (g : Rffe → Rffe) : (c.setRf n g).laneSusp = c.laneSusp := rfl
@[simp] theorem setRf_sqs (c : Chip) (n : Nat) (g : Rffe → Rffe) : (c.setRf n g).sqs = c.sqs := rfl
@[simp] theorem setRf_ranks (c : Chip) (n : Nat) (g : Rffe → Rffe) : (c.setRf n g).ranks = c.ranks := rfl
@[simp] theorem setRf_prt (c : Chip) (n : Nat) (g : Rffe → Rffe) : (c.setRf n g).prt = c.prt := rfl
@[simp] theorem setRf_gpl (c : Chip) (n : Nat) (g : Rffe → Rffe) : (c.setRf n g).gpl = c.gpl := rfl
@[simp] theorem setRf_ten (c : Chip) (n : Nat) (g : Rffe → Rffe) : (c.setRf n g).ten = c.ten := rfl
@[simp] theorem setRf_rxGain (c : Chip) (n : Nat) (g : Rffe → Rffe) : (c.setRf n g).rxGain = c.rxGain := rfl
@[simp] theorem setRf_cnvs (c : Chip) (n : Nat) (g : Rffe → Rffe) : (c.setRf n g).cnvs = c.cnvs := rfl
@[simp] theorem setRf_chl (c : Chip) (n : Nat) (g : Rffe → Rffe) : (c.setRf n g).chl = c.chl := rfl
@[simp] theorem setRf_trTaken (c : Chip) (n : Nat) (g : Rffe → Rffe) : (c.setRf n g).trTaken = c.trTaken := rfl
@[simp] theorem setRf_trLive (c : Chip) (n : Nat) (g : Rffe → Rffe) : (c.setRf n g).trLive = c.trLive := rfl
@[simp] theorem setRf_trLevel (c : Chip) (n : Nat) (g : Rffe → Rffe) : (c.setRf n g).trLevel = c.trLevel := rfl
@[simp] theorem setRf_trAt (c : Chip) (n : Nat) (g : Rffe → Rffe) : (c.setRf n g).trAt = c.trAt := rfl
@[simp] theorem setRf_refIn (c : Chip) (n : Nat) (g : Rffe → Rffe) : (c.setRf n g).refIn = c.refIn := rfl
@[simp] theorem setRf_zmd (c : Chip) (n : Nat) (g : Rffe → Rffe) : (c.setRf n g).zmd = c.zmd := rfl
@[simp] theorem setRf_pwms (c : Chip) (n : Nat) (g : Rffe → Rffe) : (c.setRf n g).pwms = c.pwms := rfl
@[simp] theorem setRf_hk (c : Chip) (n : Nat) (g : Rffe → Rffe) : (c.setRf n g).hk = c.hk := rfl
@[simp] theorem setRf_th (c : Chip) (n : Nat) (g : Rffe → Rffe) : (c.setRf n g).th = c.th := rfl
@[simp] theorem setRf_mirSeen (c : Chip) (n : Nat) (g : Rffe → Rffe) : (c.setRf n g).mirSeen = c.mirSeen := rfl
@[simp] theorem setRf_cap (c : Chip) (n : Nat) (g : Rffe → Rffe) : (c.setRf n g).cap = c.cap := rfl
@[simp] theorem setRf_tap (c : Chip) (n : Nat) (g : Rffe → Rffe) : (c.setRf n g).tap = c.tap := rfl
@[simp] theorem setRf_supHeld (c : Chip) (n : Nat) (g : Rffe → Rffe) : (c.setRf n g).supHeld = c.supHeld := rfl
@[simp] theorem setRf_harts (c : Chip) (n : Nat) (g : Rffe → Rffe) : (c.setRf n g).harts = c.harts := rfl
@[simp] theorem setRf_pwr (c : Chip) (n : Nat) (g : Rffe → Rffe) : (c.setRf n g).pwr = c.pwr := rfl
@[simp] theorem setRf_railBad (c : Chip) (n : Nat) (g : Rffe → Rffe) : (c.setRf n g).railBad = c.railBad := rfl
@[simp] theorem setRf_rd (c : Chip) (n : Nat) (g : Rffe → Rffe) (x : Fld) : (c.setRf n g).rd x = c.rd x := rfl

/-! `setGpl` changes `gpl` alone. -/

@[simp] theorem setGpl_regs (c : Chip) (g : Gpl → Gpl) : (c.setGpl g).regs = c.regs := rfl
@[simp] theorem setGpl_shadow (c : Chip) (g : Gpl → Gpl) : (c.setGpl g).shadow = c.shadow := rfl
@[simp] theorem setGpl_claims (c : Chip) (g : Gpl → Gpl) : (c.setGpl g).claims = c.claims := rfl
@[simp] theorem setGpl_bus (c : Chip) (g : Gpl → Gpl) : (c.setGpl g).bus = c.bus := rfl
@[simp] theorem setGpl_freeCtr (c : Chip) (g : Gpl → Gpl) : (c.setGpl g).freeCtr = c.freeCtr := rfl
@[simp] theorem setGpl_flt (c : Chip) (g : Gpl → Gpl) : (c.setGpl g).flt = c.flt := rfl
@[simp] theorem setGpl_int (c : Chip) (g : Gpl → Gpl) : (c.setGpl g).int = c.int := rfl
@[simp] theorem setGpl_air (c : Chip) (g : Gpl → Gpl) : (c.setGpl g).air = c.air := rfl
@[simp] theorem setGpl_img (c : Chip) (g : Gpl → Gpl) : (c.setGpl g).img = c.img := rfl
@[simp] theorem setGpl_bridges (c : Chip) (g : Gpl → Gpl) : (c.setGpl g).bridges = c.bridges := rfl
@[simp] theorem setGpl_smp (c : Chip) (g : Gpl → Gpl) : (c.setGpl g).smp = c.smp := rfl
@[simp] theorem setGpl_adc (c : Chip) (g : Gpl → Gpl) : (c.setGpl g).adc = c.adc := rfl
@[simp] theorem setGpl_dac (c : Chip) (g : Gpl → Gpl) : (c.setGpl g).dac = c.dac := rfl
@[simp] theorem setGpl_rxLost (c : Chip) (g : Gpl → Gpl) : (c.setGpl g).rxLost = c.rxLost := rfl
@[simp] theorem setGpl_comb (c : Chip) (g : Gpl → Gpl) : (c.setGpl g).comb = c.comb := rfl
@[simp] theorem setGpl_dacFlit (c : Chip) (g : Gpl → Gpl) : (c.setGpl g).dacFlit = c.dacFlit := rfl
@[simp] theorem setGpl_laneSusp (c : Chip) (g : Gpl → Gpl) : (c.setGpl g).laneSusp = c.laneSusp := rfl
@[simp] theorem setGpl_sqs (c : Chip) (g : Gpl → Gpl) : (c.setGpl g).sqs = c.sqs := rfl
@[simp] theorem setGpl_ranks (c : Chip) (g : Gpl → Gpl) : (c.setGpl g).ranks = c.ranks := rfl
@[simp] theorem setGpl_prt (c : Chip) (g : Gpl → Gpl) : (c.setGpl g).prt = c.prt := rfl
@[simp] theorem setGpl_ten (c : Chip) (g : Gpl → Gpl) : (c.setGpl g).ten = c.ten := rfl
@[simp] theorem setGpl_rxGain (c : Chip) (g : Gpl → Gpl) : (c.setGpl g).rxGain = c.rxGain := rfl
@[simp] theorem setGpl_cnvs (c : Chip) (g : Gpl → Gpl) : (c.setGpl g).cnvs = c.cnvs := rfl
@[simp] theorem setGpl_rffes (c : Chip) (g : Gpl → Gpl) : (c.setGpl g).rffes = c.rffes := rfl
@[simp] theorem setGpl_chl (c : Chip) (g : Gpl → Gpl) : (c.setGpl g).chl = c.chl := rfl
@[simp] theorem setGpl_trTaken (c : Chip) (g : Gpl → Gpl) : (c.setGpl g).trTaken = c.trTaken := rfl
@[simp] theorem setGpl_trLive (c : Chip) (g : Gpl → Gpl) : (c.setGpl g).trLive = c.trLive := rfl
@[simp] theorem setGpl_trLevel (c : Chip) (g : Gpl → Gpl) : (c.setGpl g).trLevel = c.trLevel := rfl
@[simp] theorem setGpl_trAt (c : Chip) (g : Gpl → Gpl) : (c.setGpl g).trAt = c.trAt := rfl
@[simp] theorem setGpl_refIn (c : Chip) (g : Gpl → Gpl) : (c.setGpl g).refIn = c.refIn := rfl
@[simp] theorem setGpl_zmd (c : Chip) (g : Gpl → Gpl) : (c.setGpl g).zmd = c.zmd := rfl
@[simp] theorem setGpl_pwms (c : Chip) (g : Gpl → Gpl) : (c.setGpl g).pwms = c.pwms := rfl
@[simp] theorem setGpl_hk (c : Chip) (g : Gpl → Gpl) : (c.setGpl g).hk = c.hk := rfl
@[simp] theorem setGpl_th (c : Chip) (g : Gpl → Gpl) : (c.setGpl g).th = c.th := rfl
@[simp] theorem setGpl_mirSeen (c : Chip) (g : Gpl → Gpl) : (c.setGpl g).mirSeen = c.mirSeen := rfl
@[simp] theorem setGpl_cap (c : Chip) (g : Gpl → Gpl) : (c.setGpl g).cap = c.cap := rfl
@[simp] theorem setGpl_tap (c : Chip) (g : Gpl → Gpl) : (c.setGpl g).tap = c.tap := rfl
@[simp] theorem setGpl_supHeld (c : Chip) (g : Gpl → Gpl) : (c.setGpl g).supHeld = c.supHeld := rfl
@[simp] theorem setGpl_harts (c : Chip) (g : Gpl → Gpl) : (c.setGpl g).harts = c.harts := rfl
@[simp] theorem setGpl_pwr (c : Chip) (g : Gpl → Gpl) : (c.setGpl g).pwr = c.pwr := rfl
@[simp] theorem setGpl_railBad (c : Chip) (g : Gpl → Gpl) : (c.setGpl g).railBad = c.railBad := rfl
@[simp] theorem setGpl_gpl (c : Chip) (g : Gpl → Gpl) : (c.setGpl g).gpl = g c.gpl := rfl
@[simp] theorem setGpl_rd (c : Chip) (g : Gpl → Gpl) (x : Fld) : (c.setGpl g).rd x = c.rd x := rfl

/-! `setHk` changes `hk` alone. -/

@[simp] theorem setHk_regs (c : Chip) (g : Hk → Hk) : (c.setHk g).regs = c.regs := rfl
@[simp] theorem setHk_shadow (c : Chip) (g : Hk → Hk) : (c.setHk g).shadow = c.shadow := rfl
@[simp] theorem setHk_claims (c : Chip) (g : Hk → Hk) : (c.setHk g).claims = c.claims := rfl
@[simp] theorem setHk_bus (c : Chip) (g : Hk → Hk) : (c.setHk g).bus = c.bus := rfl
@[simp] theorem setHk_freeCtr (c : Chip) (g : Hk → Hk) : (c.setHk g).freeCtr = c.freeCtr := rfl
@[simp] theorem setHk_flt (c : Chip) (g : Hk → Hk) : (c.setHk g).flt = c.flt := rfl
@[simp] theorem setHk_int (c : Chip) (g : Hk → Hk) : (c.setHk g).int = c.int := rfl
@[simp] theorem setHk_air (c : Chip) (g : Hk → Hk) : (c.setHk g).air = c.air := rfl
@[simp] theorem setHk_img (c : Chip) (g : Hk → Hk) : (c.setHk g).img = c.img := rfl
@[simp] theorem setHk_bridges (c : Chip) (g : Hk → Hk) : (c.setHk g).bridges = c.bridges := rfl
@[simp] theorem setHk_smp (c : Chip) (g : Hk → Hk) : (c.setHk g).smp = c.smp := rfl
@[simp] theorem setHk_adc (c : Chip) (g : Hk → Hk) : (c.setHk g).adc = c.adc := rfl
@[simp] theorem setHk_dac (c : Chip) (g : Hk → Hk) : (c.setHk g).dac = c.dac := rfl
@[simp] theorem setHk_rxLost (c : Chip) (g : Hk → Hk) : (c.setHk g).rxLost = c.rxLost := rfl
@[simp] theorem setHk_comb (c : Chip) (g : Hk → Hk) : (c.setHk g).comb = c.comb := rfl
@[simp] theorem setHk_dacFlit (c : Chip) (g : Hk → Hk) : (c.setHk g).dacFlit = c.dacFlit := rfl
@[simp] theorem setHk_laneSusp (c : Chip) (g : Hk → Hk) : (c.setHk g).laneSusp = c.laneSusp := rfl
@[simp] theorem setHk_sqs (c : Chip) (g : Hk → Hk) : (c.setHk g).sqs = c.sqs := rfl
@[simp] theorem setHk_ranks (c : Chip) (g : Hk → Hk) : (c.setHk g).ranks = c.ranks := rfl
@[simp] theorem setHk_prt (c : Chip) (g : Hk → Hk) : (c.setHk g).prt = c.prt := rfl
@[simp] theorem setHk_gpl (c : Chip) (g : Hk → Hk) : (c.setHk g).gpl = c.gpl := rfl
@[simp] theorem setHk_ten (c : Chip) (g : Hk → Hk) : (c.setHk g).ten = c.ten := rfl
@[simp] theorem setHk_rxGain (c : Chip) (g : Hk → Hk) : (c.setHk g).rxGain = c.rxGain := rfl
@[simp] theorem setHk_cnvs (c : Chip) (g : Hk → Hk) : (c.setHk g).cnvs = c.cnvs := rfl
@[simp] theorem setHk_rffes (c : Chip) (g : Hk → Hk) : (c.setHk g).rffes = c.rffes := rfl
@[simp] theorem setHk_chl (c : Chip) (g : Hk → Hk) : (c.setHk g).chl = c.chl := rfl
@[simp] theorem setHk_trTaken (c : Chip) (g : Hk → Hk) : (c.setHk g).trTaken = c.trTaken := rfl
@[simp] theorem setHk_trLive (c : Chip) (g : Hk → Hk) : (c.setHk g).trLive = c.trLive := rfl
@[simp] theorem setHk_trLevel (c : Chip) (g : Hk → Hk) : (c.setHk g).trLevel = c.trLevel := rfl
@[simp] theorem setHk_trAt (c : Chip) (g : Hk → Hk) : (c.setHk g).trAt = c.trAt := rfl
@[simp] theorem setHk_refIn (c : Chip) (g : Hk → Hk) : (c.setHk g).refIn = c.refIn := rfl
@[simp] theorem setHk_zmd (c : Chip) (g : Hk → Hk) : (c.setHk g).zmd = c.zmd := rfl
@[simp] theorem setHk_pwms (c : Chip) (g : Hk → Hk) : (c.setHk g).pwms = c.pwms := rfl
@[simp] theorem setHk_th (c : Chip) (g : Hk → Hk) : (c.setHk g).th = c.th := rfl
@[simp] theorem setHk_mirSeen (c : Chip) (g : Hk → Hk) : (c.setHk g).mirSeen = c.mirSeen := rfl
@[simp] theorem setHk_cap (c : Chip) (g : Hk → Hk) : (c.setHk g).cap = c.cap := rfl
@[simp] theorem setHk_tap (c : Chip) (g : Hk → Hk) : (c.setHk g).tap = c.tap := rfl
@[simp] theorem setHk_supHeld (c : Chip) (g : Hk → Hk) : (c.setHk g).supHeld = c.supHeld := rfl
@[simp] theorem setHk_harts (c : Chip) (g : Hk → Hk) : (c.setHk g).harts = c.harts := rfl
@[simp] theorem setHk_pwr (c : Chip) (g : Hk → Hk) : (c.setHk g).pwr = c.pwr := rfl
@[simp] theorem setHk_railBad (c : Chip) (g : Hk → Hk) : (c.setHk g).railBad = c.railBad := rfl
@[simp] theorem setHk_hk (c : Chip) (g : Hk → Hk) : (c.setHk g).hk = g c.hk := rfl
@[simp] theorem setHk_rd (c : Chip) (g : Hk → Hk) (x : Fld) : (c.setHk g).rd x = c.rd x := rfl

/-! `setTh` changes `th` alone. -/

@[simp] theorem setTh_regs (c : Chip) (g : Th → Th) : (c.setTh g).regs = c.regs := rfl
@[simp] theorem setTh_shadow (c : Chip) (g : Th → Th) : (c.setTh g).shadow = c.shadow := rfl
@[simp] theorem setTh_claims (c : Chip) (g : Th → Th) : (c.setTh g).claims = c.claims := rfl
@[simp] theorem setTh_bus (c : Chip) (g : Th → Th) : (c.setTh g).bus = c.bus := rfl
@[simp] theorem setTh_freeCtr (c : Chip) (g : Th → Th) : (c.setTh g).freeCtr = c.freeCtr := rfl
@[simp] theorem setTh_flt (c : Chip) (g : Th → Th) : (c.setTh g).flt = c.flt := rfl
@[simp] theorem setTh_int (c : Chip) (g : Th → Th) : (c.setTh g).int = c.int := rfl
@[simp] theorem setTh_air (c : Chip) (g : Th → Th) : (c.setTh g).air = c.air := rfl
@[simp] theorem setTh_img (c : Chip) (g : Th → Th) : (c.setTh g).img = c.img := rfl
@[simp] theorem setTh_bridges (c : Chip) (g : Th → Th) : (c.setTh g).bridges = c.bridges := rfl
@[simp] theorem setTh_smp (c : Chip) (g : Th → Th) : (c.setTh g).smp = c.smp := rfl
@[simp] theorem setTh_adc (c : Chip) (g : Th → Th) : (c.setTh g).adc = c.adc := rfl
@[simp] theorem setTh_dac (c : Chip) (g : Th → Th) : (c.setTh g).dac = c.dac := rfl
@[simp] theorem setTh_rxLost (c : Chip) (g : Th → Th) : (c.setTh g).rxLost = c.rxLost := rfl
@[simp] theorem setTh_comb (c : Chip) (g : Th → Th) : (c.setTh g).comb = c.comb := rfl
@[simp] theorem setTh_dacFlit (c : Chip) (g : Th → Th) : (c.setTh g).dacFlit = c.dacFlit := rfl
@[simp] theorem setTh_laneSusp (c : Chip) (g : Th → Th) : (c.setTh g).laneSusp = c.laneSusp := rfl
@[simp] theorem setTh_sqs (c : Chip) (g : Th → Th) : (c.setTh g).sqs = c.sqs := rfl
@[simp] theorem setTh_ranks (c : Chip) (g : Th → Th) : (c.setTh g).ranks = c.ranks := rfl
@[simp] theorem setTh_prt (c : Chip) (g : Th → Th) : (c.setTh g).prt = c.prt := rfl
@[simp] theorem setTh_gpl (c : Chip) (g : Th → Th) : (c.setTh g).gpl = c.gpl := rfl
@[simp] theorem setTh_ten (c : Chip) (g : Th → Th) : (c.setTh g).ten = c.ten := rfl
@[simp] theorem setTh_rxGain (c : Chip) (g : Th → Th) : (c.setTh g).rxGain = c.rxGain := rfl
@[simp] theorem setTh_cnvs (c : Chip) (g : Th → Th) : (c.setTh g).cnvs = c.cnvs := rfl
@[simp] theorem setTh_rffes (c : Chip) (g : Th → Th) : (c.setTh g).rffes = c.rffes := rfl
@[simp] theorem setTh_chl (c : Chip) (g : Th → Th) : (c.setTh g).chl = c.chl := rfl
@[simp] theorem setTh_trTaken (c : Chip) (g : Th → Th) : (c.setTh g).trTaken = c.trTaken := rfl
@[simp] theorem setTh_trLive (c : Chip) (g : Th → Th) : (c.setTh g).trLive = c.trLive := rfl
@[simp] theorem setTh_trLevel (c : Chip) (g : Th → Th) : (c.setTh g).trLevel = c.trLevel := rfl
@[simp] theorem setTh_trAt (c : Chip) (g : Th → Th) : (c.setTh g).trAt = c.trAt := rfl
@[simp] theorem setTh_refIn (c : Chip) (g : Th → Th) : (c.setTh g).refIn = c.refIn := rfl
@[simp] theorem setTh_zmd (c : Chip) (g : Th → Th) : (c.setTh g).zmd = c.zmd := rfl
@[simp] theorem setTh_pwms (c : Chip) (g : Th → Th) : (c.setTh g).pwms = c.pwms := rfl
@[simp] theorem setTh_hk (c : Chip) (g : Th → Th) : (c.setTh g).hk = c.hk := rfl
@[simp] theorem setTh_mirSeen (c : Chip) (g : Th → Th) : (c.setTh g).mirSeen = c.mirSeen := rfl
@[simp] theorem setTh_cap (c : Chip) (g : Th → Th) : (c.setTh g).cap = c.cap := rfl
@[simp] theorem setTh_tap (c : Chip) (g : Th → Th) : (c.setTh g).tap = c.tap := rfl
@[simp] theorem setTh_supHeld (c : Chip) (g : Th → Th) : (c.setTh g).supHeld = c.supHeld := rfl
@[simp] theorem setTh_harts (c : Chip) (g : Th → Th) : (c.setTh g).harts = c.harts := rfl
@[simp] theorem setTh_pwr (c : Chip) (g : Th → Th) : (c.setTh g).pwr = c.pwr := rfl
@[simp] theorem setTh_railBad (c : Chip) (g : Th → Th) : (c.setTh g).railBad = c.railBad := rfl
@[simp] theorem setTh_th (c : Chip) (g : Th → Th) : (c.setTh g).th = g c.th := rfl
@[simp] theorem setTh_rd (c : Chip) (g : Th → Th) (x : Fld) : (c.setTh g).rd x = c.rd x := rfl

/-! `setPw` changes `pwms` alone. -/

@[simp] theorem setPw_regs (c : Chip) (n : Nat) (g : Pwm → Pwm) : (c.setPw n g).regs = c.regs := rfl
@[simp] theorem setPw_shadow (c : Chip) (n : Nat) (g : Pwm → Pwm) : (c.setPw n g).shadow = c.shadow := rfl
@[simp] theorem setPw_claims (c : Chip) (n : Nat) (g : Pwm → Pwm) : (c.setPw n g).claims = c.claims := rfl
@[simp] theorem setPw_bus (c : Chip) (n : Nat) (g : Pwm → Pwm) : (c.setPw n g).bus = c.bus := rfl
@[simp] theorem setPw_freeCtr (c : Chip) (n : Nat) (g : Pwm → Pwm) : (c.setPw n g).freeCtr = c.freeCtr := rfl
@[simp] theorem setPw_flt (c : Chip) (n : Nat) (g : Pwm → Pwm) : (c.setPw n g).flt = c.flt := rfl
@[simp] theorem setPw_int (c : Chip) (n : Nat) (g : Pwm → Pwm) : (c.setPw n g).int = c.int := rfl
@[simp] theorem setPw_air (c : Chip) (n : Nat) (g : Pwm → Pwm) : (c.setPw n g).air = c.air := rfl
@[simp] theorem setPw_img (c : Chip) (n : Nat) (g : Pwm → Pwm) : (c.setPw n g).img = c.img := rfl
@[simp] theorem setPw_bridges (c : Chip) (n : Nat) (g : Pwm → Pwm) : (c.setPw n g).bridges = c.bridges := rfl
@[simp] theorem setPw_smp (c : Chip) (n : Nat) (g : Pwm → Pwm) : (c.setPw n g).smp = c.smp := rfl
@[simp] theorem setPw_adc (c : Chip) (n : Nat) (g : Pwm → Pwm) : (c.setPw n g).adc = c.adc := rfl
@[simp] theorem setPw_dac (c : Chip) (n : Nat) (g : Pwm → Pwm) : (c.setPw n g).dac = c.dac := rfl
@[simp] theorem setPw_rxLost (c : Chip) (n : Nat) (g : Pwm → Pwm) : (c.setPw n g).rxLost = c.rxLost := rfl
@[simp] theorem setPw_comb (c : Chip) (n : Nat) (g : Pwm → Pwm) : (c.setPw n g).comb = c.comb := rfl
@[simp] theorem setPw_dacFlit (c : Chip) (n : Nat) (g : Pwm → Pwm) : (c.setPw n g).dacFlit = c.dacFlit := rfl
@[simp] theorem setPw_laneSusp (c : Chip) (n : Nat) (g : Pwm → Pwm) : (c.setPw n g).laneSusp = c.laneSusp := rfl
@[simp] theorem setPw_sqs (c : Chip) (n : Nat) (g : Pwm → Pwm) : (c.setPw n g).sqs = c.sqs := rfl
@[simp] theorem setPw_ranks (c : Chip) (n : Nat) (g : Pwm → Pwm) : (c.setPw n g).ranks = c.ranks := rfl
@[simp] theorem setPw_prt (c : Chip) (n : Nat) (g : Pwm → Pwm) : (c.setPw n g).prt = c.prt := rfl
@[simp] theorem setPw_gpl (c : Chip) (n : Nat) (g : Pwm → Pwm) : (c.setPw n g).gpl = c.gpl := rfl
@[simp] theorem setPw_ten (c : Chip) (n : Nat) (g : Pwm → Pwm) : (c.setPw n g).ten = c.ten := rfl
@[simp] theorem setPw_rxGain (c : Chip) (n : Nat) (g : Pwm → Pwm) : (c.setPw n g).rxGain = c.rxGain := rfl
@[simp] theorem setPw_cnvs (c : Chip) (n : Nat) (g : Pwm → Pwm) : (c.setPw n g).cnvs = c.cnvs := rfl
@[simp] theorem setPw_rffes (c : Chip) (n : Nat) (g : Pwm → Pwm) : (c.setPw n g).rffes = c.rffes := rfl
@[simp] theorem setPw_chl (c : Chip) (n : Nat) (g : Pwm → Pwm) : (c.setPw n g).chl = c.chl := rfl
@[simp] theorem setPw_trTaken (c : Chip) (n : Nat) (g : Pwm → Pwm) : (c.setPw n g).trTaken = c.trTaken := rfl
@[simp] theorem setPw_trLive (c : Chip) (n : Nat) (g : Pwm → Pwm) : (c.setPw n g).trLive = c.trLive := rfl
@[simp] theorem setPw_trLevel (c : Chip) (n : Nat) (g : Pwm → Pwm) : (c.setPw n g).trLevel = c.trLevel := rfl
@[simp] theorem setPw_trAt (c : Chip) (n : Nat) (g : Pwm → Pwm) : (c.setPw n g).trAt = c.trAt := rfl
@[simp] theorem setPw_refIn (c : Chip) (n : Nat) (g : Pwm → Pwm) : (c.setPw n g).refIn = c.refIn := rfl
@[simp] theorem setPw_zmd (c : Chip) (n : Nat) (g : Pwm → Pwm) : (c.setPw n g).zmd = c.zmd := rfl
@[simp] theorem setPw_hk (c : Chip) (n : Nat) (g : Pwm → Pwm) : (c.setPw n g).hk = c.hk := rfl
@[simp] theorem setPw_th (c : Chip) (n : Nat) (g : Pwm → Pwm) : (c.setPw n g).th = c.th := rfl
@[simp] theorem setPw_mirSeen (c : Chip) (n : Nat) (g : Pwm → Pwm) : (c.setPw n g).mirSeen = c.mirSeen := rfl
@[simp] theorem setPw_cap (c : Chip) (n : Nat) (g : Pwm → Pwm) : (c.setPw n g).cap = c.cap := rfl
@[simp] theorem setPw_tap (c : Chip) (n : Nat) (g : Pwm → Pwm) : (c.setPw n g).tap = c.tap := rfl
@[simp] theorem setPw_supHeld (c : Chip) (n : Nat) (g : Pwm → Pwm) : (c.setPw n g).supHeld = c.supHeld := rfl
@[simp] theorem setPw_harts (c : Chip) (n : Nat) (g : Pwm → Pwm) : (c.setPw n g).harts = c.harts := rfl
@[simp] theorem setPw_pwr (c : Chip) (n : Nat) (g : Pwm → Pwm) : (c.setPw n g).pwr = c.pwr := rfl
@[simp] theorem setPw_railBad (c : Chip) (n : Nat) (g : Pwm → Pwm) : (c.setPw n g).railBad = c.railBad := rfl
@[simp] theorem setPw_rd (c : Chip) (n : Nat) (g : Pwm → Pwm) (x : Fld) : (c.setPw n g).rd x = c.rd x := rfl

/-! `setZmd` changes `zmd` alone. -/

@[simp] theorem setZmd_regs (c : Chip) (g : Zmd → Zmd) : (c.setZmd g).regs = c.regs := rfl
@[simp] theorem setZmd_shadow (c : Chip) (g : Zmd → Zmd) : (c.setZmd g).shadow = c.shadow := rfl
@[simp] theorem setZmd_claims (c : Chip) (g : Zmd → Zmd) : (c.setZmd g).claims = c.claims := rfl
@[simp] theorem setZmd_bus (c : Chip) (g : Zmd → Zmd) : (c.setZmd g).bus = c.bus := rfl
@[simp] theorem setZmd_freeCtr (c : Chip) (g : Zmd → Zmd) : (c.setZmd g).freeCtr = c.freeCtr := rfl
@[simp] theorem setZmd_flt (c : Chip) (g : Zmd → Zmd) : (c.setZmd g).flt = c.flt := rfl
@[simp] theorem setZmd_int (c : Chip) (g : Zmd → Zmd) : (c.setZmd g).int = c.int := rfl
@[simp] theorem setZmd_air (c : Chip) (g : Zmd → Zmd) : (c.setZmd g).air = c.air := rfl
@[simp] theorem setZmd_img (c : Chip) (g : Zmd → Zmd) : (c.setZmd g).img = c.img := rfl
@[simp] theorem setZmd_bridges (c : Chip) (g : Zmd → Zmd) : (c.setZmd g).bridges = c.bridges := rfl
@[simp] theorem setZmd_smp (c : Chip) (g : Zmd → Zmd) : (c.setZmd g).smp = c.smp := rfl
@[simp] theorem setZmd_adc (c : Chip) (g : Zmd → Zmd) : (c.setZmd g).adc = c.adc := rfl
@[simp] theorem setZmd_dac (c : Chip) (g : Zmd → Zmd) : (c.setZmd g).dac = c.dac := rfl
@[simp] theorem setZmd_rxLost (c : Chip) (g : Zmd → Zmd) : (c.setZmd g).rxLost = c.rxLost := rfl
@[simp] theorem setZmd_comb (c : Chip) (g : Zmd → Zmd) : (c.setZmd g).comb = c.comb := rfl
@[simp] theorem setZmd_dacFlit (c : Chip) (g : Zmd → Zmd) : (c.setZmd g).dacFlit = c.dacFlit := rfl
@[simp] theorem setZmd_laneSusp (c : Chip) (g : Zmd → Zmd) : (c.setZmd g).laneSusp = c.laneSusp := rfl
@[simp] theorem setZmd_sqs (c : Chip) (g : Zmd → Zmd) : (c.setZmd g).sqs = c.sqs := rfl
@[simp] theorem setZmd_ranks (c : Chip) (g : Zmd → Zmd) : (c.setZmd g).ranks = c.ranks := rfl
@[simp] theorem setZmd_prt (c : Chip) (g : Zmd → Zmd) : (c.setZmd g).prt = c.prt := rfl
@[simp] theorem setZmd_gpl (c : Chip) (g : Zmd → Zmd) : (c.setZmd g).gpl = c.gpl := rfl
@[simp] theorem setZmd_ten (c : Chip) (g : Zmd → Zmd) : (c.setZmd g).ten = c.ten := rfl
@[simp] theorem setZmd_rxGain (c : Chip) (g : Zmd → Zmd) : (c.setZmd g).rxGain = c.rxGain := rfl
@[simp] theorem setZmd_cnvs (c : Chip) (g : Zmd → Zmd) : (c.setZmd g).cnvs = c.cnvs := rfl
@[simp] theorem setZmd_rffes (c : Chip) (g : Zmd → Zmd) : (c.setZmd g).rffes = c.rffes := rfl
@[simp] theorem setZmd_chl (c : Chip) (g : Zmd → Zmd) : (c.setZmd g).chl = c.chl := rfl
@[simp] theorem setZmd_trTaken (c : Chip) (g : Zmd → Zmd) : (c.setZmd g).trTaken = c.trTaken := rfl
@[simp] theorem setZmd_trLive (c : Chip) (g : Zmd → Zmd) : (c.setZmd g).trLive = c.trLive := rfl
@[simp] theorem setZmd_trLevel (c : Chip) (g : Zmd → Zmd) : (c.setZmd g).trLevel = c.trLevel := rfl
@[simp] theorem setZmd_trAt (c : Chip) (g : Zmd → Zmd) : (c.setZmd g).trAt = c.trAt := rfl
@[simp] theorem setZmd_refIn (c : Chip) (g : Zmd → Zmd) : (c.setZmd g).refIn = c.refIn := rfl
@[simp] theorem setZmd_pwms (c : Chip) (g : Zmd → Zmd) : (c.setZmd g).pwms = c.pwms := rfl
@[simp] theorem setZmd_hk (c : Chip) (g : Zmd → Zmd) : (c.setZmd g).hk = c.hk := rfl
@[simp] theorem setZmd_th (c : Chip) (g : Zmd → Zmd) : (c.setZmd g).th = c.th := rfl
@[simp] theorem setZmd_mirSeen (c : Chip) (g : Zmd → Zmd) : (c.setZmd g).mirSeen = c.mirSeen := rfl
@[simp] theorem setZmd_cap (c : Chip) (g : Zmd → Zmd) : (c.setZmd g).cap = c.cap := rfl
@[simp] theorem setZmd_tap (c : Chip) (g : Zmd → Zmd) : (c.setZmd g).tap = c.tap := rfl
@[simp] theorem setZmd_supHeld (c : Chip) (g : Zmd → Zmd) : (c.setZmd g).supHeld = c.supHeld := rfl
@[simp] theorem setZmd_harts (c : Chip) (g : Zmd → Zmd) : (c.setZmd g).harts = c.harts := rfl
@[simp] theorem setZmd_pwr (c : Chip) (g : Zmd → Zmd) : (c.setZmd g).pwr = c.pwr := rfl
@[simp] theorem setZmd_railBad (c : Chip) (g : Zmd → Zmd) : (c.setZmd g).railBad = c.railBad := rfl
@[simp] theorem setZmd_rd (c : Chip) (g : Zmd → Zmd) (x : Fld) : (c.setZmd g).rd x = c.rd x := rfl

/-! `setCap` changes `cap` alone. -/

@[simp] theorem setCap_regs (c : Chip) (g : Cap → Cap) : (c.setCap g).regs = c.regs := rfl
@[simp] theorem setCap_shadow (c : Chip) (g : Cap → Cap) : (c.setCap g).shadow = c.shadow := rfl
@[simp] theorem setCap_claims (c : Chip) (g : Cap → Cap) : (c.setCap g).claims = c.claims := rfl
@[simp] theorem setCap_bus (c : Chip) (g : Cap → Cap) : (c.setCap g).bus = c.bus := rfl
@[simp] theorem setCap_freeCtr (c : Chip) (g : Cap → Cap) : (c.setCap g).freeCtr = c.freeCtr := rfl
@[simp] theorem setCap_flt (c : Chip) (g : Cap → Cap) : (c.setCap g).flt = c.flt := rfl
@[simp] theorem setCap_int (c : Chip) (g : Cap → Cap) : (c.setCap g).int = c.int := rfl
@[simp] theorem setCap_air (c : Chip) (g : Cap → Cap) : (c.setCap g).air = c.air := rfl
@[simp] theorem setCap_img (c : Chip) (g : Cap → Cap) : (c.setCap g).img = c.img := rfl
@[simp] theorem setCap_bridges (c : Chip) (g : Cap → Cap) : (c.setCap g).bridges = c.bridges := rfl
@[simp] theorem setCap_smp (c : Chip) (g : Cap → Cap) : (c.setCap g).smp = c.smp := rfl
@[simp] theorem setCap_adc (c : Chip) (g : Cap → Cap) : (c.setCap g).adc = c.adc := rfl
@[simp] theorem setCap_dac (c : Chip) (g : Cap → Cap) : (c.setCap g).dac = c.dac := rfl
@[simp] theorem setCap_rxLost (c : Chip) (g : Cap → Cap) : (c.setCap g).rxLost = c.rxLost := rfl
@[simp] theorem setCap_comb (c : Chip) (g : Cap → Cap) : (c.setCap g).comb = c.comb := rfl
@[simp] theorem setCap_dacFlit (c : Chip) (g : Cap → Cap) : (c.setCap g).dacFlit = c.dacFlit := rfl
@[simp] theorem setCap_laneSusp (c : Chip) (g : Cap → Cap) : (c.setCap g).laneSusp = c.laneSusp := rfl
@[simp] theorem setCap_sqs (c : Chip) (g : Cap → Cap) : (c.setCap g).sqs = c.sqs := rfl
@[simp] theorem setCap_ranks (c : Chip) (g : Cap → Cap) : (c.setCap g).ranks = c.ranks := rfl
@[simp] theorem setCap_prt (c : Chip) (g : Cap → Cap) : (c.setCap g).prt = c.prt := rfl
@[simp] theorem setCap_gpl (c : Chip) (g : Cap → Cap) : (c.setCap g).gpl = c.gpl := rfl
@[simp] theorem setCap_ten (c : Chip) (g : Cap → Cap) : (c.setCap g).ten = c.ten := rfl
@[simp] theorem setCap_rxGain (c : Chip) (g : Cap → Cap) : (c.setCap g).rxGain = c.rxGain := rfl
@[simp] theorem setCap_cnvs (c : Chip) (g : Cap → Cap) : (c.setCap g).cnvs = c.cnvs := rfl
@[simp] theorem setCap_rffes (c : Chip) (g : Cap → Cap) : (c.setCap g).rffes = c.rffes := rfl
@[simp] theorem setCap_chl (c : Chip) (g : Cap → Cap) : (c.setCap g).chl = c.chl := rfl
@[simp] theorem setCap_trTaken (c : Chip) (g : Cap → Cap) : (c.setCap g).trTaken = c.trTaken := rfl
@[simp] theorem setCap_trLive (c : Chip) (g : Cap → Cap) : (c.setCap g).trLive = c.trLive := rfl
@[simp] theorem setCap_trLevel (c : Chip) (g : Cap → Cap) : (c.setCap g).trLevel = c.trLevel := rfl
@[simp] theorem setCap_trAt (c : Chip) (g : Cap → Cap) : (c.setCap g).trAt = c.trAt := rfl
@[simp] theorem setCap_refIn (c : Chip) (g : Cap → Cap) : (c.setCap g).refIn = c.refIn := rfl
@[simp] theorem setCap_zmd (c : Chip) (g : Cap → Cap) : (c.setCap g).zmd = c.zmd := rfl
@[simp] theorem setCap_pwms (c : Chip) (g : Cap → Cap) : (c.setCap g).pwms = c.pwms := rfl
@[simp] theorem setCap_hk (c : Chip) (g : Cap → Cap) : (c.setCap g).hk = c.hk := rfl
@[simp] theorem setCap_th (c : Chip) (g : Cap → Cap) : (c.setCap g).th = c.th := rfl
@[simp] theorem setCap_mirSeen (c : Chip) (g : Cap → Cap) : (c.setCap g).mirSeen = c.mirSeen := rfl
@[simp] theorem setCap_tap (c : Chip) (g : Cap → Cap) : (c.setCap g).tap = c.tap := rfl
@[simp] theorem setCap_supHeld (c : Chip) (g : Cap → Cap) : (c.setCap g).supHeld = c.supHeld := rfl
@[simp] theorem setCap_harts (c : Chip) (g : Cap → Cap) : (c.setCap g).harts = c.harts := rfl
@[simp] theorem setCap_pwr (c : Chip) (g : Cap → Cap) : (c.setCap g).pwr = c.pwr := rfl
@[simp] theorem setCap_railBad (c : Chip) (g : Cap → Cap) : (c.setCap g).railBad = c.railBad := rfl
@[simp] theorem setCap_cap (c : Chip) (g : Cap → Cap) : (c.setCap g).cap = g c.cap := rfl
@[simp] theorem setCap_rd (c : Chip) (g : Cap → Cap) (x : Fld) : (c.setCap g).rd x = c.rd x := rfl

/-! `setChl` changes `chl` alone. -/

@[simp] theorem setChl_regs (c : Chip) (g : Chl → Chl) : (c.setChl g).regs = c.regs := rfl
@[simp] theorem setChl_shadow (c : Chip) (g : Chl → Chl) : (c.setChl g).shadow = c.shadow := rfl
@[simp] theorem setChl_claims (c : Chip) (g : Chl → Chl) : (c.setChl g).claims = c.claims := rfl
@[simp] theorem setChl_bus (c : Chip) (g : Chl → Chl) : (c.setChl g).bus = c.bus := rfl
@[simp] theorem setChl_freeCtr (c : Chip) (g : Chl → Chl) : (c.setChl g).freeCtr = c.freeCtr := rfl
@[simp] theorem setChl_flt (c : Chip) (g : Chl → Chl) : (c.setChl g).flt = c.flt := rfl
@[simp] theorem setChl_int (c : Chip) (g : Chl → Chl) : (c.setChl g).int = c.int := rfl
@[simp] theorem setChl_air (c : Chip) (g : Chl → Chl) : (c.setChl g).air = c.air := rfl
@[simp] theorem setChl_img (c : Chip) (g : Chl → Chl) : (c.setChl g).img = c.img := rfl
@[simp] theorem setChl_bridges (c : Chip) (g : Chl → Chl) : (c.setChl g).bridges = c.bridges := rfl
@[simp] theorem setChl_smp (c : Chip) (g : Chl → Chl) : (c.setChl g).smp = c.smp := rfl
@[simp] theorem setChl_adc (c : Chip) (g : Chl → Chl) : (c.setChl g).adc = c.adc := rfl
@[simp] theorem setChl_dac (c : Chip) (g : Chl → Chl) : (c.setChl g).dac = c.dac := rfl
@[simp] theorem setChl_rxLost (c : Chip) (g : Chl → Chl) : (c.setChl g).rxLost = c.rxLost := rfl
@[simp] theorem setChl_comb (c : Chip) (g : Chl → Chl) : (c.setChl g).comb = c.comb := rfl
@[simp] theorem setChl_dacFlit (c : Chip) (g : Chl → Chl) : (c.setChl g).dacFlit = c.dacFlit := rfl
@[simp] theorem setChl_laneSusp (c : Chip) (g : Chl → Chl) : (c.setChl g).laneSusp = c.laneSusp := rfl
@[simp] theorem setChl_sqs (c : Chip) (g : Chl → Chl) : (c.setChl g).sqs = c.sqs := rfl
@[simp] theorem setChl_ranks (c : Chip) (g : Chl → Chl) : (c.setChl g).ranks = c.ranks := rfl
@[simp] theorem setChl_prt (c : Chip) (g : Chl → Chl) : (c.setChl g).prt = c.prt := rfl
@[simp] theorem setChl_gpl (c : Chip) (g : Chl → Chl) : (c.setChl g).gpl = c.gpl := rfl
@[simp] theorem setChl_ten (c : Chip) (g : Chl → Chl) : (c.setChl g).ten = c.ten := rfl
@[simp] theorem setChl_rxGain (c : Chip) (g : Chl → Chl) : (c.setChl g).rxGain = c.rxGain := rfl
@[simp] theorem setChl_cnvs (c : Chip) (g : Chl → Chl) : (c.setChl g).cnvs = c.cnvs := rfl
@[simp] theorem setChl_rffes (c : Chip) (g : Chl → Chl) : (c.setChl g).rffes = c.rffes := rfl
@[simp] theorem setChl_trTaken (c : Chip) (g : Chl → Chl) : (c.setChl g).trTaken = c.trTaken := rfl
@[simp] theorem setChl_trLive (c : Chip) (g : Chl → Chl) : (c.setChl g).trLive = c.trLive := rfl
@[simp] theorem setChl_trLevel (c : Chip) (g : Chl → Chl) : (c.setChl g).trLevel = c.trLevel := rfl
@[simp] theorem setChl_trAt (c : Chip) (g : Chl → Chl) : (c.setChl g).trAt = c.trAt := rfl
@[simp] theorem setChl_refIn (c : Chip) (g : Chl → Chl) : (c.setChl g).refIn = c.refIn := rfl
@[simp] theorem setChl_zmd (c : Chip) (g : Chl → Chl) : (c.setChl g).zmd = c.zmd := rfl
@[simp] theorem setChl_pwms (c : Chip) (g : Chl → Chl) : (c.setChl g).pwms = c.pwms := rfl
@[simp] theorem setChl_hk (c : Chip) (g : Chl → Chl) : (c.setChl g).hk = c.hk := rfl
@[simp] theorem setChl_th (c : Chip) (g : Chl → Chl) : (c.setChl g).th = c.th := rfl
@[simp] theorem setChl_mirSeen (c : Chip) (g : Chl → Chl) : (c.setChl g).mirSeen = c.mirSeen := rfl
@[simp] theorem setChl_cap (c : Chip) (g : Chl → Chl) : (c.setChl g).cap = c.cap := rfl
@[simp] theorem setChl_tap (c : Chip) (g : Chl → Chl) : (c.setChl g).tap = c.tap := rfl
@[simp] theorem setChl_supHeld (c : Chip) (g : Chl → Chl) : (c.setChl g).supHeld = c.supHeld := rfl
@[simp] theorem setChl_harts (c : Chip) (g : Chl → Chl) : (c.setChl g).harts = c.harts := rfl
@[simp] theorem setChl_pwr (c : Chip) (g : Chl → Chl) : (c.setChl g).pwr = c.pwr := rfl
@[simp] theorem setChl_railBad (c : Chip) (g : Chl → Chl) : (c.setChl g).railBad = c.railBad := rfl
@[simp] theorem setChl_chl (c : Chip) (g : Chl → Chl) : (c.setChl g).chl = g c.chl := rfl
@[simp] theorem setChl_rd (c : Chip) (g : Chl → Chl) (x : Fld) : (c.setChl g).rd x = c.rd x := rfl

/-- Read after write (R5). -/
@[simp] theorem rd_wr_same (c : Chip) (f : Fld) (v : Nat) : (c.wr f v).rd f = v % 2 ^ f.wd := SMap.get_put_same ..

/-- A write leaves every field of another key. -/
theorem rd_wr_ne (c : Chip) {f x : Fld} (v : Nat) (h : x.key ≠ f.key) : (c.wr f v).rd x = c.rd x := SMap.get_put_ne _ _ _ _ h

/-- Read after a write of any field. -/
theorem rd_wr (c : Chip) (f x : Fld) (v : Nat) (hd : x.key = f.key → x = f) :
    (c.wr f v).rd x = if x.key = f.key then v % 2 ^ f.wd else c.rd x := by
  split
  · rename_i h; rw [hd h, rd_wr_same]
  · rename_i h; exact rd_wr_ne c v h

@[simp] theorem raise_eq (c : Chip) (f : Fld) : c.raise f = c.wr f 1 := rfl
@[simp] theorem wrB_eq (c : Chip) (f : Fld) (b : Bool) : c.wrB f b = c.wr f (b2n b) := rfl
@[simp] theorem when_true (c : Chip) (g : Chip → Chip) : c.when true g = g c := rfl
@[simp] theorem when_false (c : Chip) (g : Chip → Chip) : c.when false g = c := rfl

end Sys2Proof.Machine
end

