-- ==== Sys2Proof/Laws/Lift.lean ====
section
/-!
SUPPORT. How a command's effect on the block becomes an outcome: events of the board die, of AIR, of the package, and accesses.
-/

namespace Sys2Proof.Machine

/-- An event of the board die while its clocks run. -/
theorem onChip_running {s : State} (h : s.chip.running = true) (g : Chip → Chip) :
    s.onChip g = .next { s with chip := g s.chip } := by
  simp [State.onChip, h]

/-- An event of the board die while it is held in reset or asleep does nothing. -/
theorem onChip_held {s : State} (h : s.chip.running = false) (g : Chip → Chip) : s.onChip g = .next s := by
  simp [State.onChip, h]

/-- An event of AIR outside reset. -/
theorem onAir_out {s : State} (h : s.chip.inReset = false) (g : Chip → Chip) :
    s.onAir g = .next { s with chip := g s.chip } := by
  simp [State.onAir, h]

/-- An event of AIR in reset does nothing. -/
theorem onAir_reset {s : State} (h : s.chip.inReset = true) (g : Chip → Chip) : s.onAir g = .next s := by
  simp [State.onAir, h]

/-- An event of the package. -/
theorem onPkg_eq (s : State) (g : Chip → Chip) : s.onPkg g = .next { s with chip := g s.chip } := rfl

/-- An access that raised no exception traps nothing. -/
theorem coreTrap_none {c : Chip} (h : c.bus.exc = none) (q : Requester) : c.coreTrap q = c := by
  cases q <;> simp [Chip.coreTrap, h]

/-- Only cores trap. -/
theorem coreTrap_other {q : Requester} (h : q.isCore = false) (c : Chip) : c.coreTrap q = c := by
  cases q <;> simp_all [Chip.coreTrap, Requester.isCore]

/-- An access that reaches the block. -/
theorem onAccess_reach {s : State} {q : Requester} (h : s.chip.reachable q = true) (g : Chip → Chip) :
    s.onAccess q g = .next { s with chip := (g (s.chip.woken q)).coreTrap q } := by
  simp [State.onAccess, h]

/-- An access that does not reach the block does nothing. -/
theorem onAccess_lost {s : State} {q : Requester} (h : s.chip.reachable q = false) (g : Chip → Chip) :
    s.onAccess q g = .next s := by
  simp [State.onAccess, h]

/-- A write that reaches its register and is allowed. -/
theorem onAccess_write {s : State} {q : Requester} {a : Nat} (h : MayWrite s q a) (g : Chip → Chip) :
    (s.onAccess q fun c => c.write q a g) = .next { s with chip := (g ((s.chip.woken q).respond q 0)).coreTrap q } := by
  rw [onAccess_reach h.1.1]
  simp [Chip.write, h.1.2, h.2]

/-- A read that reaches its register and is allowed. -/
theorem onAccess_read {s : State} {q : Requester} {a : Nat} (h : MayRead s q a) (hf : Half) (v : Chip → Nat) (g : Chip → Chip) :
    (s.onAccess q fun c => c.read q a hf v g) =
      .next { s with chip := (g ((s.chip.woken q).respond q (hf.data (v (s.chip.woken q))))).coreTrap q } := by
  rw [onAccess_reach h.1.1]
  simp [Chip.read, h.1.2, h.2]

end Sys2Proof.Machine
end

