-- ==== Sys2Proof/Laws/Frame.lean ====
section
/-!
SUPPORT. The calculus of frames: which register fields a chain of updates can change.
-/

namespace Sys2Proof.Machine

/-- Nothing changed. -/
theorem keeps_refl (c : Chip) (l : List Fld) : Keeps c c l := fun _ _ => rfl

/-- Frames compose. -/
theorem keeps_trans {c d e : Chip} {l : List Fld} (h : Keeps c d l) (h' : Keeps d e l) : Keeps c e l :=
  fun f hf => (h' f hf).trans (h f hf)

/-- A larger list keeps less. -/
theorem keeps_mono {c d : Chip} {l m : List Fld} (h : Keeps c d l) (hs : ∀ g ∈ l, g ∈ m) : Keeps c d m :=
  fun f hf => h f fun g hg => hf g (hs g hg)

/-- What leaves the register store alone keeps every field. -/
theorem keeps_of_regs {c d : Chip} (l : List Fld) (h : d.regs = c.regs) : Keeps c d l := fun f _ => by simp [Chip.rd, h]

/-- A write of a listed field. -/
theorem keeps_wr {c : Chip} {f : Fld} {l : List Fld} (h : f ∈ l) (v : Nat) : Keeps c (c.wr f v) l :=
  fun _ hx => rd_wr_ne c v (hx f h)

/-- A chain ending in a write of a listed field. -/
theorem keeps_wr_of {c d : Chip} {f : Fld} {l : List Fld} (h : Keeps c d l) (hm : f ∈ l) (v : Nat) : Keeps c (d.wr f v) l :=
  keeps_trans h (keeps_wr hm v)

/-- A chain ending in a count. -/
theorem keeps_inc_of {c d : Chip} {f : Fld} {l : List Fld} (h : Keeps c d l) (hm : f ∈ l) (k : Nat) : Keeps c (d.inc f k) l :=
  keeps_wr_of h hm _

/-- A conditional step. -/
theorem keeps_when_of {c d : Chip} {g : Chip → Chip} {l : List Fld} (h : Keeps c d l) (b : Bool) (hg : Keeps d (g d) l) :
    Keeps c (d.when b g) l := by
  cases b
  · exact h
  · exact keeps_trans h hg

/-- Steps over a list of numbers. -/
theorem keeps_forEach_of {c d : Chip} {g : Nat → Chip → Chip} {l : List Fld} (ks : List Nat) (h : Keeps c d l)
    (hg : ∀ k ∈ ks, ∀ e : Chip, Keeps e (g k e) l) : Keeps c (d.forEach ks g) l := by
  induction ks generalizing d with
  | nil => exact h
  | cons k ks ih =>
    exact ih (keeps_trans h (hg k (by simp) d)) fun j hj => hg j (by simp [hj])

end Sys2Proof.Machine
end

