-- ==== Sys2Proof/Laws/Memory.lean ====
section
/-!
SUPPORT. Laws of the byte memories: the canonical form is kept, a byte written is read, and every other byte stays.
-/

namespace Sys2Proof.Machine

/-- A write keeps the canonical form. -/
theorem wf_memWrite {m : List Host.Cell} (h : Memory.wf m = true) (a v k : Nat) : Memory.wf (memWrite m a v k) = true := by
  induction k generalizing m a v with
  | zero => exact h
  | succ k ih => exact ih (SMap.wf_put _ h _ _) _ _

/-- A store keeps the canonical form. -/
theorem wf_memStore {s : State} (h : Memory.wf s.mem = true) (k : Option Nat) (a n v : Nat) :
    Memory.wf (s.memStore k a n v).mem = true := wf_memWrite h _ _ _

/-- An access to the memories keeps the canonical form. -/
theorem wf_memAccess {s : State} (h : Memory.wf s.mem = true) (x : MemAccess) : Memory.wf (s.memAccess x).mem = true := by
  unfold State.memAccess
  split
  · exact wf_memStore h (Requester.coreNum x.req) _ _ _
  · exact h

/-- A request to the memories keeps the canonical form, whether it acts or waits. -/
theorem wf_memReq {s : State} (h : Memory.wf s.mem = true) (x : MemAccess) : Memory.wf (s.memReq x).mem = true := by
  unfold State.memReq
  split
  · exact wf_memAccess h x
  · exact h

/-- A write leaves the bytes below it. -/
theorem memByte_memWrite_lt (m : List Host.Cell) (a v k b : Nat) (h : b < a) : memByte (memWrite m a v k) b = memByte m b := by
  induction k generalizing m a v with
  | zero => rfl
  | succ k ih => rw [memWrite, ih _ _ _ (by omega)]; exact SMap.get_put_ne _ _ _ _ (by omega)

/-- A write leaves the bytes above it. -/
theorem memByte_memWrite_ge (m : List Host.Cell) (a v k b : Nat) (h : a + k ≤ b) : memByte (memWrite m a v k) b = memByte m b := by
  induction k generalizing m a v with
  | zero => rfl
  | succ k ih => rw [memWrite, ih _ _ _ (by omega)]; exact SMap.get_put_ne _ _ _ _ (by omega)

/-- Byte `i` of what was written. -/
theorem memByte_memWrite_in (m : List Host.Cell) (a v k i : Nat) (h : i < k) :
    memByte (memWrite m a v k) (a + i) = BitVec.ofNat 8 (v / 256 ^ i) := by
  induction k generalizing m a v i with
  | zero => omega
  | succ k ih =>
    rw [memWrite]
    cases i with
    | zero => rw [memByte_memWrite_lt _ _ _ _ _ (by omega)]; simp [memByte]
    | succ i =>
      have := ih (SMap.put 0 m a (BitVec.ofNat 8 v)) (a + 1) (v / 256) i (by omega)
      rw [show a + (i + 1) = a + 1 + i by omega, this, Nat.div_div_eq_div_mul, Nat.pow_succ, Nat.mul_comm]

/-- Reset memory is canonical. -/
theorem wf_reset : Memory.wf State.reset.mem = true := rfl

end Sys2Proof.Machine
end

