-- ==== Sys2Proof/Laws/Hart.lean ====
section
/-!
SUPPORT. Laws of the supervisor cores: what an instruction of a core can do to the memories and to the queue.
-/

namespace Sys2Proof.Machine

/-- The memories of `t` are those of `s`, or stand in canonical form if those of `s` do; the queue is that of `s`. -/
structure CoreKeeps (s t : State) : Prop where
  queue : t.pending = s.pending
  mem : Memory.wf s.mem = true → Memory.wf t.mem = true

theorem CoreKeeps.refl (s : State) : CoreKeeps s s := ⟨rfl, id⟩

theorem CoreKeeps.trans {s t u : State} (h : CoreKeeps s t) (k : CoreKeeps t u) : CoreKeeps s u :=
  ⟨k.queue.trans h.queue, fun w => k.mem (h.mem w)⟩

/-- What changes only the block keeps both. -/
theorem CoreKeeps.chip (s : State) (c : Chip) : CoreKeeps s { s with chip := c } := ⟨rfl, id⟩

theorem CoreKeeps.hart (s : State) (k : Nat) (g : Hart → Hart) : CoreKeeps s (s.setHart k g) := ⟨rfl, id⟩

theorem CoreKeeps.store (s : State) (k : Option Nat) (a n v : Nat) : CoreKeeps s (s.memStore k a n v) :=
  ⟨rfl, fun w => wf_memStore w _ _ _ _⟩

/-- A sequence of two parts of an instruction keeps what both keep. -/
theorem CoreKeeps.then {α β : Type} {s : State} {x : Attempt α} {g : State → α → Attempt β} (h : CoreKeeps s x.1)
    (k : ∀ t a, CoreKeeps t (g t a).1) : CoreKeeps s (x.then g).1 := by
  unfold Attempt.then
  split
  · exact h.trans (k _ _)
  · exact h

theorem memGet_keeps (s : State) (k : Nat) (t : CoreAcc) (m : CoreMem) (off len : Nat) :
    CoreKeeps s (s.memGet k t m off len).1 := by
  unfold State.memGet
  split <;> exact ⟨rfl, id⟩

theorem walkOne_keeps (s : State) (k : Nat) (t : CoreAcc) (va base level : Nat) :
    CoreKeeps s (s.walkOne k t va base level).1 := by
  unfold State.walkOne
  dsimp only
  split
  · exact .refl s
  · split
    · refine .then (memGet_keeps _ _ _ _ _ _) fun t a => ?_
      repeat' split
      all_goals exact .refl _
    · exact .refl s

theorem walk_keeps (s : State) (k : Nat) (t : CoreAcc) (va base n : Nat) : CoreKeeps s (s.walk k t va base n).1 := by
  induction n generalizing s base with
  | zero => exact .then (walkOne_keeps _ _ _ _ _ _) fun t a => by split <;> exact .refl _
  | succ n ih => exact .then (walkOne_keeps _ _ _ _ _ _) fun t a => by split; exact .refl _; exact ih _ _

theorem translate_keeps (s : State) (k : Nat) (t : CoreAcc) (va : Nat) : CoreKeeps s (s.translate k t va).1 := by
  unfold State.translate
  dsimp only
  split
  · exact .refl s
  · split
    · exact .refl s
    · split
      · exact .refl s
      · exact .then (walk_keeps _ _ _ _ _ _) fun t a => by split; exact ⟨rfl, id⟩; exact .refl _

theorem iFill_keeps (s : State) (k l : Nat) : CoreKeeps s (s.iFill k l) := ⟨rfl, id⟩

theorem fetchParcel_keeps (s : State) (k va : Nat) : CoreKeeps s (s.fetchParcel k va).1 := by
  unfold State.fetchParcel
  refine .then (translate_keeps _ _ _ _) fun t a => ?_
  dsimp only
  split
  · exact .refl _
  · split
    · exact memGet_keeps _ _ _ _ _ _
    · split
      · exact .refl _
      · refine .then ((CoreKeeps.hart _ _ _).trans (memGet_keeps _ _ _ _ _ _)) fun _ _ => iFill_keeps _ _ _
    · exact .refl _

theorem dataGet_keeps (s : State) (k : Nat) (t : CoreAcc) (m : CoreMem) (off len : Nat) :
    CoreKeeps s (s.dataGet k t m off len).1 := by
  unfold State.dataGet
  dsimp only
  split
  · split
    · exact memGet_keeps _ _ _ _ _ _
    · exact .refl _
  · exact .then ((CoreKeeps.hart _ _ _).trans (memGet_keeps _ _ _ _ _ _)) fun _ _ => ⟨rfl, id⟩

theorem reach_keeps (s : State) (k : Fin 4) (t : CoreAcc) (va len : Nat) : CoreKeeps s (s.reach k t va len).1 := by
  unfold State.reach
  refine .then (translate_keeps _ _ _ _) fun u a => ?_
  dsimp only
  split
  · exact .refl _
  · exact .refl _
  · split
    · split <;> exact ⟨rfl, id⟩
    · split
      · exact .refl _
      · split <;> exact ⟨rfl, id⟩

theorem CoreKeeps.drawn (s : State) : CoreKeeps s s.drawn := ⟨rfl, id⟩

theorem devStall_keeps (s : State) (k : Nat) : CoreKeeps s (s.devStall k) :=
  ((CoreKeeps.hart _ _ _).trans (.drawn _)).trans (.chip _ _)

theorem coreLoad_keeps (s : State) (k : Fin 4) (va len : Nat) : CoreKeeps s (s.coreLoad k va len).1 := by
  refine .then (reach_keeps _ _ _ _ _) fun t a => ?_
  cases a with
  | mem m off => exact dataGet_keeps _ _ _ _ _ _
  | dev off =>
    exact (devStall_keeps t k).trans (.chip _ _)
  | hole => exact .refl _

theorem coreStore_keeps (s : State) (k : Fin 4) (va len v : Nat) : CoreKeeps s (s.coreStore k va len v).1 := by
  refine .then (reach_keeps _ _ _ _ _) fun t a => ?_
  cases a with
  | mem m off => exact .store _ _ _ _ _
  | dev off => exact ⟨rfl, id⟩
  | hole => exact .refl _

theorem coreLr_keeps (s : State) (k : Fin 4) (va len : Nat) : CoreKeeps s (s.coreLr k va len).1 := by
  refine .then (reach_keeps _ _ _ _ _) fun t a => ?_
  cases a with
  | mem m off => exact .then (dataGet_keeps _ _ _ _ _ _) fun _ _ => ⟨rfl, id⟩
  | _ => exact .refl _

theorem coreSc_keeps (s : State) (k : Fin 4) (va len v : Nat) : CoreKeeps s (s.coreSc k va len v).1 := by
  refine .then (reach_keeps _ _ _ _ _) fun t a => ?_
  cases a with
  | mem m off =>
    dsimp only
    split
    · exact (CoreKeeps.hart _ _ _).trans (.store _ _ _ _ _)
    · exact .hart _ _ _
  | _ => exact .refl _

theorem coreAmo_keeps (s : State) (k : Fin 4) (va len : Nat) (g : Nat → Nat) : CoreKeeps s (s.coreAmo k va len g).1 := by
  refine .then (reach_keeps _ _ _ _ _) fun t a => ?_
  cases a with
  | mem m off => exact .then (dataGet_keeps _ _ _ _ _ _) fun _ _ => .store _ _ _ _ _
  | _ => exact .refl _

theorem coreCsr_keeps (s : State) (k op : Nat) (imm : Bool) (rd src n : Nat) : CoreKeeps s (s.coreCsr k op imm rd src n).1 := by
  unfold State.coreCsr
  dsimp only
  repeat' split
  all_goals exact ⟨rfl, id⟩

/-- What an instruction of a core can do: change the block, and store to the memories, which keep their canonical form. -/
theorem carry_keeps (s : State) (k : Fin 4) (i : Rv) (pc : Xword) (len : Nat) : CoreKeeps s (s.carry k i pc len).1 := by
  unfold State.carry
  dsimp only
  split
  case h_6 => exact .then (coreLoad_keeps _ _ _ _) fun _ _ => .hart _ _ _
  case h_7 => exact .then (coreStore_keeps _ _ _ _ _) fun _ _ => .refl _
  case h_16 => split; exact .refl _; exact .chip _ _
  case h_18 => exact coreCsr_keeps _ _ _ _ _ _ _
  case h_19 => exact .then (coreLr_keeps _ _ _ _) fun _ _ => .hart _ _ _
  case h_20 => exact .then (coreSc_keeps _ _ _ _ _) fun _ _ => .hart _ _ _
  case h_21 => exact .then (coreAmo_keeps _ _ _ _ _) fun _ _ => .hart _ _ _
  case h_22 => split; exact .refl _; exact .then (coreLoad_keeps _ _ _ _) fun _ _ => .hart _ _ _
  case h_23 => split; exact .refl _; exact .then (coreStore_keeps _ _ _ _ _) fun _ _ => .refl _
  case h_24 =>
    split
    · exact .refl _
    · split
      · exact .refl _
      · exact .hart _ _ _
  all_goals first
    | exact .refl _
    | exact .hart _ _ _
    | (split; exact .refl _; exact .hart _ _ _)

theorem wrongParcel_keeps {s : State} {k va : Nat} {r : State × Nat} (h : s.wrongParcel k va = some r) : CoreKeeps s r.1 := by
  unfold State.wrongParcel at h
  dsimp only at h
  rw [Option.bind_eq_some_iff] at h
  obtain ⟨pa, -, h⟩ := h
  split at h
  · cases h
  · split at h
    · split at h
      · cases h
      · cases h; exact .refl _
    · split at h
      · cases h; exact .refl _
      · split at h
        · cases h
        · cases h; exact (CoreKeeps.hart _ _ _).trans (iFill_keeps _ _ _)
    · cases h

theorem wrongPath_keeps (s : State) (k pc n : Nat) : CoreKeeps s (s.wrongPath k pc n).1 := by
  induction n generalizing s pc with
  | zero => exact .refl _
  | succ n ih =>
    unfold State.wrongPath
    split
    · exact .refl _
    · rename_i t lo h
      have ht := wrongParcel_keeps h
      split
      · exact ht
      · rename_i u hi h'
        refine CoreKeeps.trans ?_ (ih _ _)
        split at h'
        · exact ht.trans (wrongParcel_keeps h')
        · cases h'; exact ht

theorem trapTo_keeps (s : State) (k : Nat) (irq : Bool) (cause tval : Nat) : CoreKeeps s (s.trapTo k irq cause tval) := .hart _ _ _

theorem mispredict_keeps (s : State) (k pc : Nat) : CoreKeeps s (s.mispredict k pc) :=
  ((CoreKeeps.drawn s).trans (wrongPath_keeps _ _ _ _)).trans (.hart _ _ _)

theorem retire_keeps (s : State) (k : Nat) (i : Rv) (pc dest : Xword) : CoreKeeps s (s.retire k i pc dest) :=
  ((CoreKeeps.hart _ _ _).trans (.drawn _)).trans (.chip _ _)

theorem resolve_keeps (s : State) (k : Nat) (i : Rv) (pc len guess dest : Nat) :
    CoreKeeps s (s.resolve k i pc len guess dest) := by
  unfold State.resolve
  split
  · refine CoreKeeps.trans ?_ (.hart _ _ _)
    split
    · exact .refl _
    · exact mispredict_keeps _ _ _
  · exact .refl _

theorem runInstr_keeps (s : State) (k : Fin 4) (i : Rv) (len enc : Nat) : CoreKeeps s (s.runInstr k i len enc) := by
  have hc := carry_keeps s k i (s.chip.hart k).pc len
  unfold State.runInstr
  dsimp only
  split
  · exact hc.trans (.hart _ _ _)
  · exact hc.trans ((resolve_keeps _ _ _ _ _ _ _).trans (retire_keeps _ _ _ _ _))

theorem fetchTail_keeps (s : State) (k pc lo : Nat) :
    CoreKeeps s (s.fetchTail k pc lo).1 := by
  unfold State.fetchTail
  split
  · exact fetchParcel_keeps _ _ _
  · exact .refl _

theorem coreInstr_keeps (s : State) (k : Fin 4) : CoreKeeps s (s.coreInstr k) := by
  have hf := fetchParcel_keeps s k (s.chip.hart k).pc.toNat
  unfold State.coreInstr
  dsimp only
  split
  · exact hf.trans (trapTo_keeps _ _ _ _ _)
  · have ht := fetchTail_keeps (s.fetchParcel k (s.chip.hart k).pc.toNat).1 k (s.chip.hart k).pc.toNat
    split
    · exact (hf.trans (ht _)).trans (trapTo_keeps _ _ _ _ _)
    · split
      · exact (hf.trans (ht _)).trans (trapTo_keeps _ _ _ _ _)
      · exact (hf.trans (ht _)).trans (runInstr_keeps _ _ _ _ _)

/-- The step of a core adds no command, and keeps the canonical form of the memories. -/
theorem coreStep_keeps (s : State) (k : Fin 4) : CoreKeeps s (s.coreStep k) := by
  unfold State.coreStep
  split
  · exact .refl _
  · dsimp only
    split
    · exact .chip _ _
    · split
      · exact (CoreKeeps.chip s _).trans ((CoreKeeps.hart _ _ _).trans (trapTo_keeps _ _ _ _ _))
      · exact (CoreKeeps.chip s _).trans (coreInstr_keeps _ _)

/-- So does an idle cycle. -/
theorem idle_keeps (s : State) : CoreKeeps s s.idle :=
  ((((CoreKeeps.chip s _).trans (coreStep_keeps _ 0)).trans (coreStep_keeps _ 1)).trans (coreStep_keeps _ 2)).trans
    (coreStep_keeps _ 3)

theorem meetBad_keeps (s : State) (k : Fin 4) (m : CoreMem) : CoreKeeps s (s.meetBad k m) := by
  unfold State.meetBad
  dsimp only
  split
  · exact (CoreKeeps.hart _ _ _).trans (coreInstr_keeps _ _)
  · exact .chip _ _

theorem cacheParity_keeps (s : State) (k : Nat) (data : Bool) : CoreKeeps s (s.cacheParity k data) := by
  unfold State.cacheParity
  dsimp only
  split
  · exact .chip _ _
  · exact (CoreKeeps.chip s _).trans (.hart _ _ _)

end Sys2Proof.Machine
end

