-- ==== Sys2Proof/WellFormed.lean ====
section
/-!
DEFINITION. Well-formed commands: every operand fits the field of the access or frame that carries it.
-/

namespace Sys2Proof

/-- A number fits in `w` bits. -/
def fits (w n : Nat) : Bool := decide (n < 2 ^ w)

/-- Every number of a list fits in `w` bits. -/
def allFit (w : Nat) (l : List Nat) : Bool := l.all (fits w)

/-- Calibration results fit in 16 bits each. -/
def allFit2 (l : List (List Nat)) : Bool := l.all (allFit 16)

/-- Written data fit the access: 64 bits, or 32 for one half (R1). -/
def halfFits (h : Half) (v : Nat) : Bool := if h = .full then fits 64 v else fits 32 v

/-- An interrupt source's number (R319). -/
def srcNum (n : Nat) : Bool := decide (1 ≤ n) && decide (n ≤ 2046)

/-- Whether a command is well formed. -/
def Instr.wf : Instr → Bool
  | .registerWrite _ addr half value => fits 34 addr && halfFits half value
  | .accessSizeFault _ addr _ => fits 34 addr
  | .rcRead _ addr _ => fits 34 addr
  | .stageWrite _ addr half value => fits 26 addr && addr % 8 = 0 && halfFits half value
  | .imgPortWrite _ half value => halfFits half value
  | .flashBurstDone words => decide (words.length ≤ 32) && allFit 64 words
  | .airEpochWrite _ value => fits 32 value
  | .airCtrlWrite _ half value => halfFits half value
  | .cellDetection _ pci _ pos => fits 10 pci && decide (pos < 20132659200)
  | .schedArm _ _ value => fits 32 value && value % 16 ≠ 0
  | .schedDisarm _ _ value => fits 32 value && value % 16 = 0
  | .cnvStatusRefresh _ overloads => overloads.length = 8 && allFit 16 overloads
  | .startcalPhaseDone _ results => allFit2 results
  | .synWrite _ _ _ half value => halfFits half value
  | .cnvLaneWrite _ _ _ half value => halfFits half value
  | .calStepDone _ results => allFit2 results
  | .trForceHigh _ half value => halfFits half value
  | .trForceLow _ half value => halfFits half value
  | .rffeRegister0Write _ _ _ data => fits 7 data
  | .rffeRegisterWrite _ _ _ addr data => fits 5 addr && fits 8 data
  | .rffeRegisterRead _ _ _ addr => fits 5 addr
  | .rffeExtendedWrite _ _ _ addr _ data => fits 8 addr && fits 32 data
  | .rffeExtendedRead _ _ _ addr _ => fits 8 addr
  | .rffeExtendedWriteLong _ _ _ addr _ data => fits 16 addr && fits 32 data
  | .rffeExtendedReadLong _ _ _ addr _ => fits 16 addr
  | .rffeFrameDone _ _ data => fits 32 data
  | .sqCoefWrite _ _ half value => halfFits half value
  | .ecCoefWrite _ _ half value => halfFits half value
  | .matrixWrite _ _ _ _ half value => halfFits half value
  | .mailboxWrite _ _ _ half value => halfFits half value
  | .planCommit _ planId _ => fits 16 planId
  | .planCommitSched _ planId _ => fits 16 planId
  | .planRelease _ ctx => fits 4 ctx
  | .zmdStartDone _ found _ _ => decide (found.slots < 32) && decide (found.refs.length = 16)
  | .getId tag _ => fits 8 tag
  | .getStatus tag _ => fits 8 tag
  | .getReport tag payload => fits 8 tag && allFit 8 payload
  | .setWindows tag input recs => fits 8 tag && allFit 8 (input ++ recs)
  | .setTiming tag period dwell => fits 8 tag && allFit 8 (period ++ dwell)
  | .setNonce tag payload => fits 8 tag && allFit 8 payload
  | .getGuard tag _ => fits 8 tag
  | .calWrite tag offset data => fits 8 tag && allFit 8 (offset ++ data)
  | .calLock tag _ _ => fits 8 tag
  | .unknownCmd cmd tag => fits 8 cmd && fits 8 tag
  | .mirrorStatusFrame _ temp => fits 16 temp
  | .cbcTrip _ t _ => fits 13 t
  | .hardTrip levels => levels.length = 16
  | .pwmEnable _ mask => fits 16 mask
  | .pwmDisable _ mask => fits 16 mask
  | .hkCalDone _ _ gain => fits 16 gain
  | .faultEvent _ cause master access _ => fits 8 cause && fits 5 master && fits 3 access
  | .faultPendingClear _ _ value => fits 64 value
  | .severeClear _ _ value => fits 64 value
  | .bbMark _ value => fits 32 value
  | .intRequest n => srcNum n
  | .intWithdraw n => srcNum n
  | .intSetpend _ n => srcNum n
  | .intClrpend _ n => srcNum n
  | .intEoi _ _ n => srcNum n
  | .intHeoi _ _ n => srcNum n
  | .intRouteWrite _ n half value => srcNum n && halfFits half value
  | .tenDenyWrite _ value => fits 8 value
  | .vc1Misuse _ _ addr => fits 26 addr
  | .dqTailWrite _ _ _ tail => fits 12 tail
  | .descriptorFetched _ _ bytes _ => bytes.length = 64 && allFit 8 bytes
  | .creditAdd _ _ value => fits 48 value
  | .cqHeadWrite _ _ _ head => fits 12 head
  | .stopFrameRx _ seq kind _ counter devId hash => fits 16 seq && fits 2 kind && fits 64 counter && fits 64 devId && hash.length = 4 && allFit 64 hash
  | .messageRx _ seq blocks => fits 16 seq && decide (blocks.length ≤ 32) && allFit 64 blocks
  | .resumeRx _ seq words => fits 16 seq && allFit 64 words
  | .timingRx _ t1 _ _ devId _ => fits 64 t1 && fits 64 devId
  | .delayReqRx _ t4 => fits 64 t4
  | .delayRespRx _ t4 => fits 64 t4
  | .samplesRx _ seq _ _ _ slotBw stamp _ => fits 16 seq && fits 12 slotBw && fits 64 stamp
  | .ackRx _ _ _ next => fits 16 next
  | .samplesTx _ _ stamp _ => fits 64 stamp
  | .coarseBlock _ donor service => (donor ++ service).all (allFit 144) && decide (donor.length ≤ 8) && decide (service.length ≤ 8)
  | .send _ _ _ len => fits 6 len
  | .samplePreload pwmH pwmL _ => fits 16 pwmH && fits 16 pwmL
  | .pwrRstWarm _ key => fits 8 key
  | .wake tlp n => tlp || srcNum n
  | .meterPortCrcFail tag => fits 8 tag
  | .sampleFlitCrcFail _ _ _ | .controlFlitCrcFail _ _ _ | .controlFlitRetransmit _ | .bridgeLoss _ _
    | .bridgeTrainStart _ | .bridgeUp _ | .bridgeTrainTimeout _ | .bridgeMuteClear _ | .powerSumUpdate | .imgStart _
    | .imgAbort _ | .imgClear _ | .clearEraseDone | .hashReq _ | .hashDone | .imageWriteHeader | .imageDataWord
    | .imageEndRecord | .imageBadHeader | .flashRangeExhausted | .resolutionDone | .structDataRead _ _
    | .tempoBoundary | .epochRollover | .airRestart _ | .ppsEdge _ | .syncEdge _ | .atStep | .coastTimeout
    | .holdTimeout | .holdoverTimeout | .holdRelease | .schedTake _ | .trFire | .dirFire | .planFire | .calFire
    | .captureFire | .pwmfFire | .markFire | .timingOutputRise _ | .timingOutputFall _ | .airAtRead _ _
    | .cnvPowerEnWrite _ _ _ | .cnvRecal _ _ | .ckmLock _ | .cnvClockingDone _ | .ckmFail _ | .ckmUnlock _
    | .synLock _ _ | .synUnlock _ _ | .synBlankEnd _ _ | .laneOnline _ _ | .calStepStart _ | .calApply _
    | .calWindowClose _ | .skewBandSwitch _ | .rffeResultRead _ _ _ | .sqCoefRead _ _ _
    | .fillDone _ | .rampEnd _ | .unmuteStart _ | .placementMute _ | .squareParityError _ _ | .ecCoefRead _ _ _
    | .estimatePublish _ | .stabilityFaultClear _ | .muBandSwitch _ | .deadline _ | .outerStep _ | .rkEccCorrected _
    | .rkMemoryError _ _ | .arrayFault _ | .rankFaultClear _ | .oscillationClear _ | .noiseRiseRelease
    | .permitReport _ _ | .permitMuteRelease _ | .protectNLow | .protectNHigh | .pinAck _ | .pinStopRelease
    | .mailboxGo _ _ | .verifyStart | .resign | .resume | .stopRelease | .planDiscard _ | .planApply _ | .zmdReset
    | .clockFault | .zmdRestart | .referenceCheck _ _ | .dwellEnd _ _ _ _ | .reportPeriodEnd | .reportSigned
    | .guardDecision _ | .guardHoldEnd _ | .guardHoldReset | .mirrorReportFrame _ _ | .mirrorIdentityFrame _
    | .mirrorLinkTimeout | .periodEnd _ | .softstartDone _ | .hiccupEnd _ | .hkRoundStart | .hkResult _ _ _ _
    | .hkRefEnWrite _ _ | .hkRefReady | .hkCal _ _ | .hkFlush _ | .hkQueueRead _ _ | .thermalShutdown _
    | .thermalRelease _ | .pairFault _ | .pairFaultEnd _ | .faultWindowClose _ | .severeHoldRelease
    | .datapathFaultClear _ | .wingParityError _ _ | .firstRearm _ | .injectRelease _ | .injectEvent _ _
    | .injectHoldLow _ _ | .injectHoldHigh _ _ | .bbRecordWrite | .fltFreeze _ | .atBeacon | .bbReadRequest _ _
    | .bbReadDone | .bbAck _ | .faultNInitDone | .intClaim _ _ | .msixIssue | .coalesceTimeout _ | .coreRelease _ _
    | .coreHold _ _ | .supInitDone | .mtimerExpire _ | .coreWfi _ | .supEccError _ _ | .assignRequest _ _ _
    | .assignApply | .quotaUpdate | .vfFlr _ | .vfFlrDone _ | .flrWithdrawal _ | .pfFlr | .doorbell _ _ _
    | .gatherFetched _ _ _ _ _ | .elementStart _ | .captureStartAt _ | .snapshotDone _ | .recordWrite _ _ _ _ _ _
    | .writeAck | .capAbort _ _ _ | .capRestart _ _ _ | .captureResume _ _ | .chlEnWrite _ _ _ | .linkUp _
    | .trainTimeout _ | .linkLoss _ _ | .initRx _ _ _ | .retransmit _ _ | .timingTx _ | .delayReqTx _ | .alignTx _
    | .initTx _ | .cancel _ _ _ | .pop _ _ | .lstopAck _ | .linkStopRelease | .keyLoad _ _ | .keyClear _ _
    | .keyLock _ _ | .selftestDone _ | .extest | .idcode | .clamp | .highz | .bypass _ | .jtagStopRelease
    | .railFail _ | .railGood _ | .coldReset | .perstAssert | .resetRelease _ _ | .vbatLow | .retentionFlagClear
    | .sleepEnter _ | .chlFrameCrcErr _ | .cmdReject => true

end Sys2Proof
end

