-- ==== Sys2Proof/Tests/Slice0.lean ====
section
/-!
SUPPORT. Tests of the model: the checks of well-formed commands, states that meet the hypotheses of the statements clause by clause, and
the worked examples of the spec. Each expected value is the spec's, or worked out by hand from its rules.
-/

namespace Sys2Proof.Tests

-- Elaborated one theorem after another: many kernel evaluations waiting side by side would run out of threads.
set_option Elab.async false

open Sys2Proof Sys2Proof.Machine

/-! ## Well-formed commands -/

/-- A well-formed command of every row that has a check is accepted. -/
theorem test_wellFormed_accepts0 : ([
  .registerWrite .pf 0 .lo 0, .accessSizeFault .pf 0 false, .rcRead .pf 0 .lo,
  .stageWrite .pf 0 .lo 0, .imgPortWrite .pf .lo 0, .flashBurstDone [],
  .airEpochWrite .pf 0, .airCtrlWrite .pf .lo 0, .cellDetection 0 0 false 0,
  .schedArm .pf 0 1, .schedDisarm .pf 0 0, .cnvStatusRefresh 0 (List.replicate 8 0),
  .startcalPhaseDone 0 [], .synWrite .pf 0 0 .lo 0, .cnvLaneWrite .pf 0 0 .lo 0,
  .calStepDone 0 [], .trForceHigh .pf .lo 0, .trForceLow .pf .lo 0,
  .rffeRegister0Write .pf 0 0 0, .rffeRegisterWrite .pf 0 0 0 0, .rffeRegisterRead .pf 0 0 0,
  .rffeExtendedWrite .pf 0 0 0 0 0, .rffeExtendedRead .pf 0 0 0 0, .rffeExtendedWriteLong .pf 0 0 0 0 0] : List Instr).all Instr.wf = true := by decide +kernel

theorem test_wellFormed_accepts1 : ([
  .rffeExtendedReadLong .pf 0 0 0 0, .rffeFrameDone 0 false 0, .sqCoefWrite .pf 0 .lo 0,
  .ecCoefWrite .pf 0 .lo 0, .matrixWrite .pf 0 0 0 .lo 0, .mailboxWrite .pf 0 0 .lo 0,
  .planCommit .pf 0 false, .planCommitSched .pf 0 false, .planRelease .pf 0,
  .zmdStartDone false ⟨0, List.replicate 16 0⟩ false false, .getId 0 0, .getStatus 0 0,
  .getReport 0 [], .setWindows 0 [] [], .setTiming 0 [] [],
  .setNonce 0 [], .getGuard 0 0, .calWrite 0 [] [],
  .calLock 0 0 0, .unknownCmd 0 0, .mirrorStatusFrame false 0,
  .cbcTrip 0 0 0, .hardTrip (List.replicate 16 0), .pwmEnable .pf 0] : List Instr).all Instr.wf = true := by decide +kernel

theorem test_wellFormed_accepts2 : ([
  .pwmDisable .pf 0, .hkCalDone 0 0 0, .faultEvent 0 0 0 0 none,
  .faultPendingClear .pf 0 0, .severeClear .pf 0 0, .bbMark .pf 0,
  .intRequest 1, .intWithdraw 1, .intSetpend .pf 1,
  .intClrpend .pf 1, .intEoi .pf 0 1, .intHeoi .pf 0 1,
  .intRouteWrite .pf 1 .lo 0, .tenDenyWrite .pf 0, .vc1Misuse 0 false 0,
  .dqTailWrite .pf 0 0 0, .descriptorFetched 0 false (List.replicate 64 0) 0, .creditAdd .pf 0 0,
  .cqHeadWrite .pf 0 0 0, .stopFrameRx 0 0 0 0 0 0 (List.replicate 4 0), .messageRx 0 0 [],
  .resumeRx 0 0 [], .timingRx 0 0 0 0 0 0, .delayReqRx 0 0] : List Instr).all Instr.wf = true := by decide +kernel

theorem test_wellFormed_accepts3 : ([
  .delayRespRx 0 0, .samplesRx 0 0 0 false 0 0 0 [], .ackRx 0 false false 0,
  .samplesTx 0 0 0 0, .coarseBlock 0 [] [], .send .pf 0 0 0,
  .samplePreload 0 0 0, .pwrRstWarm .pf 0, .wake false 1,
  .meterPortCrcFail 0] : List Instr).all Instr.wf = true := by decide +kernel

/-- The same commands, each with one operand that one check refuses, are refused. -/
theorem test_wellFormed_refuses0 : ([
  .registerWrite .pf (2 ^ 34) .lo 0, .registerWrite .pf 0 .full (2 ^ 64), .registerWrite .pf 0 .hi (2 ^ 32),
  .accessSizeFault .pf (2 ^ 34) false, .rcRead .pf (2 ^ 34) .lo, .stageWrite .pf (2 ^ 26) .lo 0,
  .stageWrite .pf 4 .lo 0, .stageWrite .pf 0 .full (2 ^ 64), .stageWrite .pf 0 .hi (2 ^ 32),
  .imgPortWrite .pf .full (2 ^ 64), .imgPortWrite .pf .hi (2 ^ 32), .flashBurstDone (List.replicate 33 0),
  .flashBurstDone [2 ^ 64], .airEpochWrite .pf (2 ^ 32), .airCtrlWrite .pf .full (2 ^ 64),
  .airCtrlWrite .pf .hi (2 ^ 32), .cellDetection 0 (2 ^ 10) false 0, .cellDetection 0 0 false 20132659200,
  .schedArm .pf 0 (2 ^ 32 + 1), .schedArm .pf 0 16, .schedDisarm .pf 0 (2 ^ 32),
  .schedDisarm .pf 0 1, .cnvStatusRefresh 0 [], .cnvStatusRefresh 0 (List.replicate 8 (2 ^ 16))] : List Instr).all (fun i => !i.wf) = true := by decide +kernel

theorem test_wellFormed_refuses1 : ([
  .startcalPhaseDone 0 [[2 ^ 16]], .synWrite .pf 0 0 .full (2 ^ 64), .synWrite .pf 0 0 .hi (2 ^ 32),
  .cnvLaneWrite .pf 0 0 .full (2 ^ 64), .cnvLaneWrite .pf 0 0 .hi (2 ^ 32), .calStepDone 0 [[2 ^ 16]],
  .trForceHigh .pf .full (2 ^ 64), .trForceHigh .pf .hi (2 ^ 32), .trForceLow .pf .full (2 ^ 64),
  .trForceLow .pf .hi (2 ^ 32), .rffeRegister0Write .pf 0 0 (2 ^ 7), .rffeRegisterWrite .pf 0 0 (2 ^ 5) 0,
  .rffeRegisterWrite .pf 0 0 0 (2 ^ 8), .rffeRegisterRead .pf 0 0 (2 ^ 5), .rffeExtendedWrite .pf 0 0 (2 ^ 8) 0 0,
  .rffeExtendedWrite .pf 0 0 0 0 (2 ^ 32), .rffeExtendedRead .pf 0 0 (2 ^ 8) 0, .rffeExtendedWriteLong .pf 0 0 (2 ^ 16) 0 0,
  .rffeExtendedWriteLong .pf 0 0 0 0 (2 ^ 32), .rffeExtendedReadLong .pf 0 0 (2 ^ 16) 0, .rffeFrameDone 0 false (2 ^ 32),
  .sqCoefWrite .pf 0 .full (2 ^ 64), .sqCoefWrite .pf 0 .hi (2 ^ 32), .ecCoefWrite .pf 0 .full (2 ^ 64)] : List Instr).all (fun i => !i.wf) = true := by decide +kernel

theorem test_wellFormed_refuses2 : ([
  .ecCoefWrite .pf 0 .hi (2 ^ 32), .matrixWrite .pf 0 0 0 .full (2 ^ 64), .matrixWrite .pf 0 0 0 .hi (2 ^ 32),
  .mailboxWrite .pf 0 0 .full (2 ^ 64), .mailboxWrite .pf 0 0 .hi (2 ^ 32), .planCommit .pf (2 ^ 16) false,
  .planCommitSched .pf (2 ^ 16) false, .planRelease .pf (2 ^ 4), .zmdStartDone false ⟨32, List.replicate 16 0⟩ false false,
  .zmdStartDone false ⟨0, []⟩ false false, .getId (2 ^ 8) 0, .getStatus (2 ^ 8) 0,
  .getReport (2 ^ 8) [], .getReport 0 [2 ^ 8], .setWindows (2 ^ 8) [] [],
  .setWindows 0 [2 ^ 8] [], .setWindows 0 [] [2 ^ 8], .setTiming (2 ^ 8) [] [],
  .setTiming 0 [2 ^ 8] [], .setTiming 0 [] [2 ^ 8], .setNonce (2 ^ 8) [],
  .setNonce 0 [2 ^ 8], .getGuard (2 ^ 8) 0, .calWrite (2 ^ 8) [] []] : List Instr).all (fun i => !i.wf) = true := by decide +kernel

theorem test_wellFormed_refuses3 : ([
  .calWrite 0 [2 ^ 8] [], .calWrite 0 [] [2 ^ 8], .calLock (2 ^ 8) 0 0,
  .unknownCmd (2 ^ 8) 0, .unknownCmd 0 (2 ^ 8), .mirrorStatusFrame false (2 ^ 16),
  .cbcTrip 0 (2 ^ 13) 0, .hardTrip [], .pwmEnable .pf (2 ^ 16),
  .pwmDisable .pf (2 ^ 16), .hkCalDone 0 0 (2 ^ 16), .faultEvent 0 (2 ^ 8) 0 0 none,
  .faultEvent 0 0 (2 ^ 5) 0 none, .faultEvent 0 0 0 (2 ^ 3) none, .faultPendingClear .pf 0 (2 ^ 64),
  .severeClear .pf 0 (2 ^ 64), .bbMark .pf (2 ^ 32), .intRequest 0,
  .intRequest 2047, .intWithdraw 0, .intWithdraw 2047,
  .intSetpend .pf 0, .intSetpend .pf 2047, .intClrpend .pf 0] : List Instr).all (fun i => !i.wf) = true := by decide +kernel

theorem test_wellFormed_refuses4 : ([
  .intClrpend .pf 2047, .intEoi .pf 0 0, .intEoi .pf 0 2047,
  .intHeoi .pf 0 0, .intHeoi .pf 0 2047, .intRouteWrite .pf 0 .lo 0,
  .intRouteWrite .pf 2047 .lo 0, .intRouteWrite .pf 1 .full (2 ^ 64), .intRouteWrite .pf 1 .hi (2 ^ 32),
  .tenDenyWrite .pf (2 ^ 8), .vc1Misuse 0 false (2 ^ 26), .dqTailWrite .pf 0 0 (2 ^ 12),
  .descriptorFetched 0 false [] 0, .descriptorFetched 0 false (List.replicate 64 (2 ^ 8)) 0, .creditAdd .pf 0 (2 ^ 48),
  .cqHeadWrite .pf 0 0 (2 ^ 12), .stopFrameRx 0 (2 ^ 16) 0 0 0 0 (List.replicate 4 0), .stopFrameRx 0 0 (2 ^ 2) 0 0 0 (List.replicate 4 0),
  .stopFrameRx 0 0 0 0 (2 ^ 64) 0 (List.replicate 4 0), .stopFrameRx 0 0 0 0 0 (2 ^ 64) (List.replicate 4 0), .stopFrameRx 0 0 0 0 0 0 [],
  .stopFrameRx 0 0 0 0 0 0 (List.replicate 4 (2 ^ 64)), .messageRx 0 (2 ^ 16) [], .messageRx 0 0 (List.replicate 33 0)] : List Instr).all (fun i => !i.wf) = true := by decide +kernel

theorem test_wellFormed_refuses5 : ([
  .messageRx 0 0 [2 ^ 64], .resumeRx 0 (2 ^ 16) [], .resumeRx 0 0 [2 ^ 64],
  .timingRx 0 (2 ^ 64) 0 0 0 0, .timingRx 0 0 0 0 (2 ^ 64) 0, .delayReqRx 0 (2 ^ 64),
  .delayRespRx 0 (2 ^ 64), .samplesRx 0 (2 ^ 16) 0 false 0 0 0 [], .samplesRx 0 0 0 false 0 (2 ^ 12) 0 [],
  .samplesRx 0 0 0 false 0 0 (2 ^ 64) [], .ackRx 0 false false (2 ^ 16), .samplesTx 0 0 (2 ^ 64) 0,
  .coarseBlock 0 [[2 ^ 144]] [], .coarseBlock 0 [] [[2 ^ 144]], .coarseBlock 0 (List.replicate 9 []) [],
  .coarseBlock 0 [] (List.replicate 9 []), .send .pf 0 0 (2 ^ 6), .samplePreload (2 ^ 16) 0 0,
  .samplePreload 0 (2 ^ 16) 0, .pwrRstWarm .pf (2 ^ 8), .wake false 0,
  .wake false 2047, .meterPortCrcFail (2 ^ 8)] : List Instr).all (fun i => !i.wf) = true := by decide +kernel

theorem test_no_word_spells_a_command : decodeTableWord 16 0 = none := rfl

/-! ## States that meet the hypotheses of the statements -/

/-- The block after reset with these register fields set. -/
def chip (l : List (Fld × Nat)) : Chip := l.foldl (fun c p => c.wr p.1 p.2) {}

/-- The clocks of the board die run in `c`, and `P` holds: what a statement about an event asks for. -/
abbrev runs (c : Chip) (P : Chip → Prop) : Prop := c.running = true ∧ P c

/-- The same outside reset, awake or asleep. -/
abbrev out (c : Chip) (P : Chip → Prop) : Prop := c.inReset = false ∧ P c

/-- An access by `q` reaches the register at `a` and may write it, and `P` holds of the block as the access finds it. -/
abbrev writes (q : Requester) (a : Nat) (c : Chip) (P : Chip → Prop) : Prop :=
  (c.reachable q = true ∧ (c.woken q).deaf q = false ∧ (c.woken q).mayWrite q a = true) ∧ P ((c.woken q).respond q 0)

/-- The same of a read. -/
abbrev reads (q : Requester) (a : Nat) (c : Chip) (P : Chip → Prop) : Prop :=
  (c.reachable q = true ∧ (c.woken q).deaf q = false ∧ (c.woken q).mayRead q a = true) ∧ P (c.woken q)

/-- `writes` is what a statement about a write asks for. -/
theorem writes_meets {q : Requester} {a : Nat} {c : Chip} {P : Chip → Prop} (h : writes q a c P) :
    MayWrite { chip := c } q a ∧ P ((c.woken q).respond q 0) := ⟨⟨⟨h.1.1, h.1.2.1⟩, h.1.2.2⟩, h.2⟩

/-- `reads` is what a statement about a read asks for. -/
theorem reads_meets {q : Requester} {a : Nat} {c : Chip} {P : Chip → Prop} (h : reads q a c P) :
    MayRead { chip := c } q a ∧ P (c.woken q) := ⟨⟨⟨h.1.1, h.1.2.1⟩, h.1.2.2⟩, h.2⟩

/-- The block with eight virtual functions. -/
def eight (c : Chip) : Chip := { c with ten := { c.ten with vfEnable := true, numVfs := 8, ariHier := true } }

/-- The block at a tempo boundary. -/
def onB (c : Chip) : Chip := { c with air := { c.air with onB := true } }

theorem witness_StepRunsFrontCommand : ({ pending := [.bbAck .pf, .atBeacon] } : State).pending = .bbAck .pf :: [.atBeacon] := rfl

theorem witness_EmptyQueueIdles : State.reset.pending = [] ∧
    (({ chip := { pwr := { kind := some 0 } } } : State).pending = [] ∧ ({ pwr := { kind := some 0 } } : Chip).inReset = true) := by
  decide +kernel

theorem witness_QueueFirstInFirstOut : ∃ t, step { pending := [.atBeacon, .bbAck .pf] } = .next t := ⟨_, rfl⟩

theorem witness_InvariantKept : State.Inv { mem := [(0x2000000, 1)], pending := [.atBeacon] } ∧
    ∃ t, step { mem := [(0x2000000, 1)], pending := [.atBeacon] } = .next t := ⟨by unfold State.Inv; decide +kernel, _, rfl⟩

theorem witness_NoAccessInReset :
    sender (.imgStart .pf) = some .pf ∧ sender (.pop (.vf 7) 1) = some (.vf 7) ∧ sender (.keyLoad (.core 3) 15) = some (.core 3) ∧
    ({ pwr := { kind := some 3 } } : Chip).inReset = true := by decide +kernel

theorem witness_AbsentFunctionActsOnNothing :
    let c := eight (chip [(F.TEN_VF_STATUS_FLR_BUSY 8, 1)])
    sender (.pop (.vf 7) 0) = some (.vf 7) ∧ ({} : Chip).reachable (.vf 7) = true ∧ (({} : Chip).woken (.vf 7)).vfExists 8 = false ∧
    c.reachable (.vf 7) = true ∧ (c.woken (.vf 7)).vfExists 8 = true ∧ (c.woken (.vf 7)).on (F.TEN_VF_STATUS_FLR_BUSY 8) = true := by
  decide +kernel

theorem witness_ForeignSquareUntouched : ∀ b : Bool,
    let c := eight (if b then chip [(F.FLT_PAIR_PAIR 6, 2 ^ 30)] else {})
    (∀ a ∈ [0x1000000, 0x107F008], a % 8 = 0 ∧ 0x1000000 ≤ a ∧ a < 0x1080000 ∧ (regAt a).isSome = true ∧
      (c.woken (.vf 0)).owner ((a - 0x1000000) / 0x1000) ≠ 1) ∧
    c.reachable (.vf 0) = true ∧ (c.woken (.vf 0)).deaf (.vf 0) = false ∧ (c.woken (.vf 0)).srcBit F.FLT_PAIR_PAIR 414 = b := by
  decide +kernel

theorem witness_AccessErrors : ({} : Chip).reachable .pf = true ∧ (({} : Chip).woken .pf).deaf .pf = false ∧
    (({} : Chip).woken .pf).srcBit F.FLT_PAIR_PAIR 414 = false ∧
    (∀ a ∈ [0x8000, 0x3FFFFF8], a % 8 = 0 ∧ a < 0x4000000 ∧ holds a = false) := by decide +kernel

theorem witness_AccessErrors_core : ∀ k ∈ [(0 : Fin 4), 3], let c := chip [(F.SUP_CTRL_RUN, 15)]
    c.reachable (.core k) = true ∧ (c.woken (.core k)).deaf (.core k) = false ∧ (Requester.core k).isCore = true ∧
    (c.woken (.core k)).srcBit F.FLT_PAIR_PAIR 414 = false := by decide +kernel

/-- The fields of the register at `a` are told apart by their keys. -/
abbrev keyed (a : Nat) : Bool := (regAt a).any fun rows => decide (rows.Pairwise fun r r' => r.fld.key ≠ r'.fld.key)

theorem witness_AccessErrors_plainWrites : ∀ a ∈ [0x100010, 0x400300, 0x1300020, 0x1400040, 0x1500000, 0x1601040, 0x1700058, 0x1800040, 0x1901000,
      0x1B00000, 0x1C00000, 0x1D00000, 0x1E00028, 0x1F00050], a % 8 = 0 ∧ plainReg a = true ∧ keyed a = true ∧ ({} : Chip).mayWrite .pf a = true := by
  decide +kernel

theorem witness_AccessErrors_fields : plainReg 0x100010 = true ∧ ((regAt 0x100010).any fun rows => rows.any fun r => r.acc = .rw && decide (0 < r.vmax)) = true ∧
    plainReg 0x100058 = true ∧ ((regAt 0x100058).any fun rows => rows.any fun r => r.acc = .w1c) = true ∧
    plainReg 0x1D00000 = true ∧ ((regAt 0x1D00000).any fun rows => rows.any fun r => r.acc = .ro) = true ∧
    (∀ a ∈ [0x100050, 0x200040, 0x1400010], plainRead a = true ∧ keyed a = true ∧
      ((regAt a).any fun rows => rows.any fun r => r.acc = .rc) = true ∧ ({} : Chip).mayRead .pf a = true) ∧
    (∀ a ∈ [0x1500000, 0x1600008, 0x1B00000, 0x1D00000], plainRead a = true ∧ keyed a = true ∧ a / 0x100000 ∈ [0x15, 0x16, 0x1B, 0x1D]) := by
  decide +kernel

theorem witness_MemoryAccesses : ∀ v : Fin 2,
    let c := chip [(F.SUP_STATUS_INIT_DONE, v), (F.SUP_CTRL_RUN, 15)]
    (∀ q ∈ [Requester.pf, .core 0, .core 3], c.reachable q = true ∧ (c.woken q).on F.SUP_STATUS_INIT_DONE = decide (v.val = 1)) ∧
    (∀ a ∈ [0x2000000, 0x20FFFF8, 0x2100000, 0x213FFF8], findsMem .pf a a = true ∧ a % 8 = 0) ∧
    findsMem (.core 3) 0xFFF8 0x213FFF8 = true ∧ findsMem (.core 0) 0x1000000 0x2100000 = true ∧
    findsMem (.core 0) 0x103FFF8 0x213FFF8 = true ∧ findsMem (.core 1) 0x8000000 0x2000000 = true ∧
    findsMem (.core 1) 0x80FFFF8 0x20FFFF8 = true := by decide +kernel

theorem witness_MemoryAccesses_hole : (∀ x ∈ [0x10000, 0xFFFFF8, 0x1040000, 0x8100000, 0x42000000, 0x42181000], coreMap 0 x = .hole) ∧
    (chip [(F.SUP_CTRL_RUN, 15)]).reachable (.core 0) = true := by decide +kernel

/-! ### The image -/

theorem witness_ImageCommands_start :
    writes .pf aImgCtrl { img := { erasing := true } } (fun c => c.img.erasing = true) ∧
    (∀ v ∈ [1, 2, 3], writes .pf aImgCtrl (chip [(F.TOP_IMG_STATUS_STATE, v)]) fun c =>
      c.img.erasing = false ∧ c.rd F.TOP_IMG_STATUS_STATE ≠ 0) ∧
    writes .pf aImgCtrl {} (fun c => c.img.erasing = false ∧ c.rd F.TOP_IMG_STATUS_STATE = 0) := by decide +kernel

theorem witness_ImageCommands_abort :
    writes .pf aImgCtrl (chip [(F.TOP_IMG_STATUS_STATE, 1)]) (fun c => c.rd F.TOP_IMG_STATUS_STATE = 1) ∧
    (∀ v ∈ [0, 2, 3], writes .pf aImgCtrl (chip [(F.TOP_IMG_STATUS_STATE, v)]) fun c => c.rd F.TOP_IMG_STATUS_STATE ≠ 1) ∧
    (∀ v : Fin 2, writes .pf aImgCtrl (chip [(F.TOP_IMG_STATUS_PLANNED, v)]) fun c =>
      c.on F.TOP_IMG_STATUS_PLANNED = decide (v.val = 1) ∧ ∀ x, x < 10 → c.planHere x = false) ∧
    writes .pf aImgCtrl { air := { onB := true }, gpl := { due := [(9, 0)] } } (fun c => c.planHere 9 = true) ∧
    writes .pf aImgCtrl { img := { erasing := true } } (fun c => c.img.erasing = true) ∧
    writes .pf aImgCtrl (chip [(F.TOP_IMG_STATUS_STATE, 1)]) (fun c => c.img.erasing = false ∧ c.rd F.TOP_IMG_STATUS_STATE = 1) ∧
    writes .pf aImgCtrl (chip [(F.TOP_IMG_STATUS_HASH_BUSY, 1)]) (fun c =>
      c.img.erasing = false ∧ c.on F.TOP_IMG_STATUS_HASH_BUSY = true) ∧
    writes .pf aImgCtrl {} (fun c => c.img.erasing = false ∧ c.rd F.TOP_IMG_STATUS_STATE ≠ 1 ∧
      c.on F.TOP_IMG_STATUS_HASH_BUSY = false) := by decide +kernel

theorem witness_ImageCommands_port :
    writes .pf aImgPort {} (fun c => c.rd F.TOP_IMG_STATUS_STATE ≠ 1) ∧
    writes .pf aImgPort (chip [(F.TOP_IMG_STATUS_STATE, 1), (F.TOP_IMG_CTRL_SOURCE, 1)]) (fun c => c.rd F.TOP_IMG_CTRL_SOURCE ≠ 0) ∧
    (∀ k ∈ [63, 64], writes .pf aImgPort { chip [(F.TOP_IMG_STATUS_STATE, 1)] with img := { phase := .data 1 0, buf := List.replicate k 5 } } fun c =>
      c.img.buf.length = k ∧ c.rd F.TOP_IMG_STATUS_STATE = 1 ∧ c.rd F.TOP_IMG_CTRL_SOURCE = 0) ∧
    ∀ x ∈ [none, some 0, some (2 ^ 32 - 1)], writes .pf aImgPort { chip [(F.TOP_IMG_STATUS_STATE, 1)] with img := { heldLo := x } } fun c =>
      c.rd F.TOP_IMG_STATUS_STATE = 1 ∧ c.rd F.TOP_IMG_CTRL_SOURCE = 0 ∧ c.img.heldLo = x := by decide +kernel

/-- The loader at this phase with these words waiting. -/
def loading (source : Nat) (p : ImgPhase) (l : List Nat) (left : Nat := 0) : Chip :=
  { chip [(F.TOP_IMG_STATUS_STATE, 1), (F.TOP_IMG_CTRL_SOURCE, source)] with img := { phase := p, buf := l, flashLeft := left } }

theorem witness_ImageLoading_records :
    (∀ w ∈ [0x0000000000000101, 0x00000FFF00100001], runs (loading 0 .header [w, 7]) fun c => c.rd F.TOP_IMG_STATUS_STATE = 1 ∧
      c.img.phase = .header ∧ c.img.buf = w :: [7] ∧ bits w 0 8 = 1 ∧ 1 ≤ bits w 8 13 ∧ bits w 8 13 ≤ 4096) ∧
    runs (loading 0 .header [0x0E]) (fun c => c.rd F.TOP_IMG_STATUS_STATE = 1 ∧ c.img.phase = .header ∧ c.img.buf = 0x0E :: [] ∧
      bits 0x0E 0 8 = 0x0E) ∧
    (∀ w ∈ [0, 2, 0x0D, 0x0F, 0xFF, 1, 0x100101], runs (loading 0 .header [w]) fun c => c.rd F.TOP_IMG_STATUS_STATE = 1 ∧ c.img.phase = .header ∧
      c.img.buf = w :: [] ∧ bits w 0 8 ≠ 0x0E ∧ (bits w 0 8 = 1 → bits w 8 13 = 0 ∨ 4096 < bits w 8 13)) ∧
    (∀ p ∈ [(1, 0), (2, 0), (4096, 0x1FFF), (1, 0x1000), (1, 0xFFF)], runs (loading 0 (.data p.1 p.2) [5]) fun c =>
      c.rd F.TOP_IMG_STATUS_STATE = 1 ∧ c.img.phase = .data p.1 p.2 ∧ c.img.buf = 5 :: []) ∧
    structReserved 0x200 = false ∧ structReserved 0xFFF = true ∧
    runs (loading 1 .header []) (fun c => c.rd F.TOP_IMG_STATUS_STATE = 1 ∧ c.rd F.TOP_IMG_CTRL_SOURCE = 1) ∧
    runs (loading 0 .header []) (fun c => c.rd F.TOP_IMG_CTRL_SOURCE ≠ 1) ∧ runs {} (fun c => c.rd F.TOP_IMG_STATUS_STATE ≠ 1) ∧
    runs (loading 1 .header [] 7) (fun c => c.rd F.TOP_IMG_STATUS_STATE = 1 ∧ c.rd F.TOP_IMG_CTRL_SOURCE = 1 ∧ c.img.flashLeft < 8 ∧
      c.img.buf = []) ∧
    runs {} (fun c => c.img.erasing = false) ∧
    runs { img := { erasing := true, heldStart := true } } (fun c => c.img.erasing = true ∧ c.img.heldStart = true ∧
      c.rd F.TOP_IMG_STATUS_STATE = 0) ∧
    runs { img := { erasing := true } } (fun c => c.img.erasing = true ∧ c.img.heldStart = false) := by decide +kernel

theorem witness_ImageLoading_resolved :
    runs {} (fun c => c.img.resolving = false) ∧ runs { img := { resolving := true } } (fun c => c.img.resolving = true) ∧
    runs {} (fun c => c.on F.TOP_IMG_STATUS_HASH_BUSY = false) ∧
    runs (chip [(F.TOP_IMG_STATUS_HASH_BUSY, 1)]) (fun c => c.on F.TOP_IMG_STATUS_HASH_BUSY = true) ∧
    (∀ v : Fin 2, reads .pf aStructData (chip [(F.TOP_STRUCT_ADDR_INDEX, 4095), (F.TOP_STRUCT_ADDR_AUTOINC, v)]) fun c =>
      c.on F.TOP_STRUCT_ADDR_AUTOINC = decide (v.val = 1)) := by decide +kernel

/-! ### Bridges and converter dies -/

/-- The block with the bridge of die `e` in this state. -/
def bridge (e st : Nat) (c : Chip) : Chip := c.setBr e fun b => { b with st := st }

theorem witness_Bridges : ∀ e : Fin 2,
    runs (chip [(F.CNV_STATUS_CKM_LOCK e, 1)]) (fun c => (c.br e).st = 0 ∧ c.supplyOk e = true ∧ (c.cv e).hot = false ∧
      c.on (F.CNV_STATUS_CKM_LOCK e) = true ∧ c.bridgeBarred e = false) ∧
    runs (chip [(F.FLT_PAIR_PAIR 6, 2 ^ 24)]) (fun c => c.bridgeBarred e = true) ∧
    runs (bridge e 1 {}) (fun c => (c.br e).st ≠ 0) ∧ runs { railBad := [.vddCnv e] } (fun c => c.supplyOk e = false) ∧
    runs (({} : Chip).setCv e fun d => { d with hot := true }) (fun c => (c.cv e).hot = true) ∧
    runs {} (fun c => c.on (F.CNV_STATUS_CKM_LOCK e) = false ∧ (c.br e).retxUp = none ∧ (c.br e).st ≠ 2 ∧ (c.br e).st ≠ 1) ∧
    (∀ k ∈ [0, 2, 3], runs (({} : Chip).setBr e fun b => { b with retxUp := some k }) fun c => (c.br e).retxUp = some k ∧ (c.br e).retxDn = none) ∧
    (∀ k ∈ [0, 2, 3], runs (({} : Chip).setBr e fun b => { b with retxDn := some k }) fun c => (c.br e).retxDn = some k ∧ (c.br e).retxUp = none) ∧
    (∀ k ∈ [1, 3], runs ((bridge e 2 {}).setBr e fun b => { b with retxUp := some (k - 1) }) fun c => (c.br e).st = 2 ∧
      (c.br e).retxUp = some (k - 1) ∧ c.srcBit F.FLT_PAIR_PAIR (404 + e) = false) ∧
    runs ((bridge e 2 {}).setBr e fun b => { b with retxDn := some 3 }) (fun c => (c.br e).st = 2 ∧ c.lossMet e 1 = true ∧ c.lossMet e 3 = true) ∧
    runs (bridge e 2 (chip [(F.CNV_STATUS_CKM_LOCK e, 1)])) (fun c => (c.br e).st = 2 ∧ c.lossMet e 1 = false ∧ c.lossMet e 3 = false ∧
      c.lossMet e 0 = false ∧ c.lossMet e 2 = true) ∧
    runs ((bridge e 2 {}).setBr e fun b => { b with crcLoss := true }) (fun c => (c.br e).st = 2 ∧ c.lossMet e 0 = true) ∧
    (∀ v ∈ [0, 1, 2, 3, 4], runs (bridge e 2 (chip [(F.CNV_STATUS_STATE e, v)])) fun c => (c.br e).st = 2 ∧
      c.srcBit F.FLT_ACTIVE_ACTIVE (406 + e) = false ∧ c.srcBit F.FLT_PAIR_PAIR (404 + e) = false) ∧
    runs (bridge e 1 (chip [(F.CNV_STATUS_STATE e, 4), (F.CNV_STATUS_CKM_LOCK e, 1)])) (fun c => (c.br e).st = 1 ∧ (c.cv e).held = [] ∧
      c.rd (F.CNV_STATUS_STATE e) = 4 ∧ c.on (F.CNV_STATUS_CKM_LOCK e) = true ∧ (c.cv e).cut = false) ∧
    runs (bridge e 1 {}) (fun c => (c.br e).st = 1 ∧ (c.cv e).held = [] ∧ c.rd (F.CNV_STATUS_STATE e) ≠ 4) := by decide +kernel

theorem witness_Bridges_muteEnds : ∀ n ∈ [(0 : Fin 128), 127],
    runs {} (fun c => (c.sq (c.leader n)).brGood = none) ∧
    runs (({} : Chip).setSq n fun q => { q with brGood := some 0 }) (fun c => (c.sq (c.leader n)).brGood = some 0 ∧ c.air.onB = false) ∧
    runs { ((chip []).setRouted n true).setSq n (fun q => { q with brGood := some 0 }) with
        air := { onB := true, mono := 16 * 16000 }
        img := { space := [(16 * n.val, 1)] } }
      (fun c => (c.sq (c.leader n)).brGood = some 0 ∧ c.air.onB = true ∧ c.routed (c.leader n) = true ∧
        (16 + c.firTaps (c.leader n)) * 16000 ≤ (c.air.mono - 0) * c.slotBw (c.leader n)) := by decide +kernel

/-! ### Power sums and converter dies -/

theorem witness_PowerSums :
    runs (onB {}) (fun c => c.air.onB = true ∧ c.tempoNum % 16 = 0) ∧
    runs (onB (chip [(F.AIR_AT_AT, 15 * 4096)])) (fun c => c.tempoNum % 16 ≠ 0) ∧ runs {} (fun c => c.air.onB = false) := by
  decide +kernel

/-- The die `e` in this state, with a locked clock. -/
def dieIn (e st : Nat) (l : List (Fld × Nat) := []) : Chip := chip ([(F.CNV_STATUS_STATE e, st), (F.CNV_STATUS_CKM_LOCK e, 1)] ++ l)

theorem witness_ConverterPower : ∀ e : Fin 2,
    (∀ st : Fin 5, writes .pf (0x200008 + 0x100000 * e) (dieIn e st) fun c => c.rd (F.CNV_STATUS_STATE e) = st) ∧
    writes .pf (0x200008 + 0x100000 * e) {} (fun c => c.rd (F.CNV_STATUS_STATE e) = 0 ∧ c.supplyOk e = true ∧ c.refIn = true ∧ (c.cv e).hot = false) ∧
    writes .pf (0x200008 + 0x100000 * e) { railBad := [.vddaCnv e] } (fun c => c.supplyOk e = false) ∧
    writes .pf (0x200008 + 0x100000 * e) (({} : Chip).setCv e fun d => { d with hot := true }) (fun c => (c.cv e).hot = true) ∧
    writes .pf (0x200008 + 0x100000 * e) (bridge e 2 (dieIn e 3)) (fun c => (c.br e).st = 2 ∧ (c.br e).retxDn = none) ∧
    writes .pf (0x200008 + 0x100000 * e) ((bridge e 2 (dieIn e 3)).setBr e fun b => { b with retxDn := some 0 })
      (fun c => ¬ ((c.br e).st = 2 ∧ (c.br e).retxDn = none) ∧ (c.cv e).held.length < 64) ∧
    writes .pf (0x200008 + 0x100000 * e) ((dieIn e 3).setCv e fun d => { d with held := List.replicate 63 ⟨0, .lo, 0⟩ })
      (fun c => (c.br e).st ≠ 2 ∧ (c.cv e).held.length < 64) ∧
    writes .pf (0x200008 + 0x100000 * e) ((dieIn e 3).setCv e fun d => { d with held := List.replicate 64 ⟨0, .lo, 0⟩ })
      (fun c => (c.br e).st ≠ 2 ∧ 64 ≤ (c.cv e).held.length ∧ c.srcBit F.FLT_PAIR_PAIR 414 = false) := by decide +kernel

theorem witness_ConverterClocks : ∀ e : Fin 2,
    (∀ st : Fin 2, runs ((bridge e 2 (chip [(F.CNV_STATUS_STATE e, 4)])).setCv e fun d => { d with ckmTry := true, cut := decide (st.val = 1) })
      fun c => (c.cv e).ckmTry = true ∧ c.on (F.CNV_STATUS_CKM_LOCK e) = false ∧ c.rd (F.CNV_STATUS_STATE e) = 4 ∧ (c.br e).st = 2) ∧
    runs {} (fun c => (c.cv e).ckmTry = false ∧ c.on (F.CNV_STATUS_CKM_LOCK e) = false ∧ c.rd (F.CNV_STATUS_STATE e) ≠ 1 ∧
      c.srcBit F.FLT_ACTIVE_ACTIVE (412 + e) = false ∧ c.srcBit F.FLT_PAIR_PAIR (412 + e) = false) ∧
    (∀ st : Fin 5, runs (bridge e 2 (dieIn e st)) fun c => c.on (F.CNV_STATUS_CKM_LOCK e) = true ∧ (c.br e).st = 2 ∧
      c.rd (F.CNV_STATUS_STATE e) = st ∧ c.rd (F.CNV_CLK_RATE_K 0) = c.rd (F.CNV_CLK_RATE_K 1)) ∧
    runs (bridge e 2 (dieIn e 1 [(F.CNV_CLK_RATE_K e, 7)])) (fun c => c.rd (F.CNV_CLK_RATE_K 0) ≠ c.rd (F.CNV_CLK_RATE_K 1)) ∧
    (∀ p : Fin 3, runs ((dieIn e 2).setCv e fun d => { d with phase := p }) fun c => c.rd (F.CNV_STATUS_STATE e) = 2 ∧
      (c.cv e).phase = p ∧ (∀ l, l < 8 → c.phaseC e l = false) ∧ c.rd (F.CNV_STATUS_BAND e) < 6) ∧
    runs (((dieIn e 2 [(F.CNV_LANE_RX_PATH e 7, 1), (F.CNV_SYN_EN e 0, 1)]).dieWr e (synLockFld e 0) 1).setCv
      e fun d => { d with phase := 1 }) (fun c => c.rd (F.CNV_STATUS_STATE e) = 2 ∧ (c.cv e).phase = 1 ∧ c.phaseC e 7 = true) := by
  decide +kernel

theorem witness_ConverterClocks_synthesisers : ∀ e y : Fin 2,
    loOk 8 2315572 = true ∧ loOk 8 2315571 = false ∧ loOk 9 0 = true ∧ loOk 38 0 = true ∧ loOk 39 1048576 = true ∧ loOk 39 1048577 = false ∧
    writes .pf (0x200020 + 0x100000 * e + 8 * y) (bridge e 2 (chip [(F.CNV_SYN_EN e y, 1), (F.CNV_LANE_LO_SEL e 7, y), (F.CNV_LANE_TX_PATH e 7, 2)] |>.setCv
      e fun d => { d with laneOn := 128 })) (fun c => (c.br e).st = 2 ∧ c.on (F.CNV_SYN_EN e y) = true ∧ c.online e 7 = true ∧ c.usesSyn e 7 y = true) ∧
    writes .pf (0x200020 + 0x100000 * e + 8 * y) (bridge e 2 {}) (fun c => (c.br e).st = 2 ∧ c.on (F.CNV_SYN_EN e y) = false) ∧
    runs (dieIn e 3 [(F.CNV_SYN_EN e y, 1)]) (fun c => c.on (F.CNV_SYN_EN e y) = true ∧ c.rd (F.CNV_STATUS_STATE e) ≠ 0 ∧
      c.dieRd e (synLockFld e y) = 0) ∧
    runs ((dieIn e 3 [(F.CNV_SYN_EN e y, 1)]).dieWr e (synLockFld e y) 1) (fun c => c.on (F.CNV_SYN_EN e y) = true ∧
      c.dieRd e (synLockFld e y) = 1 ∧ bit (c.cv e).synBlank y = true ∧ c.srcBit F.FLT_ACTIVE_ACTIVE (412 + e) = false) ∧
    runs (({} : Chip).setCv e fun d => { d with synBlank := 0 }) (fun c => c.on (F.CNV_SYN_EN e y) = false ∧ bit (c.cv e).synBlank y = false) := by
  decide +kernel

theorem witness_ConverterLanes : ∀ e : Fin 2,
    (∀ l ∈ [0, 7], ∀ st : Fin 5, writes .pf (0x200040 + 0x100000 * e + 8 * l) (bridge e 2 (dieIn e st)) fun c =>
      (c.br e).st = 2 ∧ c.rd (F.CNV_STATUS_STATE e) = st ∧ c.on (F.CNV_LANE_ONLINE e l) = false) ∧
    (∀ l ∈ [0, 7], writes .pf (0x200040 + 0x100000 * e + 8 * l) (bridge e 2 (dieIn e 2 [(F.CNV_LANE_ONLINE e l, 1)])) fun c =>
      (c.br e).st = 2 ∧ c.on (F.CNV_LANE_ONLINE e l) = true) ∧
    (∀ l ∈ [0, 7], runs (onB (({} : Chip).setCv e fun d => { d with onDue := [(l, 0)] })) fun c => c.air.onB = true ∧ 0 ≤ c.air.tempi ∧
      (c.cv e).onDue.find l = some 0) := by decide +kernel

theorem witness_ConverterLanes_events : ∀ e : Fin 2,
    (∀ l ∈ [0, 7], runs (onB (({} : Chip).setCv e fun d => { d with onDue := [(l, 1)] })) fun c => (c.cv e).onDue.find l = some 1 ∧ c.air.tempi < 1) ∧
    runs {} (fun c => c.air.onB = false ∧ (c.br e).st ≠ 2 ∧ (c.cv e).onDue.find 7 = none ∧ c.rd (F.CNV_STATUS_STATE e) = 0) ∧
    runs ((bridge e 2 {}).setBr e fun b => { b with retxUp := some 0 }) (fun c => (c.br e).retxUp.isSome = true) ∧
    runs (bridge e 2 {}) (fun c => (c.br e).st = 2 ∧ (c.br e).retxUp = none ∧ (c.cv e).die = [] ∧ ∀ l, l < 8 → c.rd (F.CNV_LANE_OVL_COUNT e l) = 0) ∧
    runs (bridge e 2 (({} : Chip).dieWr e (F.CNV_CAL_STATUS_LAST_TYPE e) 5)) (fun c =>
      (c.cv e).die = [((F.CNV_CAL_STATUS_LAST_TYPE e).key, (F.CNV_CAL_STATUS_LAST_TYPE e, 5))] ∧
      (∀ l, l < 8 → (F.CNV_CAL_STATUS_LAST_TYPE e).key ≠ (F.CNV_LANE_OVL_COUNT e l).key) ∧
      (F.CNV_CAL_STATUS_LAST_TYPE e).key ≠ (F.CNV_INT_STATUS_OVERLOAD e).key) ∧
    (∀ v ∈ [0, 2 ^ 48 - 1], runs (onB (dieIn e 3 [(F.CNV_SKEW_VALID_VALID e, v), (F.CNV_CTRL_AUTO_SKEW e, 1)] |>.setCv e fun d =>
      { d with skewDue := some 0 })) fun c => c.air.onB = true ∧ (c.cv e).skewDue = some 0 ∧ 0 ≤ c.air.tempi ∧
        c.rd (F.CNV_STATUS_STATE e) ≠ 0 ∧ c.on (F.CNV_CTRL_AUTO_SKEW e) = true ∧
        c.rdBit (F.CNV_SKEW_VALID_VALID e) (6 * 7 + c.rd (F.CNV_STATUS_BAND e)) = decide (v ≠ 0)) ∧
    (∀ b ∈ [0, 5], runs (onB (dieIn e 3 |>.setCv e fun d => { d with skewHost := [(7, (b, 0))] })) fun c => c.air.onB = true ∧
      (c.cv e).skewDue = none ∧ (c.cv e).skewHost = [(7, (b, 0))] ∧ 0 ≤ c.air.tempi ∧ c.rd (F.CNV_STATUS_STATE e) ≠ 0) := by decide +kernel

/-- A window for the transmit IQ corrections of all lanes, just long enough for one step; and the die with a window. -/
def w5 : CalWin := { ty := 5, lanes := 255, closeAt := 16 * 4096 }
@[inherit_doc w5] def window (e : Nat) (w : CalWin) (c : Chip) : Chip := c.setCv e fun d => { d with win := some w }

theorem witness_CalibrationWindow : ∀ e : Fin 2,
    runs (window e w5 (onB {})) (fun c => (c.cv e).win = some w5 ∧ c.air.onB = true ∧ w5.step = none ∧ w5.stop = false ∧
      c.air.mono + 4096 * calLen w5.ty ≤ w5.closeAt) ∧
    runs (window e { w5 with closeAt := 16 * 4096 - 1 } (onB {})) (fun c => (16 * 4096 - 1) < c.air.mono + 4096 * calLen 5) ∧
    runs (window e w5 {}) (fun c => c.air.onB = false ∧ c.now + (w5.closeAt - c.air.mono) ≥ c.nextBoundary) ∧
    (∀ m : Fin 2, runs (window e { w5 with step := some 1 } { air := { mono := m } }) fun c => (c.cv e).win = some { w5 with step := some 1 } ∧
      c.air.mono = m ∧ ({ w5 with step := some 1 } : CalWin).bad = false) ∧
    (∀ k ∈ [0, 28, 29, 30], runs (window e { w5 with step := some 0 } (({} : Chip).dieWr e (F.CNV_CAL_PROG_STEPS e) (k * 2 ^ 32))) fun c =>
      (c.cv e).win = some { w5 with step := some 0 } ∧ c.calSteps e 5 = k ∧ calTotal 5 = 30) := by decide +kernel

theorem witness_CalibrationWindow_ends : ∀ e : Fin 2,
    (∀ t : Fin 6, runs (({ air := { onB := true } } : Chip).setCv e fun d => { d with calApply := some (t.val, 128, []), calDue := 0 }) fun c =>
      (c.cv e).calApply = some (t.val, 128, []) ∧ c.air.onB = true ∧ (c.cv e).calDue ≤ c.air.tempi ∧ c.rd (F.CNV_STATUS_BAND e) < 6 ∧
        bit 128 7 = true) ∧
    runs (({ air := { onB := true } } : Chip).setCv e fun d => { d with calApply := some (2, 1, []), calDue := 1 }) (fun c =>
      c.air.tempi < (c.cv e).calDue) ∧
    runs (window e { w5 with closeAt := 4095 } {}) (fun c => c.now + (4095 - c.air.mono) < c.nextBoundary ∧ bit w5.lanes 7 = true ∧
      calRx 2 = true) := by decide +kernel

/-! ### The timeline and the schedule -/

/-- The timeline in this state from source `src`. -/
def timeline (src st : Nat) (a : Air) (l : List (Fld × Nat) := []) : Chip :=
  { chip ([(F.AIR_CTRL_SOURCE, src), (F.AIR_STATUS_STATE, st)] ++ l) with air := a }

theorem witness_TempoBoundary : (∀ v : Fin 2, out (chip [(F.PWR_SLEEP_STATE, v)]) fun c => c.asleep = decide (v.val = 1) ∧ c.now < 2 ^ 64 ∧
    c.nextBoundary ≤ (c.now / sfnCycle + 1) * sfnCycle) ∧
    out (chip [(F.AIR_AT_AT, 2 ^ 64 - 1)]) (fun c => c.nextBoundary = 2 ^ 64) ∧
    out { chip [(F.AIR_AT_AT, sfnCycle - 1)] with air := { notBefore := 2 } } (fun c => (c.now / sfnCycle + 1) * sfnCycle < c.nextBoundary ∧
      (c.now / sfnCycle + 1) * sfnCycle < 2 ^ 64) := by decide +kernel

theorem witness_TimelineAccesses :
    (∀ st : Fin 4, writes .pf 0x100048 (timeline 1 st {}) fun c => c.rd F.AIR_STATUS_STATE = st) ∧
    (∀ r : Fin 2, ∀ m : Fin 8, ∀ p : Fin 2, writes .pf 0x100000 (chip [(F.AIR_CTRL_RAT, r), (F.AIR_CTRL_MU, m), (F.AIR_CTRL_ECP, p)]) fun c =>
      (c.rd F.AIR_CTRL_RAT, c.rd F.AIR_CTRL_MU, c.rd F.AIR_CTRL_ECP) = (r.val, m.val, p.val)) ∧
    numerOk 1 0 0 = true ∧ numerOk 0 1 1 = false ∧
    writes .pf 0x100000 (({} : Chip).setRouted 127 true) (fun c => c.leader 127 = 127 ∧ c.holdCovers 127 = true) ∧
    reads .pf 0x100038 {} (fun _ => True) := by decide +kernel

theorem witness_Timeline_detections :
    out (timeline 1 0 { stepped := true } [(F.AIR_CELL_DET_THR, 4)]) (fun c => c.rd F.AIR_CTRL_SOURCE = 1 ∧ c.on F.AIR_STATUS_CFG_ERR = false ∧
      c.rd F.AIR_CELL_DET_THR < 5 ∧ 0 = c.rd F.AIR_CELL_PCI ∧ (c.detAt 0).err.natAbs ≤ 256 * c.rd F.AIR_WIN_LOCK_WIN ∧
      c.rd F.AIR_STATUS_STATE = 0 ∧ c.air.stepped = true) ∧
    out (timeline 1 0 {}) (fun c => c.air.stepped = false ∧ c.air.pendStep = none) ∧
    out (timeline 1 0 { stepped := true }) (fun c => ¬ (c.detAt 9830400).err.natAbs ≤ 256 * c.rd F.AIR_WIN_LOCK_WIN ∧
      ¬ (c.detAt 9830400).err.natAbs ≤ 256 * c.rd F.AIR_WIN_SLEW_WIN) ∧
    (∀ st : Fin 4, out (timeline 1 st {}) fun c => c.rd F.AIR_STATUS_STATE = st) ∧
    out (timeline 2 0 {}) (fun c => c.rd F.AIR_CTRL_SOURCE ≠ 1 ∧ c.air.syncAt = none) ∧
    out (timeline 1 0 {} [(F.AIR_STATUS_CFG_ERR, 1)]) (fun c => c.on F.AIR_STATUS_CFG_ERR = true) ∧
    (∀ p : Fin 2, (timeline 2 1 { syncAt := some 0 } [(F.AIR_EXT_PPS_POL, p), (F.AIR_EXT_SYNC_POL, p)]).rd F.AIR_CTRL_SOURCE = 2 ∧
      (timeline 2 1 { syncAt := some 0 } [(F.AIR_EXT_PPS_POL, p), (F.AIR_EXT_SYNC_POL, p)]).on F.AIR_EXT_PPS_POL = decide (p.val = 1) ∧
      (timeline 2 1 { syncAt := some 0 } [(F.AIR_EXT_PPS_POL, p), (F.AIR_EXT_SYNC_POL, p)]).on F.AIR_EXT_SYNC_POL = decide (p.val = 1)) := by
  decide +kernel

theorem witness_Timeline_states :
    let x : Detection := { err := 256, pos := 1, time := 0 }
    out (timeline 1 0 { pendStep := some x, onB := true }) (fun c => c.air.pendStep = some x ∧ c.rd F.AIR_STATUS_STATE = 0 ∧
      c.air.onB = true ∧ c.on F.AIR_STATUS_CFG_ERR = false ∧ ∀ o ∈ c.air.taken, (c.now : Int) < o.fire) ∧
    out (timeline 1 0 { pendStep := some x, onB := true, taken := [⟨0, 0, 7, 0, 0, true⟩] }) (fun c => ∃ o ∈ c.air.taken, o.fire ≤ (c.now : Int)) ∧
    out {} (fun c => c.air.pendStep = none ∧ c.air.onB = false) ∧
    (∀ st : Fin 4, out (timeline 1 st {}) fun c => c.rd F.AIR_STATUS_STATE = st ∧ c.rd F.AIR_CTRL_SOURCE ≠ 3) ∧
    out (timeline 1 1 { onB := true } [(F.AIR_STATUS_HELD, 1)]) (fun c => c.air.onB = true ∧ c.on F.AIR_STATUS_HELD = true ∧ c.holdDue = false) ∧
    out (timeline 1 0 { onB := true } [(F.AIR_STATUS_HELD, 1)]) (fun c => c.holdDue = true) ∧
    out ((timeline 1 2 {} [(F.SQ_ID_PAIRED 0, 1)]).setRouted 0 true |>.setRouted 127 true) (fun c => c.rd F.AIR_STATUS_STATE = 2 ∧
      c.holdCovers 0 = true ∧ c.leader 0 = 0 ∧ c.holdCovers 127 = true ∧ c.leader 127 = 127) := by decide +kernel

theorem witness_TimingOutputs :
    out (chip [(F.AIR_CTRL_SYNC_OUT_EN, 1), (F.AIR_CTRL_PPS_OUT_EN, 1)]) (fun c => c.now % outPeriod true = 0 ∧ c.now % outPeriod false = 0 ∧
      c.on F.AIR_CTRL_SYNC_OUT_EN = true ∧ c.on F.AIR_CTRL_PPS_OUT_EN = true) ∧
    (∀ y : Bool, out (chip [(F.AIR_AT_AT, 196607)]) (fun c => c.now % outPeriod y < 196608) ∧
      out (chip [(F.AIR_AT_AT, 196608)]) (fun c => 196608 ≤ c.now % outPeriod y ∧ c.nextBoundary ≤ (c.now / outPeriod y + 1) * outPeriod y ∧
        c.air.syncOut = false ∧ c.air.ppsOut = false) ∧
      out { chip [(F.AIR_AT_AT, outPeriod y - 1)] with air := { notBefore := 2 } } (fun c => 196608 ≤ c.now % outPeriod y ∧
        (c.now / outPeriod y + 1) * outPeriod y < c.nextBoundary ∧ (c.now / outPeriod y + 1) * outPeriod y < 2 ^ 64)) ∧
    out { chip [(F.AIR_AT_AT, 196608)] with air := { syncOut := true, ppsOut := true, syncRise := 0, ppsRise := 0 } } (fun c =>
      c.air.syncOut = true ∧ c.air.ppsOut = true ∧ c.air.syncRise + 196608 < c.nextBoundary ∧ c.air.ppsRise + 196608 < c.nextBoundary) := by
  decide +kernel

theorem witness_ScheduleEntries_word1 : ∀ i ∈ [0, 1023], writes .pf (0x101008 + 16 * i) {} fun c => c.air.onB = false := by
  decide +kernel

theorem witness_ScheduleEntries :
    wKind 0 = 0 ∧ wKind 1 = 1 ∧
    (∀ i ∈ [(0 : Fin 1024), 1023], writes .pf (0x101000 + 16 * i) (chip [(F.AIR_SCHED_W1_WORD i, 10240)]) fun c =>
      c.rejected 1 (c.rd (F.AIR_SCHED_W1_WORD i)) = false ∧ ¬ (wRec 1 = false ∧ c.rd (F.AIR_SCHED_W1_WORD i) < c.now + 10240)) ∧
    (∀ i ∈ [(0 : Fin 1024), 1023], writes .pf (0x101000 + 16 * i) (chip [(F.AIR_SCHED_W1_WORD i, 10239)]) fun c =>
      c.rejected 1 (c.rd (F.AIR_SCHED_W1_WORD i)) = false ∧ wRec 1 = false ∧ c.rd (F.AIR_SCHED_W1_WORD i) < c.now + 10240) ∧
    writes .pf 0x101000 (chip [(F.AIR_SCHED_W1_WORD 0, 20481)]) (fun c => c.rejected 3 (c.rd (F.AIR_SCHED_W1_WORD 0)) = true) := by
  decide +kernel

theorem witness_ScheduleEntries_visit :
    ∀ i ∈ [(0 : Fin 1024), 1023], out { air := { scanIdx := i } } fun c => c.air.scanIdx = i.val ∧ c.air.armed.find i = none := by
  decide +kernel

theorem witness_ScheduleEntries_take :
    ∀ w1 ∈ [2047, 2048, 10255, 10256], let e : Armed := { w0 := 1, w1 := w1, first := 0, last := none }
      out { air := { armed := [(1023, e)], scanIdx := 1023 } } fun c => c.air.scanIdx = 1023 ∧ c.air.armed.find 1023 = some e ∧
        wRec e.w0 = false ∧ e.last = none ∧ c.asleep = false ∧ wKind e.w0 ≠ 3 ∧ c.overLimit (e.occ 1023 e.w1) = false ∧ c.now = 0 := by
  decide +kernel

/-- The block with one taken occurrence of this kind that fires now. -/
def taken (kind target arg : Nat) (c : Chip) : Chip :=
  { c with air := { c.air with taken := [⟨c.now, 0, kind, target, arg, true⟩] } }

/-- `Fires` for the only occurrence that is taken. -/
abbrev fires (k : Nat) (o : Occ) (c : Chip) : Prop := c.air.taken = [o] ∧ o.kind = k ∧ c.canBe o.fire.toNat = true

theorem fires_meets {k : Nat} {o : Occ} {c : Chip} (h : fires k o c) : Fires k o [] c := h

/-- A descriptor that starts at a CAPTURE occurrence. -/
def scheduled : CapDesc :=
  { tag := 0, nElem := 1, format := 0, start := 2, src := 0, unit := 0, streams := 1, startAt := 0, gather := 0, irq := false }

theorem witness_ScheduleFiring :
    (∀ k ∈ [1, 2, 4, 5, 6, 7], runs (taken k 0 1 {}) fun c => fires k ⟨0, 0, k, 0, 1, true⟩ c) ∧
    (∀ x ∈ [0, 31], runs (taken 1 x 1 (dieIn (x / 16) 3)) fun c => fires 1 ⟨0, 0, 1, x, 1, true⟩ c ∧ c.rd (F.CNV_STATUS_STATE (x / 16)) = 3) ∧
    (∀ x ∈ [32, 47], runs (taken 1 x 1 {}) fun c => fires 1 ⟨0, 0, 1, x, 1, true⟩ c ∧ 32 ≤ x) ∧
    (∀ x ∈ [0, 31], runs (taken 1 x 1 {}) fun c => fires 1 ⟨0, 0, 1, x, 1, true⟩ c ∧ c.rd (F.CNV_STATUS_STATE (x / 16)) ≠ 3) ∧
    (∀ x ∈ [0, 0x100], runs (taken 4 x 1 (dieIn (bits x 8 1) 3)) fun c => fires 4 ⟨0, 0, 4, x, 1, true⟩ c ∧
      c.rd (F.CNV_STATUS_STATE (bits x 8 1)) = 3 ∧ (c.cv (bits x 8 1)).win = none) ∧
    runs (taken 4 0 1 ((dieIn 0 3).setCv 0 fun d => { d with win := some { ty := 1, lanes := 1, closeAt := 4096 } })) (fun c =>
      fires 4 ⟨0, 0, 4, 0, 1, true⟩ c ∧ (c.cv 0).win.isSome = true) := by decide +kernel

theorem witness_ScheduleFiring_capture :
    runs (taken 5 1 0 {}) (fun c => fires 5 ⟨0, 0, 5, 1, 0, true⟩ c ∧ (c.eng 1).cur = none) ∧
    runs (taken 5 1 0 (({} : Chip).setEng 1 fun e => { e with cur := some { q := 0, desc := some scheduled } })) (fun c =>
      fires 5 ⟨0, 0, 5, 1, 0, true⟩ c ∧ (c.eng 1).cur = some { q := 0, desc := some scheduled } ∧ scheduled.start = 2) ∧
    runs (taken 6 15 1 {}) (fun c => fires 6 ⟨0, 0, 6, 15, 1, true⟩ c) ∧
    (∀ v x : Fin 2, out (taken 7 0 15 (chip [(F.INT_SRC_WAKE 663, v), (F.AIR_INT_EN_EN, x * 2 ^ 19)])) fun c =>
      fires 7 ⟨0, 0, 7, 0, 15, true⟩ c ∧ c.asleep = false ∧ c.rdBit F.AIR_INT_EN_EN (4 + bits 15 0 4) = decide (x.val = 1) ∧
      c.on (F.INT_SRC_WAKE (648 + bits 15 0 4)) = decide (v.val = 1)) ∧
    out (taken 7 0 15 (chip [(F.PWR_SLEEP_STATE, 1)])) (fun c => fires 7 ⟨0, 0, 7, 0, 15, true⟩ c ∧ c.asleep = true) := by decide +kernel

theorem witness_ScheduleFiring_plan :
    runs (taken 3 5 0 (onB {})) (fun c => c.air.taken = [⟨0, 0, 3, 5, 0, true⟩] ∧ c.air.onB = true ∧ c.tenDue = false ∧
      (0 : Int) = (c.now : Int) ∧ ∀ x, x < 10 → c.rd (F.GPL_STATUS_STATE x) ≠ 3) ∧
    (∀ x ∈ [0, 9], runs (taken 3 5 0 (onB (chip [(F.GPL_STATUS_STATE x, 3), (F.GPL_STATUS_PLAN_ID x, 5)]))) fun c =>
      c.rd (F.GPL_STATUS_STATE x) = 3 ∧ c.rd (F.GPL_STATUS_PLAN_ID x) = 5 ∧ ∀ y, y < 10 → y ≠ x → c.rd (F.GPL_STATUS_STATE y) ≠ 3) := by
  decide +kernel

/-! ### Front ends and squares -/

theorem witness_FrontEndControl :
    writes .pf 0x400020 (dieIn 0 3) (fun c => c.trOpen 31 = false) ∧
    writes .pf 0x400028 { dieIn 1 3 with trTaken := 2 ^ 31 } (fun c => c.trOpen 31 = true ∧ c.trAt.find 31 ≠ some c.air.mono) ∧
    writes .pf 0x400028 { dieIn 1 3 with trTaken := 2 ^ 31, trAt := [(31, 0)] } (fun c => c.trOpen 31 = true ∧ c.trAt.find 31 = some c.air.mono) ∧
    bit (Half.image .hi (2 ^ 15)) 47 = true ∧ bit (Half.image .lo (2 ^ 31)) 31 = true ∧ bit (Half.image .lo 0) 31 = false ∧
    opReads 3 = true ∧ opReads 6 = false ∧
    (∀ m ∈ [(0 : Fin 6), 5], ∀ n ∈ [0, 31, 32], writes .pf (aRffeCmd m) (({} : Chip).setRf m fun x =>
      { x with cmds := List.replicate n ⟨1, 1, 0, 0, 0⟩ }) fun c => (c.rf m).cmds.length = n) ∧
    (∀ m ∈ [(0 : Fin 6), 5], ∀ op ∈ [1, 7], ∀ n ∈ [0, 31, 32], runs (({} : Chip).setRf m fun x =>
      { x with cmds := [⟨op, 1, 0, 3, 0⟩], busy := true, results := List.replicate n ⟨0, false, false, 3⟩ }) fun c =>
      (c.rf m).cmds = ⟨op, 1, 0, 3, 0⟩ :: [] ∧ (c.rf m).busy = true ∧ (c.rf m).results.length = n) ∧
    runs {} (fun c => (c.rf 0).cmds = [] ∧ (c.rf 0).busy = false) ∧ reads .pf (0x400210 + 0x20 * 5) {} (fun _ => True) := by decide +kernel

theorem witness_Coefficients_fir : ∀ n ∈ [(0 : Fin 128), 127],
    (∀ i ∈ [0, 383, 384, 511], ∀ v : Fin 2, writes .pf (aCoefData n) (chip [(F.SQ_COEF_ADDR_INDEX n, i), (F.SQ_COEF_ADDR_AUTOINC n, v)]) fun c =>
      c.coefLocked n = false ∧ c.rd (F.SQ_COEF_ADDR_INDEX n) = i ∧ c.on (F.SQ_COEF_ADDR_AUTOINC n) = decide (v.val = 1)) ∧
    writes .pf (aCoefData n) { chip [(F.GPL_STATUS_STATE 9, 3)] with
      claims := [(targetOf (keyAddr (F.SQ_CTRL_FIR_BANK n).key), 9)], shadow := [((F.SQ_CTRL_FIR_BANK n).key, 1)] }
      (fun c => c.coefLocked n = true) ∧ reads .pf (aCoefData n) {} (fun _ => True) := by decide +kernel

theorem witness_Coefficients_echo : ∀ n ∈ [(0 : Fin 128), 127],
    (∀ t ∈ [0, 63], ∀ v : Fin 2, writes .pf (aEcData n) (chip [(F.SQ_EC_CADDR_TAP n, t), (F.SQ_EC_CADDR_AUTOINC n, v)]) fun c =>
      c.isMember n = false ∧ c.sqState n = 0 ∧ c.on (F.SQ_EC_CTRL_EC_EN n) = false ∧ c.rd (F.SQ_EC_CADDR_TAP n) = t ∧
      c.on (F.SQ_EC_CADDR_AUTOINC n) = decide (v.val = 1)) ∧
    writes .pf (aEcData n) (chip [(F.SQ_EC_CTRL_EC_EN n, 1), (F.SQ_STATUS_STATE n, 3)]) (fun c => c.isMember n = false ∧
      c.on (F.SQ_EC_CTRL_EC_EN n) = true ∧ c.sqState n ≠ 0) ∧ reads .pf (aEcData n) {} (fun _ => True) := by decide +kernel

/-- Square `n` routed, in this state, at a boundary; FIR_TAPS and SLOT_BW as in this word 0 and word 3. -/
def square (n st : Nat) (q : Sq := {}) (l : List (Fld × Nat) := []) : Chip :=
  onB (((chip ([(F.SQ_STATUS_STATE n, st)] ++ l)).setRouted n true).setSq n fun _ => q)

theorem witness_Squares_states : ∀ n ∈ [(0 : Fin 128), 127],
    (∀ m : Fin 2, runs { square n 1 {} [(F.SQ_STATUS_MS_HOLD n, m)] with air := { onB := true, mono := 16 * 16000 }, img := { space := [(16 * n.val, 1)] } } fun c =>
      c.sqState n = 1 ∧ c.air.onB = true ∧ c.filled n (c.sq n).fillAt = true ∧ c.muted n = decide (m.val = 1)) ∧
    (∀ st : Fin 6, ∀ en : Fin 2, runs (square n st {} [(F.SQ_CTRL_ENABLE n, en)]) fun c => c.sqState n = st ∧
      c.on (F.SQ_CTRL_ENABLE n) = decide (en.val = 1) ∧ c.muted n = false ∧ c.air.onB = true ∧ c.acts n = true ∧ c.leaving n = false) ∧
    runs { square n 5 with ten := { assign := some (0, 0, 0) } } (fun c => c.leaving n = true) ∧
    runs (square n 3 {} [(F.SQ_CTRL_ENABLE n, 1), (F.CNV_STATUS_STATE (rxDie n), 3)]) (fun c => c.placedNow n = false ∧ c.rd (F.CNV_STATUS_STATE (rxDie n)) = 3) ∧
    (∀ x ∈ [(1, 0), (2, 1), (2, 0), (4, 0)], runs { square n x.1 { ramp := x.2 } with img := { space := [(16 * n.val, 1)] } } fun c =>
      c.sqState n = x.1 ∧ (c.sq n).ramp = x.2) ∧
    runs { square n 2 { ramp := 2 } with img := { space := [(16 * n.val, 1)] } } (fun c => c.sqState n = 2 ∧ c.rampN n ≤ (c.sq n).ramp) ∧
    runs {} (fun c => c.air.onB = false) := by decide +kernel

theorem witness_Squares_faults : ∀ n ∈ [(0 : Fin 128), 127],
    (∀ st : Fin 6, runs (square n st) fun c => c.leader n = n ∧ c.on (F.SQ_STATUS_MS_FAULT n) = false ∧ c.sqState n = st ∧
      c.srcBit F.FLT_PAIR_PAIR n = false ∧ (c.sq n).stab = []) ∧
    runs (square n 5 { stab := [(1, 0), (2, 0), (255, 0)] }) (fun c => (c.sq n).stab = [(1, 0), (2, 0), (255, 0)] ∧ c.dueAt 0 = true ∧
      c.srcBit F.FLT_PAIR_PAIR (128 + n) = false ∧ (c.sq n).fParity = false ∧ (c.sq n).sevParity = false ∧ c.severe (128 + n) = false) ∧
    runs (square n 5 { stab := [(1, 0), (2, 1)] }) (fun c => (c.sq n).stab = [(1, 0), (2, 1)] ∧ c.dueAt 1 = false) ∧
    runs (square n 5 { stab := [(255, 0)] } [(F.FLT_PAIR_PAIR 2, 2 ^ 64 - 1), (F.FLT_PAIR_PAIR 3, 2 ^ 64 - 1)]) (fun c =>
      (c.sq n).stab = [(255, 0)] ∧ c.srcBit F.FLT_PAIR_PAIR (128 + n) = true) ∧
    runs (square n 0) (fun c => c.dueAt (c.cv (rxDie n)).bandAt = true) ∧
    runs ((square n 0).setCv (rxDie n) fun x => { x with bandAt := 1 }) (fun c => c.dueAt (c.cv (rxDie n)).bandAt = false) := by decide +kernel

theorem witness_Squares_estimates : ∀ n ∈ [(0 : Fin 128), 127],
    runs (square n 3 { estDue := some 0, estNew := some ⟨9000, 8000, []⟩, goodSteps := 2 }) (fun c =>
      c.estAt n = true ∧ (c.sq n).estNew = some ⟨9000, 8000, []⟩ ∧ 2 ≤ (c.sq n).goodSteps ∧ c.on (F.SQ_EC_STATUS_EST_VALID n) = false ∧
      c.lanes n = []) ∧
    runs (square n 3 { estDue := some 0 }) (fun c => (c.sq n).estNew = none ∧ c.estAt n = true) ∧
    runs (square n 3 { estDue := some 1 }) (fun c => c.estAt n = false) ∧
    runs { square n 3 { estDue := some 0, lane := [(7, { above := 2 })] } with img := { space := [(16 * n.val + 1, 0x80)] } } (fun c =>
      c.estAt n = true ∧ (c.sq n).estMiss = false ∧ 7 ∈ c.lanes n ∧ 2 ≤ c.stepsAbove n 7 ∧
        c.rdBit (F.SQ_EC_STATUS_DIVERGED n) 7 = false) := by decide +kernel

theorem witness_CoarseBlocks : ∀ n ∈ [(0 : Fin 128), 127],
    (∀ v : Fin 2, runs { square n 3 {} [(F.SQ_ID_PAIRED n, v)] with img := { space := [(16 * n.val + 1, 0x81)] } } fun c => c.acts n = true ∧
      c.sqState n ≠ 0 ∧ bit (c.laneEn n) 7 = true ∧ (v.val = 1 → c.absent n 7 = true)) ∧
    runs {} (fun c => c.acts n = false) ∧ runs (square n 0) (fun c => c.acts n = true ∧ c.sqState n = 0) := by decide +kernel

/-- Two flits on each receive lane but the last, whose first came as lost; a flit with a wrong CRC. -/
theorem witness_CoarseBlocks_flits : let f := sampleFlit [4, -4, 8, 0, 0, 0, 0, -32768]
    let c : Chip := { rxLost := [(15, 1)] }
    (∀ i, i < 16 → SMap.get 0 c.rxLost i + ((if i < 15 then [f, f] else [f]) : List Nat).length = 2) ∧ flitGood f = true ∧
    flitGood (f + 1) = false ∧ flitSamples f = [4, -4, 8, 0, 0, 0, 0, -32768] ∧ c.rxZero 15 = true ∧
    ((bridge 0 2 (dieIn 0 3)).setCv 0 fun d => { d with laneOn := 1 }).rxZero 0 = false := by
  decide +kernel

/-! ### Rank co-processors and protection -/

theorem witness_RankProcessors_work : ∀ k ∈ [(0 : Fin 16), 15],
    runs (({} : Chip).setRk k fun r => { r with done := true }) (fun c => (c.rk k).done = true) ∧
    (∀ x ∈ [0, 3028], runs ((chip [(F.RK_STATUS_OUTER_PHASE k, 1)]).setRk k fun r => { r with extra := x }) fun c => (c.rk k).done = false ∧
      c.loops k = [] ∧ c.rd (F.RK_STATUS_OUTER_PHASE k) ≠ 0 ∧ 32 + (c.rk k).extra ≤ 3060) ∧
    (let n := 8 * k.val + 7;
      let e := (chip [(F.RK_STATUS_OUTER_PHASE k, 1), (F.RK_SQCTL_N_STATES k 7, 8), (F.RK_SQCTL_N_OUT k 7, 2), (F.SQ_CTRL_ENABLE n, 1)]).setRouted n true;
      runs e fun c => (c.rk k).done = false ∧ c.loops k = [n] ∧ n % 8 = 7 ∧ c.rd (F.RK_SQCTL_N_STATES k 7) ≤ 8 ∧ c.rd (F.RK_SQCTL_N_MEAS k 7) = 0 ∧
        32 + (c.rk k).extra + c.costIn n ≤ 3060 ∧ 3060 < 32 + 3060 + c.costIn n) ∧
    (∀ v w : Fin 2, let n := 8 * k.val;
      runs (((onB (chip [(F.SQ_CTRL_ENABLE n, v), (F.SQ_EC_CTRL_EC_EN n, w)])).setRouted n true).setSq n fun q => { q with lane := [(0, { cnt := 1 })] })
        fun c => c.air.onB = true ∧ c.rd (F.RK_STATUS_OUTER_PHASE k) = 0 ∧ (c.rk k).outerAt ≠ some c.air.tempi ∧ n ∈ rankSquares k ∧
          (∀ m ∈ rankSquares k, c.estAt m = false) ∧ c.acts n = true ∧ c.enabled n = decide (v.val = 1) ∧
          c.on (F.SQ_EC_CTRL_EC_EN n) = decide (w.val = 1)) ∧
    runs ((onB {}).setRk k fun r => { r with outerAt := some 0 }) (fun c => (c.rk k).outerAt = some c.air.tempi) ∧
    (∀ v : Fin 2, writes .pf (0x1101000 + 0x4000 * k + 0x400 * 7 + 8 * 85) (chip [(F.RK_CFG_VIEW_ACTIVE k, v)]) fun c =>
      c.on (F.RK_CFG_VIEW_ACTIVE k) = decide (v.val = 1) ∧ c.locked (8 * k + 7) (F.RK_SQCTL_MAT_BANK k 7) = false) ∧
    writes .pf (0x1101000 + 0x4000 * k + 0x400 * 7 + 8 * 85) { chip [(F.GPL_STATUS_STATE 9, 3)] with
      claims := [(8 * k + 7, 9)], shadow := [((F.RK_SQCTL_MAT_BANK k 7).key, 1)] }
      (fun c => c.locked (8 * k + 7) (F.RK_SQCTL_MAT_BANK k 7) = true) := by decide +kernel

theorem witness_RankProcessors_faults : ∀ k ∈ [(0 : Fin 16), 15],
    (∀ b : Fin 2, runs (chip [(F.RK_SQCTL_MAT_BANK k 7, b)]) fun c => c.rd (F.RK_SQCTL_MAT_BANK k 7) = b.val ∧
      c.srcBit F.FLT_ACTIVE_ACTIVE (384 + k) = false ∧ c.srcBit F.FLT_PAIR_PAIR (384 + k) = false ∧ c.rd (F.RK_ECC_CORRECTED k) = 0) ∧
    (∀ v : Fin 2, let c0 := { chip [(F.FLT_ACTIVE_ACTIVE 6, 2 ^ 16 - 1), (F.FLT_SEVERE_SEVERE 6, v.val * (2 ^ 16 - 1)), (F.RK_STATUS_FAULT k, 1)] with
        air := { onB := true, tempi := 100000 } }
      runs (c0.setRk k fun r => { r with clean := 8 }) fun c => c.srcBit F.FLT_ACTIVE_ACTIVE (384 + k) = true ∧
        c.on (F.RK_STATUS_FAULT k) = true ∧ c.recovered (384 + k) = true ∧ 8 ≤ (c.rk k).clean ∧ c.severe (384 + k) = decide (v.val = 1)) ∧
    runs {} (fun c => c.on (F.RK_STATUS_FAULT k) = false) := by decide +kernel

theorem witness_MuteExits : ∀ n ∈ [(0 : Fin 128), 127], ∀ e : Fin 2,
    (∀ v : Fin 2, runs ({ chip [(F.FLT_SEVERE_SEVERE 4, v.val * (2 ^ 64 - 1)), (F.FLT_SEVERE_SEVERE 5, v.val * (2 ^ 64 - 1))] with
        air := { onB := true, tempi := 100000 } }.setSq n fun q => { q with oscOn := true, oscIn := true }) fun c => (c.sq n).oscOn = true ∧
      c.recovered (256 + n) = true ∧ c.severe (256 + n) = decide (v.val = 1) ∧ c.leader n = n ∧ c.group n = [n.val] ∧ (c.sq n).oscIn = true) ∧
    runs {} (fun c => (c.sq n).oscOn = false ∧ c.on F.PRT_STATUS_DIR_NR = false ∧ c.prt.permitAt.find e = none ∧ (c.br e).st ≠ 2) ∧
    runs { chip [(F.PRT_STATUS_DIR_NR, 1)] with air := { onB := true, tempi := 100000 } } (fun c => c.on F.PRT_STATUS_DIR_NR = true ∧
      c.dueAfter c.prt.nrAt (c.rd F.PRT_DIR_CFG_DIR_HOLD) = true ∧ c.on (dirPermit (txDie n)) = false) ∧
    (∀ p : Fin 2, ∀ st ∈ [2, 3, 4], runs (bridge e 2 (chip [(F.CNV_STATUS_PERMIT e, p), (F.CNV_STATUS_STATE e, st)])) fun c => (c.br e).st = 2 ∧
      c.on (F.CNV_STATUS_PERMIT e) = decide (p.val = 1) ∧ c.rd (F.CNV_STATUS_STATE e) = st ∧ c.on (dirPermit e) = false) ∧
    runs { chip [(dirPermit e, 1)] with air := { onB := true, tempi := 16 }, prt := { permitAt := [(e.val, 0)] } } (fun c =>
      c.prt.permitAt.find e = some 0 ∧ c.on (dirPermit e) = true ∧ c.dueAfter 0 16 = true ∧ c.on F.PRT_STATUS_DIR_NR = false) := by
  decide +kernel

theorem witness_MuteExits_group : ∀ n ∈ [(0 : Fin 128), 127],
    let b := chip [(F.SQ_ID_BOND_SIZE n, 2), (F.SQ_ID_BOND_POS n, n % 2), (F.SQ_ID_BOND_SIZE (n.val ^^^ 1), 2), (F.SQ_ID_BOND_POS (n.val ^^^ 1), 1 - n % 2)]
    runs (b.setSq (n.val ^^^ 1) fun q => { q with oscOn := true }) fun c => ∃ m ∈ c.group (c.leader n), m ≠ n.val ∧ (c.sq m).oscOn = true := by
  decide +kernel

theorem witness_PinStops :
    (∀ v w : Fin 2, runs (chip [(F.PRT_STATUS_PIN_STOP, v), (F.PRT_CTRL_PIN_SYSTEM, w)]) fun c => c.prt.pinHigh = true ∧
      c.on F.PRT_STATUS_PIN_STOP = decide (v.val = 1) ∧ c.on F.PRT_CTRL_PIN_SYSTEM = decide (w.val = 1)) ∧
    ({ pwr := { kind := some 0 } } : Chip).running = false ∧
    runs { prt := { pinHigh := false } } (fun c => c.prt.pinHigh = false ∧ c.isMember 127 = false ∧ c.stopCovers 127 = false) ∧
    (∀ v : Fin 2, writes .pf 0x1300008 (chip [(F.PRT_STATUS_PIN_STOP, v)]) fun c => c.prt.pinHigh = true ∧
      c.on F.PRT_STATUS_PIN_STOP = decide (v.val = 1)) ∧
    runs { chip [(F.PRT_STATUS_PIN_STOP, 1), (F.PRT_CTRL_PIN_MODE, 1)] with air := { onB := true }, prt := { pinAck := some 0 } } (fun c =>
      c.on F.PRT_CTRL_PIN_MODE = true ∧ c.air.onB = true ∧ c.prt.pinAck = some 0 ∧ 0 ≤ c.air.tempi ∧ c.on F.PRT_STATUS_PIN_STOP = true ∧ c.stopCovers 0 = true) ∧
    runs { chip [(F.PRT_STATUS_PIN_STOP, 1), (F.PRT_CTRL_PIN_MODE, 0)] with air := { onB := true, tempi := 10000000 } } (fun c =>
      c.on F.PRT_CTRL_PIN_MODE = false ∧ c.prt.pinHigh = true ∧ c.dueAfter c.prt.pinHighAt (c.rd F.PRT_CTRL_PIN_RELEASE) = true) := by
  decide +kernel

/-- The words of a RESUME message for the PF (R194): counter 1, device 0, the base point of P-256 as public key, and its signature with
the secret key 1, worked out outside the model. -/
def resumeWords : List Nat := [
  0x20100, 0x100000000000000, 0x0, 0x0, 0x47422ce1f2d1176b, 0xf240a463e5e6bcf8, 0xa033eb2d817d0377, 0x96c298d84539a1f4,
  0x9b7f1afee242e34f, 0x169e0f7c4aebe78e, 0xce5e316b5733ce2b, 0xf551bf376840b6cb, 0x7e4f038d187bf27c, 0xc31ab5040338528a,
  0x351bf277e26989c0, 0x78996647fc480ba6, 0x27287cdd2d503da9, 0xffb676f09fa4f0d, 0x7db0786ec13a33d0, 0x90de9a9394e5cc71]

/-- The SHA-256 of its public key, worked out outside the model. -/
def keyHash : List Nat := [0x362223ef7ddb75d8, 0x803ebbb0c638c7ae, 0x24dff4d80f5d2f14, 0x9f0db5cbf5eed6fe]

/-- The message of mailbox `f` is being verified; its kind is `kind`, and the key slot holds its key. -/
def message (f kind : Nat) (l : List (Fld × Nat)) : Chip :=
  { chip (((List.range 20).map fun w => (F.PRT_MBOX_DATA f w, resumeWords.getD w 0)) ++ [(F.PRT_MBOX_DATA f 0, 0x100 + 65536 * kind + 2 ^ 32 * f),
    (F.PRT_DEVID_DEVICE_ID, 0)] ++ l) with
    prt := { verifying := some f, keyCopy := some keyHash } }

theorem witness_StopMessages_boxes : ∀ f ∈ [(0 : Fin 9), 8],
    (∀ v : Fin 2, writes .pf (0x1301000 + 0x100 * f + 8 * 19) (chip [(F.PRT_CMD_STATUS_BUSY f, v)]) fun c =>
      c.on (F.PRT_CMD_STATUS_BUSY f) = decide (v.val = 1)) ∧
    (∀ v : Fin 2, writes .pf (0x13010F8 + 0x100 * f) (chip [(F.PRT_CMD_STATUS_BUSY f, v)]) fun c =>
      c.on (F.PRT_CMD_STATUS_BUSY f) = decide (v.val = 1)) ∧ bit 2 0 = false ∧
    runs { chip [(F.SEC_STATUS_SELFTEST_DONE, 1)] with prt := { pendBox := [f.val] } } (fun c => c.prt.verifying = none ∧
      c.on F.SEC_STATUS_SELFTEST_DONE = true ∧ nextBox c.prt = some f.val) ∧
    runs {} (fun c => c.on F.SEC_STATUS_SELFTEST_DONE = false ∧ nextBox c.prt = none) := by decide +kernel

theorem witness_StopMessages_resign : ∀ f ∈ [0, 8], runs (message f 1 [(F.SEC_STATUS_KAT_FAIL, 1)]) fun c =>
    c.prt.verifying = some f ∧ msgNum (c.mboxBytes f) 2 1 = 1 ∧ c.verdict (c.mboxBytes f) f c.prt.keyCopy c.prt.memErr = 1 := by
  decide +kernel

theorem witness_StopMessages_resume :
    runs (message 0 2 (((List.range 4).map fun j => (F.PRT_LATCH_HASH_HASH 0 j, keyHash.getD j 0)) ++ [(F.PRT_STATUS_PKG_STOP, 1)])) fun c =>
    c.prt.verifying = some 0 ∧ msgNum (c.mboxBytes 0) 2 1 = 2 ∧ c.verdict (c.mboxBytes 0) 0 c.prt.keyCopy c.prt.memErr = 1 := by
  decide +kernel

theorem witness_StopMessages_reject : ∀ f ∈ [0, 8], runs (message f 0 []) fun c =>
    c.prt.verifying = some f ∧ msgNum (c.mboxBytes f) 2 1 ≠ 1 ∧ msgNum (c.mboxBytes f) 2 1 ≠ 2 ∧
      c.verdict (c.mboxBytes f) f c.prt.keyCopy c.prt.memErr = 2 := by decide +kernel

/-! ### Gain plans -/

theorem witness_PlanStagingAndCommits :
    (∀ a ∈ [0x1000010, 0x107F010], ∀ q ∈ [Requester.pf, .core 3], ∀ own ∈ [none, some q.ctx, some 5],
      writes q a { chip [(F.SUP_CTRL_RUN, 15)] with claims := own.toList.map fun y => (targetOf a, y) } fun c => c.claims.find (targetOf a) = own ∧ c.committed q.ctx = false) ∧
    (∀ st ∈ [2, 3], writes .pf 0x1000010 (chip [(F.GPL_STATUS_STATE 0, st)]) fun c => c.committed 0 = true) ∧
    (∀ st : Fin 7, writes .pf (aCommit 0) (chip [(F.GPL_STATUS_STATE 0, st)]) fun c => c.rd (F.GPL_STATUS_STATE 0) = st) ∧
    writes (.vf 7) (aCommit 8) (eight {}) (fun c => c.committed 8 = false) ∧ writes (.core 0) (aCommit 9) (chip [(F.SUP_CTRL_RUN, 1)]) (fun c => c.committed 9 = false) ∧
    writes .pf (aCommit 0) { onB (chip [(F.GPL_STATUS_STATE 0, 2)]) with gpl := { due := [(0, 0)] } } (fun c => c.planHere 0 = true ∧ c.committed 0 = true) ∧
    writes .pf (aCommit 0) (chip [(F.GPL_STATUS_STATE 0, 2)]) (fun c => c.planHere 0 = false ∧ c.committed 0 = true) ∧
    (∀ t ∈ [4012, 4013], writes .pf (aCommit 0) (chip [(F.AIR_AT_AT, t)]) fun c =>
      decide (262144 ≤ (c.nextBoundary - c.now) * 3125) = decide (t = 4012)) ∧
    writes .pf 0x1400018 {} (fun _ => True) := by decide +kernel

theorem witness_PlanApplication : ∀ x ∈ [(0 : Fin 10), 9],
    runs { onB (chip [(F.GPL_STATUS_STATE x, 2), (F.TOP_IMG_STATUS_STATE, 2), (F.TOP_IMG_STATUS_RESOLVED, 1)]) with gpl := { due := [(x.val, 0)], imgOk := true } } (fun c =>
      c.gpl.due = (x.val, 0) :: [] ∧ 0 ≤ c.air.tempi ∧ c.gpl.schedAt ≠ some c.air.tempi ∧ c.air.taken = [] ∧ c.air.onB = true ∧ c.tenDue = false ∧
      ((c.wr (F.GPL_DONE_AT_AT x) c.now).setGpl fun g => { g with due := g.due.filter fun p => p.1 ≠ x.val }).check x = none) ∧
    runs { onB (chip [(F.GPL_STATUS_STATE x, 2)]) with gpl := { due := [(x.val, 0)] } } (fun c =>
      c.gpl.due = (x.val, 0) :: [] ∧ c.gpl.schedAt ≠ some c.air.tempi ∧ c.air.taken = [] ∧ c.air.onB = true ∧ c.tenDue = false ∧
      c.gpl.late.contains x.val = false ∧ ((c.wr (F.GPL_DONE_AT_AT x) c.now).setGpl fun g => { g with due := g.due.filter fun p => p.1 ≠ x.val }).check x = some (2, 0xFF)) ∧
    runs { gpl := { due := [(x.val, 0)] } } (fun c => c.air.onB = false ∧ ∀ n, n < 128 → (c.sq n).assessDue = false) := by decide +kernel

theorem witness_PlanApplication_values : ∃ r ∈ (regAt 0x1000010).getD [], let f := r.fld
    let c : Chip := { claims := [(targetOf 0x1000010, 0)], shadow := [(f.key, r.vmax)] }
    c.shadow.Pairwise (fun p p' => p.1 ≠ p'.1) ∧ (f.key, r.vmax) ∈ c.shadow ∧ keyAddr f.key = 0x1000010 ∧
      c.claims.find (targetOf (keyAddr f.key)) = some 0 ∧
      ((regAt (keyAddr f.key)).bind fun l => l.find? fun r => r.fld.key = f.key) = some r := by decide +kernel

/-! ### The metrology die -/

/-- The ZMD runs, with this in its memory. -/
def meter (m : ZmdMem) (z : Zmd := {}) : Chip := { zmd := { z with mem := { m with run := true } } }

theorem witness_MeterStartAndGuard :
    (∀ b : Bool, ({ zmd := { clkWait := b } } : Chip).zmd.clkWait = b ∧ ({ zmd := { clkWait := b } } : Chip).zmd.mem.run = false) ∧
    (meter {}).zmd.mem.run = true ∧ ({ slots := [(1, []), (4, [])] } : Zmd).best 0 = 0 ∧ ({ slots := [(1, []), (4, [])] } : Zmd).best 0x12 = 4 ∧
    ceilingHit ((meter { sealed := 1 }).zmd.ceiling 15) [10001, 10001, 10001, 10001] = true ∧
    ceilingHit ((meter { sealed := 1 }).zmd.ceiling 15) [10001, 10000, 10001, 10001] = false ∧
    runawayHit ((List.range 25).map fun i : Nat => (-30000 : Int) - 750 * i) = true ∧ runawayHit ((List.range 25).map fun i : Nat => (-30000 : Int) - 749 * i) = false ∧
    (∀ t ∈ [0, 1], let z := (meter { holdEnd := some 0, zt := 60000 * zmMs + t }).zmd.mem; z.hold = false ∧ z.holdEnd = some 0 ∧
      (z.zt ≤ 0 + 60000 * zmMs ↔ t = 0)) ∧
    (meter { mir := some (4, [1], true) }).zmd.mem.mir = some (4, [1], true) ∧ (meter { mir := some (4, [1], false) }).zmd.mem.mir ≠ some (4, [1], true) ∧
    (meter { hold := true }).zmd.mem.hold = true := by decide +kernel

theorem witness_MeterWork :
    (meter {}).zmd.hot = false ∧ (meter {} { hot := true }).zmd.hot = true ∧ (meter {}).zmd.mem.dwells.find 15 = none ∧
    (let m := (meter { wins := [(240, (2000000, 5000)), (255, (3000000, 5000))], dwells := [(15, ⟨0, 2000000, 5000, 100, 7⟩)] }).zmd.mem;
      m.dwells.find 15 = some ⟨0, 2000000, 5000, 100, 7⟩ ∧ m.wins.find 240 = some (2000000, 5000) ∧
        (m.winsOf 15).find? (fun v => 0 < v) = some 15 ∧ m.wins.find 255 = some (3000000, 5000)) ∧
    (meter { wins := [(240, (2000001, 5000))], dwells := [(15, ⟨0, 2000000, 5000, 100, 0⟩)] }).zmd.mem.wins.find 240 ≠ some (2000000, 5000) ∧
    (meter { winNew := [(255, some (3000000, 5000))] }).zmd.mem.winNew = [(255, some (3000000, 5000))] ∧
    (meter { winNew := [(255, none)] }).zmd.mem.winNew = [(255, none)] ∧
    (∀ s ∈ [2, 3], (meter { sealed := s, signing := some (1, [0]) }).zmd.mem.signing = some (1, [0])) ∧
    (meter { mir := some (4, [1], true) }).zmd.mem.mir = some (4, [1], true) ∧ (meter {}).zmd.mem.signing = none := by decide +kernel

theorem witness_MeterPort :
    (∀ b : Bool, (meter { session := b }).zmd.mem.session = b) ∧ (∀ u ∈ [0, 3, 4], (meter {} { used := u }).zmd.used = u) ∧
    beWord ([255, 255, 255, 255].map (· % 256)) = 2 ^ 32 - 1 ∧
    (meter { reports := [(7, [1]), (6, [2])], signing := some (8, [3]) }).zmd.mem.reports = (7, [1]) :: [(6, [2])] ∧
    (meter { reports := [(7, [1]), (6, [2])] }).zmd.mem.reports.find? (fun x => x.1 = 6) = some (6, [2]) ∧
    (∀ r ∈ [(7, [1]), (6, [2])], r.1 ≠ 8) ∧ ([15, 255] ++ List.replicate 9 0 : List Nat).length % 10 = 1 ∧ ([15] ++ [0] : List Nat).length % 10 ≠ 1 ∧ (meter { signing := some (8, [3]) }).zmd.mem.signing = some (8, [3]) ∧
    winOk 410100 200 = true ∧ winOk 410099 200 = false ∧ winOk 7124900 200 = true ∧ winOk 7124901 200 = false ∧ winOk 2000000 199 = false ∧
    winOk 2000000 400000 = true ∧ winOk 2000000 400001 = false ∧ (18 : Nat) ∉ [1, 2, 3, 4, 5, 6, 7, 0x10, 0x11] := by decide +kernel

theorem witness_MeterMirror :
    runs (meter {}) (fun c => c.zmd.mem.run = true ∧ c.mirSeen = false ∧ c.zmd.mem.mir = none) ∧ runs {} (fun c => c.zmd.mem.run = false) ∧
    (∀ may bad seen : Bool, runs { meter { mir := some (1, [0, 255], may), mirBad := bad } with mirSeen := seen } fun c =>
      c.zmd.mem.mir = some (1, [0, 255], may) ∧ c.zmd.mem.mirBad = bad ∧ c.mirSeen = seen) ∧ (∀ b ∈ [0, 255], b < 256) ∧
    (∀ v : Fin 2, runs (chip [(F.MTR_STATUS_LINK, v)]) fun c => c.on F.MTR_STATUS_LINK = decide (v.val = 1) ∧
      c.srcBit F.FLT_ACTIVE_ACTIVE 415 = false ∧ c.srcBit F.FLT_PAIR_PAIR 415 = false) := by decide +kernel

/-! ### The PA supply and housekeeping -/

/-- PWM channel `i` in this state, with this in its memory. -/
def pwm (i st : Nat) (p : Pwm) (l : List (Fld × Nat) := []) : Chip := (chip ([(F.PSU_CH_STATUS_STATE i, st)] ++ l)).setPw i fun _ => p

theorem witness_PwmChannels : ∀ i ∈ [(0 : Fin 16), 15],
    (∀ ss ∈ [0, 200], writes .pf 0x1600000 (chip [(F.PSU_CFG_SS_PERIODS i, ss)]) fun c => c.pst i = 0 ∧ c.rd (F.PSU_CFG_GROUP i) = 0 ∧
      c.rd (F.PSU_CFG_SS_PERIODS i) = ss) ∧
    (∀ st : Fin 5, runs (pwm i st {}) fun c => c.pst i = st) ∧
    runs (pwm i 2 { a := 0x600, b := 0x600 }) (fun c => c.pwmClass i = .clean) ∧ runs (pwm i 2 {}) (fun c => c.pwmClass i = .neutral) ∧
    (∀ n ∈ [1, 2], runs (pwm i 2 { a := 0x600, b := 0x600, trip := some 375, hicN := n }) fun c => c.pwmClass i = .cbc ∧ (c.pw i).hicN = n ∧
      c.rd (F.PSU_CH_STATUS_CBC_RUN i) = 0) ∧
    (∀ k ∈ [199, 200], runs (pwm i 1 { ss := 200, ssCnt := k }) fun c => c.pst i = 1 ∧ (c.pw i).ss = 200 ∧ (c.pw i).ssCnt = k) ∧
    (∀ k ∈ [999, 1000], runs (pwm i 3 { hicCnt := k }) fun c => c.pwmFirst i = some i.val ∧ (c.pw i).hicOff = 1000 ∧ (c.pw i).hicCnt = k ∧
      i.val ∈ c.pwmGroup i ∧ c.pst i = 3) ∧ runs {} (fun c => c.pwmFirst i = none) := by decide +kernel

theorem witness_PwmTrips : ∀ i ∈ [(0 : Fin 16), 15],
    runs (pwm i 2 { cont := true }) (fun c => c.pst i = 2 ∧ (c.pw i).cont = true ∧ c.masked i (-1) = false ∧ c.masked i (-2) = false ∧
      0 < 2 * (c.pw i).per) ∧
    runs (pwm i 2 {}) (fun c => c.pst i = 2 ∧ (c.pw i).cbcEn = true ∧ 5 * (c.pw i).cbcLim < 1001 ∧ (c.pw i).trip = none ∧
      (c.pw i).start + 2 ≤ 2 ∧ 749 < 2 * (c.pw i).per ∧ c.masked i 748 = false ∧ c.masked i 747 = false) ∧
    runs (chip [(F.PSU_EN_EN, 2 ^ i.val)]) (fun c => c.rdBit F.PSU_EN_EN i = true ∧ i.val ∈ c.pwmGroup i ∧
      5 * c.hardLim i < 2 ^ 16 ∧ ¬ 5 * c.hardLim i < 0 ∧ c.srcBit F.FLT_PAIR_PAIR 417 = false) := by
  decide +kernel

theorem witness_Housekeeping : ∀ x : Fin 2,
    (∀ k : Fin 3, ∀ d b : Bool, ∀ n ∈ [511, 512], runs { hk := { convs := [(x.val, { todo := [⟨k, 79 - x.val, 0, 7, 0, b, d⟩], fin := false })], queue := List.replicate n 0 } } fun c =>
      (c.hkc x).todo = ⟨k, 79 - x.val, 0, 7, 0, b, d⟩ :: [] ∧ 79 - x.val < 80 ∧ c.hk.queue.length = n) ∧
    (∀ v : Fin 2, runs (onB (chip [(F.HK_CTRL_REF_EN, v)])) fun c => c.air.onB = true ∧ c.tempoNum % c.rd F.HK_ROUND_ROUND_TEMPI = 0 ∧
      c.on F.HK_CTRL_REF_EN = decide (v.val = 1) ∧ c.on (hkBusy 0) = false ∧ c.on (hkBusy 1) = false ∧ c.on F.HK_STATUS_REF_READY = false) ∧
    runs {} (fun c => c.air.onB = false ∧ (c.hkc x).todo = [] ∧ c.on (hkBusy x) = false) ∧ runs (chip [(hkBusy x, 1)]) (fun c => c.on (hkBusy x) = true) ∧
    (∀ v w : Fin 2, writes .pf 0x1700000 (chip [(hkBusy x, w), (F.HK_STATUS_REF_READY, v)]) fun c =>
      c.on (hkBusy x) = decide (w.val = 1) ∧ c.on F.HK_STATUS_REF_READY = decide (v.val = 1)) ∧ reads .pf 0x1700030 {} (fun _ => True) := by
  decide +kernel

theorem witness_ThermalProtection : ∀ k : Fin 3,
    (∀ b : Bool, (({} : Chip).setHot k b).hotDie k = b ∧ ({ pwr := { bdHot := b } } : Chip).pwr.bdHot = b) ∧
    (({} : Chip).inReset = false ∧ ({ pwr := { kind := some 3 } } : Chip).inReset = true ∧
      ({} : Chip).srcBit F.FLT_ACTIVE_ACTIVE (409 + k) = false ∧ ({} : Chip).srcBit F.FLT_PAIR_PAIR (409 + k) = false) ∧
    (k.val < 2 → let c := ((chip [(F.CNV_CTRL_POWER_EN k, 1)]).setHot k true)
      c.rd (F.CNV_STATUS_STATE k) = 0 ∧ c.on (F.CNV_CTRL_POWER_EN k) = true ∧ c.supplyOk k = true ∧ c.refIn = true) ∧
    candidate [1000, 2000] 0 999 = 0 ∧ candidate [1000, 2000] 0 1000 = 1 ∧ candidate [1000, 2000] 1 800 = 1 ∧ candidate [1000, 2000] 1 799 = 0 ∧
    (∀ m ∈ [6, 7], SMap.get 0 ({ th := { cnt := [(k.val, m)], up := [(k.val, true)] } } : Chip).th.cnt k = m) ∧
    ({} : Chip).onlineCount 0 = 0 ∧ (chip ((List.range 4).map fun l => (F.CNV_LANE_ONLINE 1 l, 1))).onlineCount 1 = 4 := by decide +kernel

/-! ### The fault collector -/

theorem witness_FaultEvents_sources : ∀ src ∈ [(404 : Fin 512), 405, 414, 417, 423, 426, 445, 447, 511],
    plainSrc src = true ∧ (∀ v : Fin 2, runs (chip [(F.FLT_FIRST_VALID, v), (F.FLT_CFG_INT_EN src, 1), (F.FLT_PAIR_PAIR (src / 64), v.val * 2 ^ (src.val % 64))])
      fun c => c.srcHigh src = decide (v.val = 1) ∧ c.flt.winClose.find src = none ∧ c.on F.FLT_FIRST_VALID = decide (v.val = 1) ∧
        c.on (F.FLT_CFG_INT_EN src) = true) ∧
    (∀ t ∈ [0, 1], runs { onB {} with flt := { winClose := [(src.val, t)] } } fun c => c.flt.winClose.find src = some t ∧ c.srcHigh src = false ∧
      c.dueAfter t 0 = decide (t = 0)) ∧
    runs { flt := { inject := [(src.val, 3)] } } (fun c => c.srcHigh src = true ∧ c.flt.inject.has src = true) := by decide +kernel

theorem witness_FaultEvents_contained : (∀ src ∈ [(0 : Fin 512), 127, 128, 255, 256, 383, 384, 399, 400, 403, 409, 410, 412, 413, 416],
      plainSrc src = false ∧ runs {} (fun c => c.srcHigh src = false ∧ c.srcBit F.FLT_PAIR_PAIR src = false ∧ c.srcBit F.FLT_ACTIVE_ACTIVE src = false ∧
        c.hotDie (src.val - 409) = false ∧ c.leader (src.val % 128) = src.val % 128)) ∧
    (∀ e : Fin 2, runs (bridge e 2 {}) fun c => c.srcBit F.FLT_PAIR_PAIR (409 + e) = false ∧ c.srcBit F.FLT_PAIR_PAIR (412 + e) = false ∧
      (c.br e).st = 2) ∧
    runs { chip [(F.FLT_PAIR_PAIR 6, 2 ^ 27)] with flt := { ends := [(411, 5)] } } (fun c => c.srcBit F.FLT_PAIR_PAIR 411 = true ∧
      c.flt.inject.has 411 = false ∧ c.flt.ends.has 411 = true) ∧
    runs ((chip [(F.FLT_PAIR_PAIR 3, 2 ^ 63)]).setSq 127 fun q => { q with stab := [(255, 3), (1, 2)] }) (fun c =>
      c.srcBit F.FLT_PAIR_PAIR 255 = true ∧ c.flt.inject.has 255 = false ∧ (c.sq 127).stab = [(255, 3), (1, 2)]) := by decide +kernel

theorem witness_FaultEvents_clears : ∀ v : Fin 2,
    (∀ n ∈ [(0 : Fin 128), 127], runs ({ chip [(F.FLT_SEVERE_SEVERE (n / 64), v.val * 2 ^ (n.val % 64))] with air := { onB := true, tempi := 100000 } }.setSq n
      fun q => { q with fParity := true }) fun c => c.recovered n = true ∧ (c.sq n).fParity = true ∧ c.leader n = n ∧
        (c.sq n).stab = [] ∧ (c.sq n).sevStab = false ∧ c.severe n = decide (v.val = 1)) ∧
    (∀ w ∈ [0, 3], runs { chip [(F.FLT_SEVERE_SEVERE 6, v.val * (2 ^ 64 - 1))] with air := { onB := true, tempi := 100000 }, prt := { wingFault := [w] } } fun c =>
      c.recovered (400 + w) = true ∧ c.prt.wingFault.contains w = true ∧ c.severe (400 + w) = decide (v.val = 1)) ∧
    runs {} (fun c => c.recovered 0 = false ∧ c.leader 127 = 127) := by decide +kernel

theorem witness_FaultClears : ∀ j ∈ [(0 : Fin 8), 7],
    (∀ v : Fin 2, writes .pf (0x1900080 + 8 * j) (chip [(F.FLT_PENDING_PENDING j, 2 ^ 63), (F.FLT_ACTIVE_ACTIVE j, v.val * 2 ^ 63)]) fun c =>
      c.rdBit (F.FLT_PENDING_PENDING j) 63 = true ∧ (j.val = 0 → c.srcActive (64 * j + 63) = decide (v.val = 1))) ∧
    (∀ v : Fin 2, writes .pf (0x1900120 + 8 * j) (chip [(F.FLT_SEVERE_SEVERE j, 2 ^ 63), (F.FLT_PENDING_PENDING j, v.val * 2 ^ 63)]) fun c =>
      c.severe (64 * j + 63) = true ∧ c.rdBit (F.FLT_PENDING_PENDING j) 63 = decide (v.val = 1)) ∧ writes .pf 0x1900010 {} (fun _ => True) ∧
    (∀ b : Bool, runs { ((({} : Chip).setRk 15 fun r => { r with sevHold := true }).setSq 127 fun q => { q with sevStab := true }) with
        air := { onB := b } } fun c => c.air.onB = b ∧ (c.rk 15).sevHold = true ∧ (c.sq 127).sevStab = true ∧ (c.sq 127).sevOsc = false ∧
          c.severeOver (384 + 15) = b ∧ c.severeOver (128 + 127) = b) := by decide +kernel

theorem witness_InjectionAndBlackBox :
    (∀ a ∈ [aInject, 0x1900000, 0x1900210, 0x1900208], writes .pf a {} fun _ => True) ∧
    (∀ src ∈ [0, 127, 408, 511], writes .pf aInject {} fun c => c.srcHigh src = false ∧
      c.srcBit F.FLT_PAIR_PAIR src = false) ∧
    (∀ e : Fin 2, writes .pf aInject (bridge e 2 {}) fun c => (c.br e).st = 2 ∧ c.srcHigh (409 + e) = false ∧ c.srcHigh (412 + e) = false) ∧
    writes .pf aInject { flt := { inject := [(511, 2)] } } (fun c => c.srcHigh 511 = true) ∧
    (∀ v : Fin 2, writes .pf 0x1900000 (chip [(F.FLT_BB_STATUS_FROZEN, v)]) fun c => c.on F.FLT_BB_STATUS_FROZEN = decide (v.val = 1)) ∧
    (∀ n ∈ [15, 16], writes .pf 0x1900228 { flt := { fifo := List.replicate n {} } } fun c => c.flt.fifo.length = n) ∧
    (∀ v : Fin 2, ∀ h ∈ [0, 511], runs { chip [(F.FLT_BB_STATUS_FROZEN, v), (F.FLT_BB_STATUS_HEAD, h)] with flt := { fifo := [{}] } } fun c =>
      c.flt.fifo = {} :: [] ∧ c.on F.FLT_BB_STATUS_FROZEN = decide (v.val = 1) ∧ c.rd F.FLT_BB_STATUS_HEAD = h) ∧
    runs {} (fun c => c.flt.fifo = [] ∧ c.flt.rdReq = none) ∧ runs { flt := { rdReq := some 511 } } (fun c => c.flt.rdReq = some 511) := by
  decide +kernel

/-! ### Interrupts and supervisor cores -/

/-- Source 1 is enabled, pending, and routed to target `t` with this PRIO. -/
def asks (t prio : Nat) (x : IntSt := {}) (l : List (Fld × Nat) := []) : Chip :=
  { chip ([(F.INT_SRC_EN 1, 1), (F.INT_SRC_TARGET 1, t), (F.INT_SRC_PRIO 1, prio), (F.INT_SRC_VECTOR 1, 1)] ++ l) with int := { x with pend := [1] } }

theorem witness_Interrupts_requests :
    edgeInput 648 = true ∧ edgeInput 663 = true ∧ edgeInput 664 = false ∧ edgeInput 1024 = true ∧ edgeInput 1151 = true ∧ edgeInput 1152 = false ∧
    out {} (fun c => c.asleep = false) ∧
    (∀ v : Fin 2, out (chip [(F.PWR_SLEEP_STATE, 1), (F.INT_SRC_WAKE 1151, v)]) fun c => c.asleep = true ∧
      c.on (F.INT_SRC_WAKE 1151) = decide (v.val = 1)) ∧ runs {} (fun _ => True) ∧
    (∀ a ∈ [0x1A00008, 0x1A00010, 0x1A00300, 0x1A00340, 0x1A10000 + 8 * 2046], writes .pf a {} fun c => c.asleep = false) ∧
    writes .pf 0x1A10008 { chip [(F.TEN_OWNER_OWNER 0, 8)] with int := {} } (fun c => c.routable 8 32 = true ∧ c.routable 1 32 = false) := by
  decide +kernel

theorem witness_Interrupts_claims : ∀ t ∈ [(0 : Fin 4), 3],
    (∀ p ∈ [0, 15, 16, 254], let c := asks t p {} [(F.INT_TCFG_THRESHOLD t, 255), (F.SUP_CTRL_RUN, 15)]
      c.reachable (.core t) = true ∧ c.lowest (c.eligible t) = some 1) ∧
    (let c := asks t 255 {} [(F.INT_TCFG_THRESHOLD t, 255), (F.SUP_CTRL_RUN, 15)]
     c.reachable (.core t) = true ∧ c.eligible t = [] ∧ c.int.active = []) ∧
    (∀ p ∈ [15, 16], let c := asks t 0 { active := [⟨7, t.val, p⟩], stackOf := if p < 16 then [(t.val, [(7, p)])] else [] } [(F.SUP_CTRL_RUN, 15)]
      c.reachable (.core t) = true ∧ (c.int.active.find? fun a => a.num = 7 && a.tgt = t.val) = some ⟨7, t.val, p⟩ ∧
      (16 ≤ p ∨ ((c.intStack t).map (·.1)).head? = some 7)) ∧
    (Requester.pf ≠ .core t ∧ ({} : Chip).reachable .pf = true ∧ (({} : Chip).woken .pf).deaf .pf = false ∧
      (({} : Chip).woken .pf).srcBit F.FLT_PAIR_PAIR 414 = false) ∧
    runs (asks t 0 { waitQ := [1] } [(F.INT_TCFG_THRESHOLD t, 255)]) (fun c =>
      (c.int.waitQ.find? fun n => (c.eligible t).contains n && !c.int.timedOut.contains n) = some 1 ∧ c.intPending 1 = true) := by decide +kernel

theorem witness_Interrupts_messages :
    runs (asks 4 0 { msixEn := [0], msixTable := [(1, (0, 0, false))] }) (fun c =>
      c.lowest (c.msixWaiting.filter fun n => c.msixOpen (c.rd (F.INT_SRC_TARGET n) - 4) (c.msixVec n)) = some 1 ∧ intKind 1 = 0) ∧
    runs (asks 4 0) (fun c => c.lowest (c.msixWaiting.filter fun n => c.msixOpen (c.rd (F.INT_SRC_TARGET n) - 4) (c.msixVec n)) = none) := by
  decide +kernel

/-- Core `k` executes, with this in it. -/
def going (k : Nat) (h : Hart) (l : List (Fld × Nat) := []) : Chip :=
  (chip ([(F.SUP_STATUS_INIT_DONE, 1), (F.SUP_CTRL_RUN, 15), (F.SUP_MTIMECMP_CMP k, 2 ^ 64 - 1)] ++ l)).setHart k fun _ => h

theorem witness_SupervisorCores_instructions : ∀ k ∈ [(0 : Fin 4), 3],
    (∀ d : Fin 2, let c := going k { mode := .user, csrs := [(0x303, d * 0x222), (0x304, 0x2)], pc := 0x100 };
      (c.setHart k fun h => { h with csrs := SMap.put 0 h.csrs 0x344 2 }).hartIrq k = some 1) ∧
    (let s : State := { chip := going k {}, mem := memWrite [] (0x2100000 + 0x10000 * k.val) 0x00500093 4 };
      s.chip.coreGoes k = true ∧ s.chip.hartIrq k = none ∧ (s.chip.hart k).bad = none ∧ (s.chip.hart k).pc.toNat + 4 ≤ 0x10000 ∧
      (s.chip.hart k).pmpOk .machine 2 (s.chip.hart k).pc.toNat 2 = true ∧ memRead s.mem (0x2100000 + 0x10000 * k.val) 4 = 0x00500093 ∧
      decode32 0x00500093 = some (.opImm .add true 1 0 5)) ∧
    (∀ z ∈ [0, 3], let h : Hart := { xs := [(2, BitVec.ofNat 64 (0x10000 - 2 ^ z))] }
      h.mode = .machine ∧ h.status 17 = false ∧ (h.x 2).toNat % 2 ^ z = 0 ∧ (h.x 2).toNat < 0x10000 ∧ h.pmpOk .machine 1 (h.x 2).toNat (2 ^ z) = true ∧
      h.pmpOk .machine 0 (h.x 2).toNat (2 ^ z) = true ∧ h.bad = none) := by decide +kernel

theorem witness_SupervisorCores : ∀ k ∈ [(0 : Fin 4), 3],
    (({} : Chip).inReset = false ∧ ({} : Chip).on F.SUP_STATUS_INIT_DONE = false ∧ ({} : Chip).supHeld = [] ∧
      ({ supHeld := [⟨.pf, 0x2000000, .full, some 1⟩] } : Chip).supHeld = [⟨.pf, 0x2000000, .full, some 1⟩] ∧
      (chip [(F.SUP_STATUS_INIT_DONE, 1)]).on F.SUP_STATUS_INIT_DONE = true) ∧
    (∀ v : Fin 2, writes .pf 0x2180000 (chip [(F.SUP_CTRL_RUN, v.val * 15)]) fun c => c.rdBit F.SUP_CTRL_RUN k = decide (v.val = 1)) ∧
    (∀ v : Fin 2, writes .pf 0x2180010 { chip [(F.TEN_OWNER_OWNER 7, 8 * 2 ^ 60), (F.SUP_TEN_DENY_DENY, v.val * 128)] with claims := [(127, 9)] } fun c =>
      127 ∈ c.claimsOf 9 ∧ c.owner 127 = 8 ∧ bit 128 (c.owner 127 - 1) = true ∧ c.rdBit F.SUP_TEN_DENY_DENY (c.owner 127 - 1) = decide (v.val = 1)) ∧
    (∀ v : Fin 2, runs (going k { csrs := [(0x304, v * 8)] } [(F.SUP_MSIP_MSIP k, 1)]) fun c => c.coreGoes k = true ∧
      (c.hart k).mode = .machine ∧ (c.coreReady k = 0 ↔ v.val = 0)) ∧
    runs (going k { mode := .user }) (fun c => c.coreGoes k = true ∧ (c.hart k).mode ≠ .machine ∧ (c.hart k).mode ≠ .supervisor) ∧
    runs {} (fun c => c.coreGoes k = false) ∧ runs (going k {}) (fun c => (c.hart k).pmpOk .machine 2 (c.hart k).pc.toNat 2 = true ∧
      (c.hart k).pc.toNat < 0x10000) ∧
    (∀ t ∈ [4095, 4096], runs (chip [(F.SUP_MTIMECMP_CMP k, t)]) fun c => c.rd (F.SUP_MTIMECMP_CMP k) = t ∧ c.canBe t = decide (t = 4095) ∧
      t < 2 ^ 64 ∧ c.now ≤ t) ∧
    (∀ s ∈ [418 + k.val, 422], runs {} fun c => c.srcBit F.FLT_PAIR_PAIR s = false) := by decide +kernel

/-! ### Tenancy -/

theorem witness_TenantQuotas_assignments : ∀ n ∈ [(0 : Fin 128), 127],
    writes .pf 0x1F00000 { ten := { assign := some (5, 1, 1) } } (fun c => c.ten.assign.isSome = true) ∧
    writes .pf 0x1F00000 (eight {}) (fun c => c.ten.assign = none ∧ c.vfExists 8 = true ∧ c.vfExists 9 = false ∧ c.isMember n = false ∧
      c.assignLate n 8 = 0 ∧ n.val ∈ c.movesWith n) ∧
    writes .pf 0x1F00000 (chip [(F.SQ_STATUS_STATE n, 5)]) (fun c => n.val ∈ c.movesWith n ∧ c.sqState n ≠ 0) ∧
    writes .pf 0x1F00000 { claims := [(n.val, 0)] } (fun c => c.assignLate n 0 = 7) ∧
    (∀ t ∈ [0, 1], runs { eight (onB {}) with ten := { assign := some (n.val, 8, t) } } fun c => c.ten.assign = some (n.val, 8, t) ∧
      c.dueAfter t 0 = decide (t = 0) ∧ c.assignLate n 8 = 0) ∧
    runs { onB (chip [(F.SQ_CTRL_ENABLE n, 1)]) with ten := { assign := some (n.val, 8, 0) } } (fun c => c.dueAfter 0 0 = true ∧ c.assignLate n 8 = 6) ∧
    runs {} (fun c => c.ten.assign = none) := by decide +kernel

theorem witness_TenantQuotas_members :
    writes .pf 0x1F00000 { chip [(F.SQ_ID_BOND_SIZE 1, 2), (F.SQ_ID_BOND_POS 1, 1)] with img := { space := [] } } (fun c =>
      c.ten.assign = none ∧ c.isMember 1 = true) := by decide +kernel

theorem witness_TenantQuotas_updates : ∀ f ∈ [1, 8],
    (∀ t ∈ [0, 1], runs { onB {} with ten := { waits := [(f, F.TEN_CFG_CAP_ENG f, 5, t)] } } fun c => c.air.onB = true ∧
      c.ten.waits = [(f, F.TEN_CFG_CAP_ENG f, 5, t)] ∧ c.ten.assign = none ∧ (t ≤ c.air.tempi ↔ t = 0)) ∧
    runs { onB {} with ten := { assign := some (0, 0, 0), waits := [(f, F.TEN_CFG_CAP_ENG f, 5, 0)] } } (fun c =>
      c.ten.assign = some (0, 0, 0) ∧ 0 ≤ c.air.tempi) ∧
    runs { onB ((chip [(F.TEN_OWNER_OWNER 0, f), (F.SQ_CTRL_ENABLE 0, 1)]).setRouted 0 true) with
        ten := { waits := [(f, F.TEN_QUOTA_SQUARES f, 0, 0)], inForce := [((F.TEN_QUOTA_SQUARES f).key, 5)] } } (fun c =>
      c.ten? (F.TEN_QUOTA_SQUARES f) ≠ 0 ∧ (F.TEN_QUOTA_SQUARES f).addr % 0x100 ≠ 0x10 ∧
      ((c.setTen fun x => { x with waits := [], inForce := [] }).judge f).out ≠ []) := by decide +kernel

theorem witness_FunctionResets : ∀ f ∈ [(0 : Fin 8), 7],
    (∀ v : Fin 2, let c := (eight (chip [(F.TEN_VF_STATUS_FLR_BUSY (f.val + 1), v)])).woken .pf
      (eight {}).reachable .pf = true ∧ c.vfExists (f.val + 1) = true ∧ c.on (F.TEN_VF_STATUS_FLR_BUSY (f.val + 1)) = decide (v.val = 1)) ∧
    (∀ v ∈ [0, 5], let c := { eight {} with ten := { (eight {}).ten with inForce := [((F.TEN_CFG_FLR_DISABLE (f.val + 1)).key, v)] } }
      (c.woken .pf).ten? (F.TEN_CFG_FLR_DISABLE (f.val + 1)) = v) ∧
    runs (chip [(F.TEN_VF_STATUS_FLR_BUSY (f.val + 1), 1)]) (fun c => c.on (F.TEN_VF_STATUS_FLR_BUSY (f.val + 1)) = true ∧
      c.capRuns (f.val + 1) = false ∧ c.prt.verifying ≠ some (f.val + 1)) ∧
    (∀ t ∈ [0, 1], ∀ b : Bool, runs { onB (chip [(F.TEN_OWNER_OWNER 0, f.val + 1), (F.SQ_CTRL_ENABLE 0, 1)]) with
        ten := { flrDue := [(f.val + 1, t)], assign := if b then some (0, 0, 0) else none } } fun c => c.assignDue = b ∧
      c.ten.flrDue.find (f.val + 1) = some t ∧ c.dueAfter t 0 = decide (t = 0)) ∧
    writes (.vf f) (0x1F011F8 + 0x100 * f) (eight {}) (fun c => c.asleep = false) ∧
    (∀ b : Bool, let c := { eight {} with air := { onB := b }, gpl := { due := [(0, 0), (f.val + 1, 0)] } }
      (c.woken .pf).planHere (f.val + 1) = b ∧ (c.woken .pf).planHere 0 = b ∧ ∀ n, n < 128 → (c.sq n).assessDue = false) ∧
    (let c := { eight {} with ten := { (eight {}).ten with vc1 := true } }; c.reachable .pf = true ∧ (c.woken .pf).ten.vc1 = true) ∧
    vc1Ok 0 0x130109F = true ∧ vc1Ok 0 0x13010A0 = false ∧ vc1Ok 0 0x13010F8 = true ∧ (({} : Chip).woken .pf).srcBit F.FLT_PAIR_PAIR 414 = false := by decide +kernel

/-! ### Capture -/

/-- Engine `e` runs or holds `r`. -/
def engine (e : Nat) (r : CapRun) (l : List (Fld × Nat) := []) : Chip := (chip l).setEng e fun x => { x with cur := some r }

/-- A descriptor of one element of queue `q` that starts as `start` says. -/
def desc (start : Nat) : CapDesc :=
  { tag := 7, nElem := 1, format := 0, start := start, src := 0, unit := 0, streams := 1, startAt := 4095, gather := 0, irq := false }

theorem witness_CaptureQueues_registers : ∀ e ∈ [(0 : Fin 16), 15], ∀ q ∈ [(0 : Fin 10), 9],
    (∀ o ∈ [0x10, 0x30, 8], writes .pf (aQueue e q o) (engine e { q := q.val }) fun c => (c.eng e).cur.isSome = true) ∧
    writes .pf (aQueue e q 8) {} (fun c => c.dqLoad e q = 0) ∧
    (let waiting : Chip := chip [(F.CAP_DQ_TAIL_TAIL e q, 1), (F.CAP_DQ_CFG_SIZE_LOG2 e q, 3)]
     writes .pf (aQueue e q 8) (waiting.setCapq e q fun x => { x with paused := some { q := q.val } }) (fun c => c.dqLoad e q ≠ 0 ∧
        (c.capq e q).paused = some { q := q.val }) ∧
     writes .pf (aQueue e q 8) (waiting.wr (F.CAP_CQ_CFG_SIZE_LOG2 e q) 1) (fun c => c.dqLoad e q ≠ 0 ∧ (c.capq e q).paused = none ∧
        (c.eng e).cur = none ∧ c.dqSize e q ≤ 2 ^ 12 ∧ c.cqFree e q = true ∧ ∀ j, j < 10 → j ≠ q.val → c.capWork e j = false) ∧
     writes .pf (aQueue e q 8) (waiting.setCapq e q fun x => { x with barred := true }) (fun c => c.dqLoad e q ≠ 0 ∧ (c.capq e q).barred = true) ∧
     (∀ b : Bool, writes .pf (aQueue e q 8) (waiting.setEng e fun x => { x with cur := some { q := q.val, desc := some (desc 0), run := b } }) fun c =>
        c.dqLoad e q ≠ 0 ∧ (c.capq e q).paused = none ∧ (c.eng e).cur = some { q := q.val, desc := some (desc 0), run := b }) ∧
     writes .pf (aQueue e q 8) (waiting.setEng e fun x => { x with cur := some { q := 5 } }) (fun c => c.dqLoad e q ≠ 0 ∧
        (c.capq e q).paused = none ∧ (c.eng e).cur = some { q := 5 })) ∧ writes .pf (0x1B00118 + 0x20 * q) {} (fun _ => True) := by
  decide +kernel

theorem witness_CaptureQueues_fetches : ∀ e ∈ [(0 : Fin 16), 15], ∀ q ∈ [0, 9],
    runs (engine e { q := q }) (fun c => (c.eng e).cur = some { q := q } ∧ ({ q := q } : CapRun).desc = none ∧ (c.capq e q).abortTo = none) ∧
    runs ((engine e { q := q }).setCapq e q fun x => { x with abortTo := some 3 }) (fun c => (c.capq e q).abortTo.isSome = true) ∧
    runs {} (fun c => (c.eng e).cur = none) ∧
    runs (engine e { q := q, desc := some (desc 0) }) (fun c => (c.eng e).cur = some { q := q, desc := some (desc 0) } ∧
      ({ q := q, desc := some (desc 0) } : CapRun).entry = none ∧ 1 + b2n false ≤ (desc 0).nElem) ∧
    descOk ([0, 0, 1, 0, 0, 0, 127, 1] ++ List.replicate 56 0) 0 = true ∧ descOk ([0, 0, 16, 2, 2, 4, 15, 0] ++ List.replicate 56 0) 64 = true ∧
    descOk ([0, 0, 17, 0, 0, 0, 127, 1] ++ List.replicate 56 0) 0 = false ∧ descOk ([0, 0, 16, 2, 2, 4, 15, 0] ++ List.replicate 56 0) 65 = false := by decide +kernel

theorem witness_CaptureRecords_elements : ∀ e ∈ [(0 : Fin 16), 15],
    runs (engine e { q := 0, desc := some (desc 0), entry := some none, started := true }) (fun c =>
      c.elemCheck { q := 0, desc := some (desc 0), entry := some none, started := true } (desc 0) none ≠ 0) ∧
    (∀ s r : Bool, runs (engine e { q := 0, desc := some (desc 0), entry := some none, started := s, run := r }) fun c =>
      (c.eng e).cur = some { q := 0, desc := some (desc 0), entry := some none, started := s, run := r }) ∧
    (∀ t ∈ [4095, 4096], runs (engine e { q := 0, desc := some { desc 1 with startAt := t } }) fun c =>
      (c.eng e).cur = some { q := 0, desc := some { desc 1 with startAt := t } } ∧ (desc 1).start = 1 ∧ c.canBe t = decide (t = 4095)) ∧
    (∀ n ∈ [131071, 131072], ∀ st ∈ [2, 3, 4], runs (engine e { q := 0, filled := n } [(F.CAP_ENG_STATE e, st)]) fun c => c.rd (F.CAP_ENG_STATE e) = st ∧
      (c.eng e).cur = some { q := 0, filled := n } ∧ (capSnapshot ≤ n ↔ n = 131072)) ∧
    (∀ p ∈ [0, 1, 2], ∀ q ∈ [8, 9], ∀ src ∈ [0, 4], ∀ base ∈ [none, some 0],
      let r : CapRun := { q := q, desc := some { desc 0 with src := src }, run := true, pages := p, blocks := [{ rows := [[none]] }], base := base }
      runs (engine e r [(F.CAP_ENG_STATE e, 4)]) fun c => (c.eng e).cur = some r ∧ c.owner 0 ≠ 8 ∧ (r.front { desc 0 with src := src }).isSome = true ∧
        c.rd (F.CAP_ENG_STATE e) = 4 ∧ c.firstAt r { desc 0 with src := src } 0 = true ∧
        (src = 4 → c.firstAt r { desc 0 with src := src } (2 ^ 40) = false) ∧ c.srcBit F.FLT_PAIR_PAIR (427 + e) = false) ∧
    runs (engine e { q := 9, desc := some (desc 0) }) (fun _ => ({ q := 9, desc := some (desc 0) } : CapRun).front (desc 0) = none) := by decide +kernel

/-- Engine `e` at element `k` of a descriptor of square 0 by VF 8, which has this much bandwidth and these engines. -/
def elementRun (k : Nat) : CapRun :=
  { q := 8, desc := some { desc 0 with nElem := 2 }, entry := some (some (4096, 1, 0)), started := true, elem := k }

@[inherit_doc elementRun]
def atElement (e k bw engs : Nat) : Chip :=
  let c := (engine e (elementRun k)
    [(F.TEN_OWNER_OWNER 0, 8), (F.CAP_WIN_SIZE_PAGES 8, 2), (F.CAP_CREDIT_BYTES 8, 4096)]).setRouted 0 true
  { c with
    img := { space := [(0, 1), (7, 1)] }
    ten := { inForce := SMap.put 0 [((F.TEN_CFG_CAP_ENG 8).key, engs)] (F.TEN_CAPQ_CAP_BW 8).key bw } }

theorem witness_CaptureRecords_starts : ∀ e ∈ [(0 : Fin 16), 15],
    (∀ k ∈ [1, 2], ∀ bw ∈ [0, 2 ^ 16 - 1], ∀ engs ∈ [0, 2 ^ 16 - 1], runs (atElement e k bw engs) fun c =>
      (c.eng e).cur = some (elementRun k) ∧ (elementRun k).run = false ∧ (elementRun k).started = true ∧
      c.elemCheck (elementRun k) { desc 0 with nElem := 2 } (some (4096, 1, 0)) = 0 ∧ c.capPauses e 8 = decide (engs = 0) ∧
      (c.capBw 8 < c.capUse 8 + c.capDemand (desc 0) ↔ bw = 0) ∧ (c.capBw 8 < c.capUse 8 ↔ k = 2 ∧ bw = 0)) := by decide +kernel

theorem witness_CaptureRecords_resumption : ∀ e ∈ [(0 : Fin 16), 15], ∀ q ∈ [1, 8],
    runs (({} : Chip).setCapq e q fun x => { x with paused := some { q := q }, ready := true }) (fun c => (c.capq e q).paused = some { q := q } ∧
      (c.capq e q).ready = true) ∧
    runs (({ ten := { inForce := [((F.TEN_CFG_CAP_ENG q).key, 2 ^ 16 - 1)] } } : Chip).setCapq e q
        fun x => { x with paused := some { q := q } }) (fun c => (c.capq e q).ready = false ∧
      bit (c.ten? (F.TEN_CFG_CAP_ENG q)) e = true ∧ ¬ c.capMax q < c.flightOf q ∧ ¬ c.capBw q < c.capUse q + 0) ∧
    runs {} (fun c => (c.capq e q).paused = none ∧ c.cap.flight = []) ∧
    (∀ n ∈ [1, 2], runs { cap := { flight := [(q, n)] } } fun c => c.cap.flight = (q, n) :: [] ∧ ∀ e, e < 16 → (c.eng e).cur = none) := by
  decide +kernel

/-! ### Chain Link -/

/-- Port `p` in this state, with this in its memory. -/
def link (p st : Nat) (x : ChlPort := {}) (l : List (Fld × Nat) := []) : Chip :=
  { chip ([(F.CHL_STATUS_STATE p, st)] ++ l) with chl := { ports := [(p, x)] } }

theorem witness_LinkPorts : ∀ p : Fin 2,
    (∀ st : Fin 3, writes .pf (0x1C00100 + 0x100 * p) (link p st) fun c => c.rd (F.CHL_STATUS_STATE p) = st) ∧
    (∀ i : Bool, runs (link p 1 { initRx := i }) fun c => c.rd (F.CHL_STATUS_STATE p) = 1 ∧ (c.port p).initRx = i ∧
      c.railBad.contains .vddSer = false ∧ (c.port p).cause = none ∧ c.srcBit F.FLT_PAIR_PAIR (424 + p) = false) ∧
    runs (link p 1 { cause := some 1 }) (fun c => (c.port p).cause.isSome = true) ∧
    (∀ n ∈ [16382, 16383], runs (link p 2 { rows := n }) fun c => c.rd (F.CHL_STATUS_STATE p) ≠ 0 ∧ (16383 ≤ (c.port p).rows ↔ n = 16383) ∧
      (c.port p).lane = 0) ∧
    (∀ st : Fin 3, runs (link p st) fun c => c.chlUp p = decide (st.val = 2) ∧ c.rd (F.CHL_STATUS_STATE p) = st) := by decide +kernel

theorem witness_LinkMessages_sent : ∀ p : Fin 2, ∀ n ∈ [(0 : Fin 16), 15],
    (∀ st : Fin 6, writes .pf (0x1C00138 + 0x100 * p) (chip [(F.CHL_TXSTAT_SLOT_STATE p, st.val * 8 ^ n.val)]) fun c => c.slotState p n = st) ∧
    (∀ k ∈ [0, 1, 16], writes .pf (0x1C00148 + 0x100 * p) (chip [(F.CHL_RXQ_COUNT p, k)]) fun c => c.rd (F.CHL_RXQ_COUNT p) = k) ∧
    (∀ ctl : Bool, ∀ t ∈ [7, 8], let f : ChlFrame := { cls := b2n ctl, seq := 65535, slot := some n.val, sent := true, tries := t }
      runs (link p 2 { stopQ := [f], ctlQ := [f] } [(F.CHL_CFG_RETX_MAX p, 8)]) fun c => c.chlUp p = true ∧ f.sent = true ∧
        seqBelow f.seq 0 = true ∧ seqBelow f.seq 65535 = false ∧ (c.rd (F.CHL_CFG_RETX_MAX p) ≤ f.tries ↔ t = 8)) ∧
    runs (link p 2) (fun c => c.chlUp p = true ∧ (c.port p).ctlQ = []) ∧ runs {} (fun c => c.chlUp p = false) := by decide +kernel

theorem witness_LinkMessages_received : ∀ p : Fin 2,
    (∀ k ∈ [15, 16], runs (link p 2 { rxSeq := [(1, 65535)] } [(F.CHL_RXQ_COUNT p, k)]) fun c => c.chlUp p = true ∧
      131071 % 65536 = SMap.get 0 (c.port p).rxSeq 1 ∧ c.rd (F.CHL_RXQ_COUNT p) = k) ∧
    (∀ f ∈ [0, 8], runs { link p 2 {} [(F.PRT_DEVID_DEVICE_ID, 5), (F.PRT_CTR_COUNTER f, 3)] with prt := { accepted := [(f, [3])] } } fun c =>
      c.chlUp p = true ∧ 0 = SMap.get 0 (c.port p).rxSeq 0 ∧ (5 : Nat) % 2 ^ 64 = c.rd F.PRT_DEVID_DEVICE_ID ∧
      ¬ 6 % 2 ^ 64 = c.rd F.PRT_DEVID_DEVICE_ID ∧ 2 % 2 ^ 64 ∉ SMap.get [] c.prt.accepted f ∧ 3 % 2 ^ 64 ∈ SMap.get [] c.prt.accepted f ∧
      c.srcBit F.FLT_PAIR_PAIR (424 + p) = false) := by decide +kernel

/-- A RESUME frame for the PF that passes, one that was accepted before, one whose key is not in its slot, and one for no function. -/
theorem witness_LinkMessages_resume : ∀ p : Fin 2,
    let bytes := fun l : List Nat => (List.range 20).flatMap fun w => leBytes 8 (l.getD w 0)
    let m := bytes resumeWords
    let held : List (Fld × Nat) := (F.SEC_KEY_VALID_VALID, 1) :: (F.PRT_DEVID_DEVICE_ID, 0) :: (F.PRT_STATUS_PKG_STOP, 1) ::
      (List.range 4).flatMap fun j => [(F.SEC_KEY_HASH 0 j, keyHash.getD j 0), (F.PRT_LATCH_HASH_HASH 0 j, keyHash.getD j 0)]
    msgNum m 4 1 = 0 ∧ msgNum m 8 8 = 1 ∧ msgNum m 2 1 = 2 ∧ msgNum (bytes (0x900020100 :: resumeWords.tail)) 4 1 = 9 ∧
    runs (link p 2 {} held) (fun c => c.chlUp p = true ∧ 0 = SMap.get 0 (c.port p).rxSeq 1 ∧ c.rd (F.CHL_RXQ_COUNT p) < 16 ∧
      1 ∉ SMap.get [] c.prt.accepted 0 ∧ c.verdict m 0 (c.keySlot 0) false = 1) ∧
    runs { link p 2 {} held with prt := { accepted := [(0, [1])] } } (fun c => c.chlUp p = true ∧ 1 ∈ SMap.get [] c.prt.accepted 0) ∧
    runs (link p 2) (fun c => c.chlUp p = true ∧ 1 ∉ SMap.get [] c.prt.accepted 0 ∧ c.verdict m 0 (c.keySlot 0) false ≠ 1) := by decide +kernel

theorem witness_LinkTimingAndSamples_timing : ∀ p : Fin 2,
    (∀ v : Fin 2, writes .pf 0x1C00008 (chip [(F.CHL_SYS_LINK_STOP, v)]) fun c => Requester.pf.isPf = true ∧ c.on F.CHL_SYS_LINK_STOP = decide (v.val = 1)) ∧
    runs { onB (chip [(F.CHL_SYS_LINK_STOP, 1)]) with chl := { stopAck := some 0 } } (fun c => c.air.onB = true ∧ c.chl.stopAck = some 0 ∧ 0 ≤ c.air.tempi ∧
      c.on F.CHL_SYS_LINK_STOP = true ∧ c.isMember 127 = false) ∧
    (∀ s : Fin 4, runs { link p 2 {} [(F.AIR_CTRL_SOURCE, s), (F.AIR_CTRL_CHL_PORT, 1 - p.val)] with
        chl := { ports := [], master := some 9 } } fun c => c.chlUp p = true ∧ c.now % 19660800 = 0 ∧ c.rd F.AIR_CTRL_SOURCE = s ∧
          c.rd F.AIR_CTRL_CHL_PORT ≠ p ∧ c.chl.master = some 9) ∧
    runs (link p 2 {} [(F.AIR_CTRL_SOURCE, 3), (F.AIR_CTRL_CHL_PORT, p), (F.AIR_AT_AT, 9830400)]) (fun c => c.chlUp p = true ∧
      c.now % 19660800 = 9830400 ∧ c.rd F.AIR_CTRL_SOURCE = 3 ∧ c.rd F.AIR_CTRL_CHL_PORT = p) ∧
    runs (link p 2 { t3 := some 100, exch := some (4, 0) } [(F.AIR_CTRL_SOURCE, 3), (F.AIR_CTRL_CHL_PORT, p)]) (fun c => (c.port p).t3 = some 100 ∧
      (c.port p).exch = some (4, 0) ∧ c.air.mono - 0 ≤ 196608000 ∧ ((10 : Nat) - (4 : Nat) + (4 : Int)) % 2 = 0) ∧
    runs {} (fun c => (c.port p).t3 = none ∧ c.chlUp p = false ∧ c.rd F.AIR_CTRL_SOURCE ≠ 3) := by decide +kernel

theorem witness_LinkTimingAndSamples_samples : ∀ p : Fin 2,
    (∀ k ∈ [63, 64], ∀ v w : Fin 2, runs { chip [(F.CHL_STATUS_STATE 0, 2), (F.CHL_STATUS_STATE 1, 2), (F.CHL_RXSTR_FWD p 255, v),
        (F.CHL_RXSTR_INJECT p 255, w)] with chl := { ports := [(1 - p.val, { smpQ := List.replicate k { cls := 2 } })] } } fun c => c.chlUp p = true ∧
      c.chlUp (other p) = true ∧ c.on (F.CHL_RXSTR_FWD p 255) = decide (v.val = 1) ∧ c.on (F.CHL_RXSTR_INJECT p 255) = decide (w.val = 1) ∧
      c.ownStream (other p) 255 = false ∧ (c.port (other p)).smpQ.length = k) ∧
    (∀ k ∈ [63, 64], ∀ st ∈ [1, 3, 5], runs { square 127 st {} [(F.CHL_STATUS_STATE p, 2)] with
        img := { space := [(16 * 127 + 2, 255 * 2 ^ 32 + (2 + p.val) * 4 ^ 7)] }
        chl := { ports := [(p.val, { smpQ := List.replicate k { cls := 2 } })] } } fun c => c.acts 127 = true ∧ c.sqState 127 = st ∧
      c.dest 127 7 = 2 + p.val ∧ c.chlUp p = true ∧ (c.port p).smpQ.length = k ∧ bit (c.laneEn 127) 7 = false) ∧
    runs { square 127 3 {} [(F.CHL_STATUS_STATE p, 2)] with
        img := { space := [(16 * 127 + 2, 255 * 2 ^ 32 + (2 + p.val) * 4 ^ 7), (16 * 127 + 1, 0x80)] } } (fun c => c.acts 127 = true ∧
      c.dest 127 7 = 2 + p.val ∧ bit (c.laneEn 127) 7 = true ∧ c.chlUp p = true) ∧
    runs {} (fun c => c.acts 127 = false) := by decide +kernel

/-! ### Security, power and reset -/

theorem witness_KeySlots : ∀ k ∈ [(0 : Fin 16), 8, 9, 15],
    (∀ v : Fin 2, writes .pf 0x1D00008 (chip [(F.SEC_KEY_VALID_LOCKED, v.val * (2 ^ 9 - 1))]) fun c =>
      (k.val ≤ 8 → c.rdBit F.SEC_KEY_VALID_LOCKED k = decide (v.val = 1) ∧ c.stopped k = false)) ∧
    writes .pf 0x1D00008 (chip [(F.PRT_STATUS_PKG_STOP, 1)]) (fun c => c.stopped 0 = true ∧ c.rdBit F.SEC_KEY_VALID_LOCKED 0 = false) ∧
    writes .pf 0x1D00008 {} (fun c => k.val ≤ 8 → c.keyJudge k 2 = 1 ∧ c.keyJudge k 3 ≠ 3 ∧ c.rd (F.SEC_KEY_STAGE_HASH 3) = 0) ∧
    writes .pf 0x1D00008 (chip [(F.SEC_KEY_STAGE_HASH 3, 1)]) (fun c => k.val ≤ 8 → c.keyJudge k 1 = 1) ∧ bits 0xFFFFFCFF 8 2 = 0 ∧
    (∀ v : Fin 2, runs (chip [(F.SEC_STATUS_SELFTEST_DONE, v)]) fun c => c.on F.SEC_STATUS_SELFTEST_DONE = decide (v.val = 1) ∧
      c.srcBit F.FLT_PAIR_PAIR 444 = false) := by decide +kernel

theorem witness_TestAccessPort :
    ({} : Chip).inReset = false ∧ ({ pwr := { kind := some 0 } } : Chip).inReset = true ∧ ({} : Chip).isMember 127 = false ∧
    runs { onB (chip [(F.SEC_STATUS_JTAG_STOP, 1)]) with tap := { ir := 2 } } (fun c => c.air.onB = true ∧ c.tap.offAt ≤ c.air.tempi ∧ c.tap.stops = false ∧
      c.on F.SEC_STATUS_JTAG_STOP = true ∧ (c.wr F.SEC_STATUS_JTAG_STOP 0).stopCovers 127 = false) ∧
    (∀ op ∈ [0, 4, 5], ({ ir := op } : Tap).stops = true) := by decide +kernel

theorem witness_PowerAndReset :
    writes .pf 0x1E00008 {} (fun _ => True) ∧
    (∀ k : Fin 4, let c : Chip := { pwr := { kind := some k.val } }
      c.pwr.kind = some k.val ∧ c.pwr.bdHot = false ∧ c.railGood .vddBd = true ∧ c.railGood .vddIo = true ∧ c.railGood .vddSer = true ∧
        c.rd F.TOP_IMG_STATUS_STATE = 0 ∧ c.img.erasing = false) ∧
    (∀ b v : Bool, let c : Chip := { pwr := { kind := some 0, retFlag := b, vioRose := v } }; c.pwr.retFlag = b ∧ c.pwr.vioRose = v) ∧ ({ pwr := { bdHot := true } } : Chip).pwr.bdHot = true ∧
    (∀ r ∈ [Rail.vddBd, .vddIo, .vddSer, .vbat, .vddZm, .vddCnv 0, .vddaCnv 1], ({} : Chip).railGood r = true ∧ ({ railBad := [r] } : Chip).railGood r = false) ∧
    ({ railBad := [.vddIo, .vbat] } : Chip).railGood .vddIo = false ∧ ({ railBad := [.vddIo, .vbat] } : Chip).railGood .vbat = false ∧
    ({} : Chip).inReset = false ∧ ({ pwr := { kind := some 1 } } : Chip).inReset = true := by decide +kernel

theorem witness_DeepSleep :
    writes .pf 0x1E00018 (chip [(F.SQ_STATUS_STATE 127, 5)]) (fun c => c.sqState 127 ≠ 0 ∧ c.sleepCode ≠ 0) ∧
    (∀ x ∈ [(chip [(F.CNV_CTRL_POWER_EN 1, 1), (F.PSU_EN_EN, 1)], 2), (chip [(F.PSU_EN_EN, 0x8000)], 3),
        ({ cap := { engs := [(15, { cur := some { q := 15 } })] } }, 4), (chip [(F.GPL_STATUS_STATE 9, 3)], 5), (chip [(F.CHL_STATUS_STATE 1, 1)], 6),
        ({ prt := { pendBox := [8] } }, 7), ({ img := { resolving := true } }, 8)],
      writes .pf 0x1E00018 x.1 fun c => (∀ n, n < 128 → c.sqState n = 0) ∧ c.sleepCode = x.2) ∧
    writes .pf 0x1E00018 {} (fun c => c.sleepCode = 0) ∧
    (∀ n ∈ [1, 2046], ∀ v : Fin 2, out (chip [(F.PWR_SLEEP_STATE, 1), (F.INT_SRC_WAKE n, v)]) fun c => c.asleep = true ∧
      c.on (F.INT_SRC_WAKE n) = decide (v.val = 1)) ∧ out {} (fun c => c.asleep = false) := by decide +kernel

/-! ## Worked examples of the spec -/

/-- The worked address of R10's text, the addresses of SQ040, of the provisioning and of the FLT example. -/
theorem test_addresses : (F.SQ_EC_MCFG_TARGET 40).addr = 0x01028218 ∧ (F.RK_SQCTL_N_STATES 5 0).addr = 0x01114100 ∧
    (F.INT_SRC_PRIO 72).addr = 0x01A10240 ∧ (F.FLT_CFG_N 296).addr = 0x01901940 ∧ (F.FLT_PENDING_PENDING 4).addr = 0x019000A0 ∧
    (F.FLT_SEVERE_SEVERE 4).addr = 0x01900140 ∧ (F.SEC_KEY_STAGE_HASH 0).addr = 0x01D00020 ∧ (F.TEN_QUOTA_SQUARES 2).addr = 0x01F01208 ∧
    (F.PRT_MBOX_DATA 3 0).addr = 0x01301300 ∧ aQueue 5 2 0 = 0x01B06200 ∧ aQueue 5 2 0x10 = 0x01B06210 ∧ (F.CAP_WIN_BASE_BASE 2).addr = 0x01B00140 := by
  decide +kernel

/-- The worked symbol start at MU = 1, slot 2, symbol 10. -/
theorem test_symbol_start : (Numer.mk 1 false).symbolStart 2 10 = 2668544 := by decide

/-- Entry 0 of the TDD pattern: word 1 decoded, and its fire time in the period that starts at SFN 37. -/
theorem test_tdd_pattern : wPeriod 0xFFBC000A00020005 = 5 ∧ wSlot 0xFFBC000A00020005 = 2 ∧ wSym 0xFFBC000A00020005 = 10 ∧
    wOfs 0xFFBC000A00020005 = -17408 ∧ wKind 0x1000011 = 1 ∧ wRec 0x1000011 = true ∧ wTarget 0x1001011 = 16 ∧
    recFire ⟨1, false⟩ 0xFFBC000A00020005 (740 / 5) = 730100736 := by decide +kernel

/-- Word 0 of the on-request calibration: KIND 4, TYPE 2, DCD, lanes 2 and 3, 240 tempi. -/
theorem test_calibration_word : wKind 0xF0200C04 = 4 ∧ wTarget 0xF0200C04 = 0x200C ∧ wArg 0xF0200C04 = 240 ∧ 240 / calLen 2 = 15 ∧
    calTotal 2 = 30 := by decide

/-- The worked frequency plan: 4,500 MHz is N = 18 and F = 0x4F8000, in range. -/
theorem test_lo_in_range : loOk 18 0x4F8000 = true ∧ 18 * 2 ^ 24 + 0x4F8000 = 4500 * 2 ^ 24 * 100 / 24576 := by decide

/-- The cost of SQ040 in the worked four-path setup (R136). -/
theorem test_taps : ({ img := { space := [(16 * 40, 1000), (16 * 40 + 1, 3), (16 * 40 + 2, 5), (16 * 40 + 3, 129 + 64 * 2 ^ 16), (16 * 40 + 4, 0x303)] } } : Chip).tapBw 40
    = 514000 := by decide +kernel

/-- The ramp of SQ016: 25 samples; its fill of 145 samples of 80 Tc takes 11,600 Tc. -/
theorem test_ramp : let c : Chip := { img := { space := [(256, 200), (259, 129)] } }
    c.rampN 16 = 25 ∧ { c with air := { mono := 11599 } }.filled 16 0 = false ∧ { c with air := { mono := 11600 } }.filled 16 0 = true := by decide +kernel

/-- A header of type 0xFF ends the load with CAUSE 2, and resolution follows (R45, R57). -/
theorem test_image_cut_short : ∃ d, exec .imageBadHeader { chip := loading 0 .header [2 ^ 64 - 1] } = .next { chip := d } ∧
    d.rd F.TOP_IMG_STATUS_STATE = 3 ∧ d.rd F.TOP_IMG_STATUS_CAUSE = 2 ∧ d.img.resolving = true := ⟨_, rfl, by decide +kernel⟩

/-- The even period of the worked channel: H from 300 to 487, PWMH03 from 315, PWML03 from 502. -/
theorem test_pwm_period : let c := pwm 3 2 { per := 375, a := 0x12C0, b := 0x1068, blank := 30 } [(F.PSU_CH_STATUS_DT_NOW 3, 15)]
    (c.wave 3).rise = 300 ∧ (c.wave 3).hEnd = 487 ∧ (c.wave 3).high = some 315 ∧ (c.wave 3).lowNew = some 502 ∧
    c.pwmOut 3 299 = (false, true) ∧ c.pwmOut 3 314 = (false, false) ∧ c.pwmOut 3 486 = (true, false) ∧ c.pwmOut 3 501 = (false, false) ∧
    c.pwmOut 3 502 = (false, true) ∧ c.masked 3 300 = false ∧ c.masked 3 301 = true ∧ c.masked 3 330 = true ∧ c.masked 3 345 = true ∧
    c.masked 3 346 = false := by decide +kernel

/-- In an odd period B acts as 262. -/
theorem test_pwm_dither : let c := pwm 3 2 { per := 375, a := 0x12C0, b := 0x1068 } [(F.PSU_CH_STATUS_DITHER_K 3, 1)]
    (c.wave 3).hEnd = 488 := by decide +kernel

/-- The worked short at soft start: period 13 ends neutral by its limit, period 14 by the trip at t0 + 48. -/
theorem test_soft_start_short : let at0 := fun (j : Nat) (t : Option Nat) => pwm 5 1 { a := 0x600, b := 0, ss := 200, ssCnt := j - 1, trip := t } [(F.PSU_CH_STATUS_DT_NOW 5, 15)]
    ((at0 13 none).wave 5).hEnd = 96 + 48 ∧ (at0 13 none).pwmClass 5 = .neutral ∧ ((at0 14 none).wave 5).hEnd = 96 + 52 ∧
    (at0 14 none).masked 5 (96 + 45) = true ∧ (at0 14 none).masked 5 (96 + 46) = false ∧ (at0 14 (some (96 + 48))).pwmClass 5 = .cbc := by
  decide +kernel

/-- The thermistor of the worked proportional cut reads 90.00 °C; 5.00 °C over the threshold cut 2.50 dB. -/
theorem test_thermistor : thermTemp 0 29578 3435 4096 = 9000 := by decide +kernel

/-- The DCD hovering at UP3 = 50.00 °C: it enters band 3 from 50.00 °C and leaves it below 48.00 °C. -/
theorem test_band_hover : candidate [3000, 4000, 5000, 6000, 7000] 2 4980 = 2 ∧ candidate [3000, 4000, 5000, 6000, 7000] 2 5010 = 3 ∧
    candidate [3000, 4000, 5000, 6000, 7000] 3 4850 = 3 ∧ candidate [3000, 4000, 5000, 6000, 7000] 3 4790 = 2 := by decide

/-- Core 0 of the worked nesting: its sources and their settings. -/
def nest (x : IntSt) : Chip :=
  { chip ((F.SUP_CTRL_RUN, 1) :: (F.INT_TCFG_SPLIT 0, 4) :: (F.INT_TCFG_THRESHOLD 0, 255) :: (F.INT_TCFG_COAL_TIME 0, 1500) :: (F.INT_TCFG_COAL_CNT 0, 4) ::
      [(576, 0x90), (641, 0x48), (72, 0x42), (1, 3), (9, 1)].flatMap fun p =>
        [(F.INT_SRC_PRIO p.1, p.2), (F.INT_SRC_EN p.1, 1), (F.INT_SRC_TARGET p.1, 0)]) with int := x }

theorem test_nesting_ranks : let c := nest {}
    c.intPr 0 576 = 25 ∧ c.intPr 0 641 = 20 ∧ c.intPr 0 72 = 20 ∧ c.intPr 0 1 = 3 ∧ c.intPr 0 9 = 1 := by decide +kernel

/-- At 2,550 the claim takes 72 before 641; afterwards 641 is no longer eligible. -/
theorem test_nesting_claim :
    let c := nest { pend := [72, 641], active := [⟨576, 0, 25⟩] }
    c.lowest (c.eligible 0) = some 72 ∧ (nest { pend := [641], active := [⟨72, 0, 20⟩, ⟨576, 0, 25⟩] }).eligible 0 = [] := by decide +kernel

/-- At 3,200 an EOI of 1 with 9 at the top is ignored with EOI_ERR. -/
theorem test_nesting_eoi_order :
    let c := nest { active := [⟨9, 0, 1⟩, ⟨1, 0, 3⟩], stackOf := [(0, [(9, 1), (1, 3)])] }
    ∃ d, exec (.intEoi (.core 0) 0 1) { chip := c } = .next { chip := d } ∧ d.rd F.INT_STATUS_EOI_ERR = 1 ∧ d.intStack 0 = [(9, 1), (1, 3)] :=
  ⟨_, rfl, by decide +kernel⟩

/-- Descriptor word 0 of the worked capture. -/
theorem test_capture_descriptor : capDesc (leBytes 8 0x0310020200030031 ++ List.replicate 56 0) =
    { tag := 0x31, nElem := 3, format := 0, start := 2, src := 2, unit := 16, streams := 3, startAt := 0, gather := 0, irq := false } ∧
    descOk (leBytes 8 0x0310020200030031 ++ List.replicate 56 0) 0 = true := by decide +kernel

/-- The worked provisioning: SEC_KEY_CMD loads slot 3 with the staged digest. -/
theorem test_key_provisioning : ∃ d, exec (.keyLoad .pf 3) { chip := chip [(F.SEC_KEY_STAGE_HASH 0, 0x1360D5227E0B419C)] } = .next { chip := d } ∧
    d.rd F.SEC_KEY_STATUS_RESULT = 1 ∧ d.rd F.SEC_KEY_STATUS_SLOT = 3 ∧ d.rdBit F.SEC_KEY_VALID_VALID 3 = true ∧
    d.rd (F.SEC_KEY_HASH 3 0) = 0x1360D5227E0B419C := ⟨_, rfl, by decide +kernel⟩

/-- The mailbox words of the worked RESIGN. -/
theorem test_resign_words : let m := leBytes 8 0x300010100 ++ leBytes 8 0x2A00000000000000 ++ leBytes 8 0x48881200005A564F
    msgNum m 0 2 = 1 ∧ msgNum m 2 1 = 1 ∧ msgNum m 4 1 = 3 ∧ msgNum m 8 8 = 42 ∧ msgNum m 16 8 = 0x4F565A0000128848 := by decide +kernel

/-- SHA-256 of the empty message, and of "abc" (FIPS 180-4). -/
theorem test_sha256 : beWord (sha256 []) = 0xE3B0C44298FC1C149AFBF4C8996FB92427AE41E4649B934CA495991B7852B855 ∧
    beWord (sha256 [0x61, 0x62, 0x63]) = 0xBA7816BF8F01CFEA414140DE5DAE2223B00361A396177A9CB410FF61F20015AD := by decide +kernel

/-- Command `i` on this block leaves it as `P` says. -/
def leads (i : Instr) (c : Chip) (P : Chip → Bool) : Bool :=
  match exec i { chip := c } with
  | .next t => P t.chip
  | _ => false

/-- R34: the fourth of 16 flits of a lane that fails its check is the cause; the third is not. -/
theorem test_fourth_flit_fails : ∀ k ∈ [0b11, 0b111], leads (.sampleFlitCrcFail 1 true 7)
    ((bridge 1 2 {}).setBr 1 fun b => { b with flits := [(7, k)] }) fun d => (d.br 1).crcLoss = decide (k = 0b111) := by decide +kernel

/-- R107, R111: the results of commands that a flush removed follow that of the frame that was on the bus. -/
theorem test_flushed_in_order : leads (.rffeFrameDone 2 false 0x5A) (({} : Chip).setRf 2 fun x => { x with
    cmds := [⟨3, 1, 4, 0, 0⟩], busy := true, flushed := [⟨0, false, true, 2⟩] })
    fun d => (d.rf 2).results = [⟨0x5A, false, false, 3⟩, ⟨0, false, true, 2⟩] := by decide +kernel

/-- R58: a CLEAR at the boundary of a plan leaves the image to it. -/
theorem test_clear_after_plan : leads (.imgClear .pf) { chip [(F.TOP_IMG_STATUS_STATE, 2)] with
    air := { onB := true }, gpl := { due := [(3, 0)] } } fun d => d.rd F.TOP_IMG_STATUS_STATE = 2 && d.img.clearLate := by decide +kernel

/-- R384: an ALIGN leaves on all four lanes with every 16,384th block of each. -/
theorem test_align : ∀ n ∈ [16382, 16383], leads (.alignTx 0) (link 0 2 { rows := n }) fun d =>
    (d.port 0).line.length = (if n = 16383 then 4 else 0) && (d.port 0).rows = if n = 16383 then 0 else n := by decide +kernel

/-- R417, R418: IDCODE is what the identification register holds; HIGHZ releases the PWM balls, and no ball of a converter die. -/
theorem test_tap : leads .idcode {} (fun d => d.tap.dr = .idcode 0x188485B3) ∧
    ({ tap := { ir := 5 } } : Chip).pad 0 (.pwmH 3) = .pulledDown ∧ ({} : Chip).pad 0 (.pwmH 3) = .low ∧
    ({ tap := { ir := 5 } } : Chip).pad 0 (.sclk 0) = .low := by decide +kernel

/-- R442: VIO_SEL is what it was when VDD_IO rose. -/
theorem test_vio_sel : ∀ b : Bool, leads (.resetRelease false true) { pwr := { kind := some 0, vioRose := b, retFlag := true } }
    fun d => d.rd F.PWR_STATUS_VIO_3V3 = b2n b := by decide +kernel

end Sys2Proof.Tests
end

section
/-!
SUPPORT. The machine as a whole: every command answers a next state and leaves the queue to the step, an idle cycle, the state at
reset, and the register that a write does not treat as a plain one.
-/

namespace Sys2Proof.Machine

/-! ## Every command answers -/

/-- The outcome `o` of a command run in `s` is a next state, with the queue of `s` and with memories that keep their canonical form. -/
def Answers (s : State) (o : Host.Outcome State Fault Refusal) : Prop := ∃ t, o = .next t ∧ CoreKeeps s t

theorem Answers.next {s t : State} (h : CoreKeeps s t) : Answers s (.next t) := ⟨t, rfl, h⟩

/-- A part that acts only under a condition. -/
theorem CoreKeeps.ite {p : Prop} [Decidable p] {s t u : State} (ht : CoreKeeps s t) (hu : CoreKeeps s u) :
    CoreKeeps s (if p then t else u) := by
  split <;> assumption

theorem onChip_answers (s : State) (g : Chip → Chip) : Answers s (s.onChip g) := .next (.ite (.chip _ _) (.refl s))

theorem onAir_answers (s : State) (g : Chip → Chip) : Answers s (s.onAir g) := .next (.ite (.refl s) (.chip _ _))

theorem onPkg_answers (s : State) (g : Chip → Chip) : Answers s (s.onPkg g) := .next (.chip _ _)

theorem onAccess_answers (s : State) (q : Requester) (g : Chip → Chip) : Answers s (s.onAccess q g) :=
  .next (.ite (.chip _ _) (.refl s))

theorem memAccess_keeps (s : State) (x : MemAccess) : CoreKeeps s (s.memAccess x) := by
  refine ⟨?_, fun w => wf_memAccess w x⟩
  unfold State.memAccess
  split <;> rfl

theorem memReq_keeps (s : State) (x : MemAccess) : CoreKeeps s (s.memReq x) := .ite (memAccess_keeps s x) (.chip _ _)

theorem onMem_answers (s : State) (q : Requester) (a : Nat) (h : Half) (v : Option Nat) : Answers s (s.onMem q a h v) :=
  .next (.ite ((CoreKeeps.chip s _).trans (memReq_keeps _ _)) (.refl s))

/-- An access by address is one to a register, one to the memories, or an exception of a core. -/
theorem byAddress_answers (s : State) (q : Requester) (a : Nat) (h : Half) (v : Option Nat) : Answers s (s.byAddress q a h v) := by
  unfold State.byAddress
  dsimp only
  repeat' split
  all_goals first
    | exact onAccess_answers _ _ _
    | exact onMem_answers _ _ _ _ _

theorem memAccesses_keep (s : State) (l : List MemAccess) : CoreKeeps s (l.foldl State.memAccess s) := by
  induction l generalizing s with
  | nil => exact .refl s
  | cons x l ih => exact (memAccess_keeps s x).trans (ih _)

/-- The zeroing of the memories leaves them in canonical form, and the stalled accesses keep it (R342). -/
theorem supInitDone_answers (s : State) : Answers s (execSupInitDone s) := by
  unfold execSupInitDone
  split
  · exact .next (.refl s)
  · refine .next (CoreKeeps.trans ?_ (memAccesses_keep _ _))
    exact ⟨rfl, fun _ => wf_reset⟩

theorem coreWfi_answers (k : Fin 4) (s : State) : Answers s (execCoreWfi k s) :=
  .next (.ite (runInstr_keeps _ _ _ _ _) (.refl s))

theorem supEccError_answers (k : Fin 4) (kind : Fin 5) (s : State) : Answers s (execSupEccError k kind s) := by
  refine .next (.ite (.refl s) ?_)
  split
  · exact .chip _ _
  · exact meetBad_keeps _ _ _
  · exact meetBad_keeps _ _ _
  · exact cacheParity_keeps _ _ _
  · exact cacheParity_keeps _ _ _

/-- Every command answers a next state: the two accesses by address and the three commands that reach the memories or a core's
instruction each by a lemma of their own, the others by what carries them: an access, the package, AIR, or the clocks of the board die. -/
theorem exec_answers (i : Instr) (s : State) : Answers s (exec i s) := by
  unfold exec
  cases i with
  | registerWrite | rcRead => exact byAddress_answers _ _ _ _ _
  | supInitDone => exact supInitDone_answers _
  | coreWfi => exact coreWfi_answers _ _
  | supEccError => exact supEccError_answers _ _ _
  | accessSizeFault | stageWrite | imgStart | imgAbort | imgClear | hashReq | imgPortWrite | structDataRead | airEpochWrite
    | airCtrlWrite | airRestart | schedArm | schedDisarm | airAtRead | cnvPowerEnWrite | cnvRecal | synWrite | cnvLaneWrite
    | trForceHigh | trForceLow | rffeRegister0Write | rffeRegisterWrite | rffeRegisterRead | rffeExtendedWrite
    | rffeExtendedRead | rffeExtendedWriteLong | rffeExtendedReadLong | rffeResultRead | sqCoefWrite | sqCoefRead
    | ecCoefWrite | ecCoefRead | pinAck | mailboxWrite | mailboxGo | planCommit | planCommitSched | planDiscard
    | planRelease | pwmEnable | pwmDisable | hkRefEnWrite | hkCal | hkFlush | hkQueueRead | faultPendingClear | severeClear
    | firstRearm | injectRelease | injectEvent | injectHoldLow | injectHoldHigh | fltFreeze | bbReadRequest | bbAck | bbMark
    | intSetpend | intClrpend | intClaim | intEoi | intHeoi | intRouteWrite | coreRelease | coreHold | tenDenyWrite
    | assignRequest | vfFlr | pfFlr | doorbell | vc1Misuse | dqTailWrite | capAbort | capRestart | creditAdd | cqHeadWrite
    | chlEnWrite | send | cancel | pop | lstopAck | keyLoad | keyClear | keyLock | pwrRstWarm | sleepEnter | matrixWrite =>
    exact onAccess_answers _ _ _
  | ppsEdge | protectNLow | protectNHigh | zmdReset | zmdStartDone | clockFault | zmdRestart | referenceCheck | dwellEnd
    | reportPeriodEnd | reportSigned | guardDecision | guardHoldEnd | guardHoldReset | getId | getStatus | getReport
    | setWindows | setTiming | setNonce | getGuard | calWrite | calLock | unknownCmd | mirrorReportFrame | thermalShutdown
    | thermalRelease | extest | samplePreload | idcode | clamp | highz | bypass | railFail | railGood | coldReset
    | perstAssert | resetRelease | vbatLow | retentionFlagClear | meterPortCrcFail =>
    exact onPkg_answers _ _
  | tempoBoundary | epochRollover | cellDetection | syncEdge | atStep | coastTimeout | holdTimeout | holdoverTimeout
    | holdRelease | schedTake | markFire | timingOutputRise | timingOutputFall | atBeacon | intRequest | wake =>
    exact onAir_answers _ _
  | sampleFlitCrcFail | controlFlitCrcFail | controlFlitRetransmit | bridgeLoss | bridgeTrainStart | bridgeUp
    | bridgeTrainTimeout | bridgeMuteClear | powerSumUpdate | clearEraseDone | hashDone | flashBurstDone | imageWriteHeader
    | imageDataWord | imageEndRecord | imageBadHeader | flashRangeExhausted | resolutionDone | trFire | dirFire | planFire
    | calFire | captureFire | pwmfFire | cnvStatusRefresh | ckmLock | cnvClockingDone | ckmFail | ckmUnlock
    | startcalPhaseDone | synLock | synUnlock | synBlankEnd | laneOnline | calStepStart | calStepDone | calApply
    | calWindowClose | skewBandSwitch | rffeFrameDone | coarseBlock | fillDone | rampEnd | unmuteStart | placementMute
    | squareParityError | estimatePublish | stabilityFaultClear | muBandSwitch | deadline | outerStep | rkEccCorrected
    | rkMemoryError | arrayFault | rankFaultClear | oscillationClear | noiseRiseRelease | permitReport | permitMuteRelease
    | pinStopRelease | verifyStart | resign | resume | stopRelease | planApply | mirrorStatusFrame | mirrorIdentityFrame
    | mirrorLinkTimeout | periodEnd | cbcTrip | hardTrip | softstartDone | hiccupEnd | hkRoundStart | hkResult | hkRefReady
    | hkCalDone | faultEvent | pairFault | pairFaultEnd | faultWindowClose | severeHoldRelease | datapathFaultClear
    | wingParityError | bbRecordWrite | bbReadDone | faultNInitDone | intWithdraw | msixIssue | coalesceTimeout
    | mtimerExpire | assignApply | quotaUpdate | vfFlrDone | flrWithdrawal | descriptorFetched | gatherFetched
    | elementStart | captureStartAt | snapshotDone | recordWrite | writeAck | captureResume | linkUp | trainTimeout
    | linkLoss | stopFrameRx | messageRx | resumeRx | timingRx | delayReqRx | delayRespRx | samplesRx | ackRx | initRx
    | retransmit | timingTx | delayReqTx | samplesTx | alignTx | initTx | linkStopRelease | selftestDone | jtagStopRelease
    | chlFrameCrcErr | cmdReject =>
    exact onChip_answers _ _

/-- A step answers a next state, whose queue is the rest of the queue. -/
theorem step_answers (s : State) : Answers { s with pending := s.pending.tail } (step s) := by
  unfold step
  split
  · rename_i h
    exact .next ⟨by simp [(idle_keeps s).queue, h], (idle_keeps s).mem⟩
  · rename_i i l h
    simpa [h] using exec_answers i { s with pending := l }

/-- Settles O1: the step is defined by the front of the queue. -/
theorem stepRunsFrontCommand : Obligations.StepRunsFrontCommand := by
  intro s i l h
  simp [step, h]

/-- Settles O3: every command and every idle cycle answers a next state. -/
theorem nothingStops : Obligations.NothingStops := by
  intro s
  obtain ⟨t, ht, -⟩ := step_answers s
  exact ⟨t, ht⟩

/-- Settles O4: neither a command nor an idle cycle touches the queue that the step hands it. -/
theorem queueFirstInFirstOut : Obligations.QueueFirstInFirstOut := by
  intro s t ht
  obtain ⟨u, hu, hk⟩ := step_answers s
  obtain rfl : u = t := Host.Outcome.next.inj (hu.symm.trans ht)
  exact hk.queue

/-! ## An idle cycle -/

/-- What an idle cycle leaves of the cores from `c` to `d`: which are released, and all that they hold. -/
structure CoresStay (c d : Chip) : Prop where
  run : d.rd F.SUP_CTRL_RUN = c.rd F.SUP_CTRL_RUN
  harts : d.harts = c.harts

theorem CoresStay.refl (c : Chip) : CoresStay c c := ⟨rfl, rfl⟩

theorem CoresStay.trans {c d e : Chip} (h : CoresStay c d) (h' : CoresStay d e) : CoresStay c e :=
  ⟨h'.run.trans h.run, h'.harts.trans h.harts⟩

/-- What leaves the registers and the cores alone. -/
theorem CoresStay.of_eq {c d : Chip} (hr : d.regs = c.regs) (hh : d.harts = c.harts) : CoresStay c d :=
  ⟨by simp [Chip.rd, hr], hh⟩

/-- A write of a register other than SUP_CTRL. -/
theorem CoresStay.wr (c : Chip) {f : Fld} (v : Nat) (h : F.SUP_CTRL_RUN.key ≠ f.key) : CoresStay c (c.wr f v) :=
  ⟨rd_wr_ne c v h, rfl⟩

theorem CoresStay.setAir (c : Chip) (g : Air → Air) : CoresStay c (c.setAir g) := .of_eq rfl rfl

theorem CoresStay.setChl (c : Chip) (g : Chl → Chl) : CoresStay c (c.setChl g) := .of_eq rfl rfl

theorem CoresStay.setPort (c : Chip) (p : Nat) (g : ChlPort → ChlPort) : CoresStay c (c.setPort p g) := .of_eq rfl rfl

theorem CoresStay.when {c : Chip} {g : Chip → Chip} (b : Bool) (h : CoresStay c (g c)) : CoresStay c (c.when b g) := by
  cases b
  · exact .refl c
  · exact h

theorem CoresStay.foldl {α : Type} {g : Chip → α → Chip} (h : ∀ c a, CoresStay c (g c a)) (c : Chip) (l : List α) :
    CoresStay c (l.foldl g c) := by
  induction l generalizing c with
  | nil => exact .refl c
  | cons a l ih => exact (h c a).trans (ih _)

theorem CoresStay.forEach {g : Nat → Chip → Chip} (h : ∀ k c, CoresStay c (g k c)) (c : Chip) (l : List Nat) :
    CoresStay c (c.forEach l g) :=
  .foldl (fun c k => h k c) c l

theorem CoresStay.iter {g : Chip → Chip} (h : ∀ c, CoresStay c (g c)) (n : Nat) (c : Chip) : CoresStay c (iter g n c) := by
  induction n generalizing c with
  | zero => exact .refl c
  | succ n ih => exact (h c).trans (ih _)

theorem advance_cores (c : Chip) (k : Nat) : CoresStay c (c.advance k) := by
  unfold Chip.advance Chip.setAt
  split
  · exact .refl c
  · exact ((CoresStay.wr _ _ (by decide)).trans (.wr _ _ (by decide))).trans (.setAir _ _)

theorem airCycle_cores (c : Chip) : CoresStay c c.airCycle := by
  unfold Chip.airCycle
  split
  · exact .refl c
  · exact (advance_cores _ _).trans (.setAir _ _)

/-! Chain Link's own work changes its memory, the slot states of its two ports and BUF_USED (R384–R397). -/

theorem putBlock_cores (c : Chip) (p : Nat) (b : ChlBlock) : CoresStay c (c.putBlock p b) := .of_eq rfl rfl

theorem startFrame_cores (c : Chip) (p : Nat) (g : ChlFrame) : CoresStay c (c.startFrame p g) :=
  (CoresStay.setPort _ _ _).trans (putBlock_cores _ _ _)

theorem setSlot_cores (c : Chip) {p : Nat} (hp : p < 2) (s st : Nat) : CoresStay c (c.setSlot p s st) :=
  .wr _ _ (by simp only [Fld.key, F.SUP_CTRL_RUN, F.CHL_TXSTAT_SLOT_STATE]; omega)

theorem grantCtl_cores (c : Chip) {p : Nat} (hp : p < 2) (f : ChlFrame) : CoresStay c (c.grantCtl p f) := by
  unfold Chip.grantCtl
  split
  · have h := fun g => (CoresStay.setPort c p g).trans (startFrame_cores (c.setPort p g) p (f.granted (SMap.get 0 (c.port p).txSeq 1)))
    dsimp only
    split
    · exact (h _).trans (setSlot_cores _ hp _ _)
    · exact h _
  · exact (CoresStay.setPort _ _ _).trans (startFrame_cores _ _ _)

theorem chlSend_cores (c : Chip) {p : Nat} (hp : p < 2) : CoresStay c (c.chlSend p) := by
  unfold Chip.chlSend
  dsimp only
  split
  case h_1 | h_2 => exact (CoresStay.setPort _ _ _).trans (putBlock_cores _ _ _)
  case h_3 =>
    split
    case h_1 | h_2 => exact (CoresStay.setPort _ _ _).trans (putBlock_cores _ _ _)
    case h_3 =>
      split
      · exact grantCtl_cores c hp _
      · exact (CoresStay.setPort _ _ _).trans (startFrame_cores _ _ _)
      · exact putBlock_cores _ _ _

theorem alignRow_cores (c : Chip) (p : Nat) : CoresStay c (c.alignRow p) :=
  (CoresStay.forEach (fun _ d => putBlock_cores d p alignBlock) c (List.range 4)).trans (.setPort _ _ _)

theorem chlBlock_cores (c : Chip) {p : Nat} (hp : p < 2) : CoresStay c (c.chlBlock p) := by
  have ha : CoresStay c (c.when (c.rd (F.CHL_STATUS_STATE p) ≠ 0 && (c.port p).alignDue) fun c => c.alignRow p) :=
    .when _ (alignRow_cores c p)
  unfold Chip.chlBlock
  dsimp only
  split
  · exact ha
  · exact ha.trans (chlSend_cores _ hp)
  · exact ha.trans (putBlock_cores _ _ _)

theorem chlBlocks_cores (c : Chip) {p : Nat} (hp : p < 2) : CoresStay c (c.chlBlocks p) := by
  unfold Chip.chlBlocks
  split
  · exact .refl c
  · exact (CoresStay.setPort _ _ _).trans (.iter (fun d => chlBlock_cores d hp) _ _)

theorem combAdd_cores (c : Chip) (key : Nat) (v : Cx) : CoresStay c (c.combAdd key v) := .of_eq rfl rfl

theorem contribute_cores (c : Chip) (t : Tune) (i : Nat) (o : OutPath) : CoresStay c (c.contribute t i o).1 := by
  unfold Chip.contribute
  exact .forEach (fun _ d => .forEach (fun _ e => combAdd_cores e _ _) d _) c _

theorem playSample_cores (c : Chip) (f : PlayFrame) (k : Nat) : CoresStay c (c.playSample f k) := by
  unfold Chip.playSample
  exact (contribute_cores _ _ _ _).trans (.setChl _ _)

theorem chlPlay_cores (c : Chip) : CoresStay c c.chlPlay := by
  unfold Chip.chlPlay
  split
  · exact .refl c
  · have h := CoresStay.foldl (fun d f => CoresStay.foldl (fun e k => playSample_cores e f k) d
      ((List.range 64).filter fun k => !f.holds c.now k && decide (f.done ≤ k))) c c.chl.play
    exact (h.trans (.setChl _ _)).trans (.wr _ _ (by decide))

theorem chlTick_cores (c : Chip) : CoresStay c c.chlTick :=
  ((chlBlocks_cores c (by omega)).trans (chlBlocks_cores _ (by omega))).trans (chlPlay_cores _)

theorem cycle_cores (c : Chip) : CoresStay c c.cycle := by
  have hz : CoresStay c (c.when c.zmd.mem.run fun c => c.setZm fun m => { m with zt := m.zt + 1 }) := .when _ (.of_eq rfl rfl)
  unfold Chip.cycle
  dsimp only
  split
  · exact hz
  · split
    · exact hz.trans (airCycle_cores _)
    · exact (hz.trans (airCycle_cores _)).trans (.when _ (chlTick_cores _))

/-- A core that is held takes no step. -/
theorem coreStep_held {s : State} {k : Fin 4} (h : s.chip.rdBit F.SUP_CTRL_RUN k = false) : s.coreStep k = s := by
  simp [State.coreStep, h]

/-- While the clocks of the board die stand, no core takes a step. -/
theorem coreStep_stopped {s : State} (h : s.chip.running = false) (k : Fin 4) : s.coreStep k = s := by
  simp [State.coreStep, h]

/-- Where no core takes a step, an idle cycle is the cycle of the block. -/
theorem idle_of_cores_still {s : State} (h : ∀ k, ({ s with chip := s.chip.cycle } : State).coreStep k = { s with chip := s.chip.cycle }) :
    s.idle = { s with chip := s.chip.cycle } := by
  simp [State.idle, h]

/-- With no core released, an idle cycle is the cycle of the block. -/
theorem idle_of_held {s : State} (h : ∀ k, k < 4 → s.chip.rdBit F.SUP_CTRL_RUN k = false) :
    s.idle = { s with chip := s.chip.cycle } := by
  refine idle_of_cores_still fun k => coreStep_held ?_
  simpa [Chip.rdBit, (cycle_cores s.chip).run] using h k k.isLt

/-- Counting ZT changes, of the ZMD's memory, the times alone (R226, R240). -/
theorem zt_count (c : Chip) : ∃ z : Zmd, (c.setZm fun m => { m with zt := m.zt + 1 }) = { c with zmd := z } ∧
    z.mem.zt = c.zmd.mem.zt + 1 ∧ z.mem.run = c.zmd.mem.run ∧ z.mem.reports = c.zmd.mem.reports := by
  refine ⟨_, rfl, ?_⟩
  dsimp only
  repeat' split
  all_goals exact ⟨rfl, rfl, rfl⟩

/-- In reset a cycle counts ZT, if the ZMD runs, and does no more (R422). -/
theorem cycle_in_reset {c : Chip} (h : c.inReset = true) : ∃ z : Zmd, c.cycle = { c with zmd := z } ∧
    z.mem.zt = c.zmd.mem.zt + (if c.zmd.mem.run then 1 else 0) ∧ z.mem.run = c.zmd.mem.run ∧ z.mem.reports = c.zmd.mem.reports := by
  obtain ⟨z, hz, ht, hr, hp⟩ := zt_count c
  cases hrun : c.zmd.mem.run with
  | true =>
    have hreset : ({ c with zmd := z } : Chip).inReset = true := h
    exact ⟨z, by simp [Chip.cycle, hrun, hz, hreset], ht, hr.trans hrun, hp⟩
  | false => exact ⟨c.zmd, by simp [Chip.cycle, hrun, h], rfl, hrun, rfl⟩

/-- Settles O2: the cycle of the block leaves the cores alone, and a core that is held or without clocks takes no step. -/
theorem emptyQueueIdles : Obligations.EmptyQueueIdles := by
  intro s hq
  refine ⟨s.idle, by simp [step, hq], (idle_keeps s).queue.trans hq, fun hk => ?_, fun hr => ?_⟩
  · rw [idle_of_held hk]
    exact ⟨rfl, (cycle_cores s.chip).harts⟩
  · obtain ⟨z, hz, hzt⟩ := cycle_in_reset hr
    refine ⟨z, ?_, hzt⟩
    rw [idle_of_cores_still (coreStep_stopped ?_), hz]
    have hr' : s.chip.cycle.inReset = true := by rw [hz]; exact hr
    simp [Chip.running, hr']

/-! ## The state at reset -/

/-- Settles O60: nothing is listed in any store, so every field reads its reset value, and all else follows from the register tables. -/
theorem resetState : Obligations.ResetState := by
  have hrd : ∀ f : Fld, State.reset.chip.rd f = f.rst := fun _ => rfl
  refine ⟨hrd, rfl, rfl, rfl, fun n _ => ⟨rfl, ?_⟩, fun e _ => ⟨rfl, rfl⟩, rfl, rfl⟩
  unfold Chip.routed
  repeat' split
  all_goals simp [Chip.rdBit, hrd, bit, F.TOP_ROUTED_LO_SQ_A, F.TOP_ROUTED_LO_SQ_B, F.TOP_ROUTED_HI_SQ_C, F.TOP_ROUTED_HI_SQ_D]

/-! ## TH_CFG and the wings -/

/-- A block before the first thermal evaluation with TX_BUDGET −32,000 on every wing, package limits 0 and CUT_MAX 0: no limit stands at
0x8000, and no square reads MS_WING (R36, R37, R286). -/
def lowBudgets : Chip :=
  ((([0, 1, 2, 3].foldl (fun c w => c.wr (F.WG_BUDGET_TX_BUDGET w) 0x8300) ({} : Chip)).wr F.WG_PKG_LIMIT_DONOR_LIMIT 0).wr
    F.WG_PKG_LIMIT_SERVICE_LIMIT 0).wr F.TH_CFG_CUT_MAX 0

/-- Writing CUT_MAX = 2,000 brings every EFF_LIMIT to 0x8000, which mutes the wings (R36, R37). -/
theorem cutMax_write_mutes : ∃ d, exec (.registerWrite .pf 0x1800000 .lo 0x7D00032) { chip := lowBudgets } = .next { chip := d } ∧
    d.rd (F.SQ_STATUS_MS_WING 0) = 1 := ⟨_, rfl, by decide +kernel⟩

/-- Refutes O10: `plainReg` takes TH_CFG for a register without an effect of its own, but its write brings the wings in line with the
cuts before the first evaluation (R37, R286). Where a write of CUT_MAX takes the limits to 0x8000, it sets MS_WING of every square. -/
theorem not_accessErrors : ¬ Obligations.AccessErrors := by
  rintro ⟨-, -, hwrite, -⟩
  obtain ⟨d, hd, -, hkeeps, -⟩ := hwrite .pf 0x1800000 0x7D00032 .lo _ rfl rfl rfl (by decide) { chip := lowBudgets }
    ⟨⟨by decide +kernel, rfl⟩, rfl⟩
  obtain ⟨e, he, hmuted⟩ := cutMax_write_mutes
  obtain rfl : d = e := congrArg State.chip (Host.Outcome.next.inj (hd.symm.trans he))
  have hkept := hkeeps (F.SQ_STATUS_MS_WING 0) (by decide)
  have hbefore : (((lowBudgets.woken .pf).respond .pf 0).rd (F.SQ_STATUS_MS_WING 0)) = 0 := by decide +kernel
  exact absurd (hmuted.symm.trans (hkept.trans hbefore)) (by decide)

end Sys2Proof.Machine
end

section
/-!
SUPPORT. The image loader's commands and its port (R46, R53–R59): bits of a field, what stays as it was when a chain of updates is confined
to some registers, the load's start and end, the port's words, and CLEAR with the unrouting of every square.
-/

namespace Sys2Proof.Machine

/-! ## Bits of a field -/

theorem bit_eq_testBit (n i : Nat) : bit n i = n.testBit i := by
  simp [bit, Nat.testBit_eq_decide_div_mod_eq]

/-- What setting or clearing bit `i` makes of a number: what lies above the bit, the bit, and what lies below it. -/
theorem putBit_eq (n i : Nat) (b : Bool) : putBit n i b = 2 ^ i * (2 * (n / 2 ^ i / 2) + b2n b) + n % 2 ^ i := by
  have hn := Nat.div_add_mod n (2 ^ i)
  have hq := Nat.div_add_mod (n / 2 ^ i) 2
  have hbit : n / 2 ^ i = 2 * (n / 2 ^ i / 2) + b2n (bit n i) := by
    cases h : bit n i <;> simp [bit, b2n] at h ⊢ <;> omega
  generalize n / 2 ^ i / 2 = m at *
  rw [hbit, Nat.mul_add] at hn
  unfold putBit
  cases h : bit n i <;> cases b <;> simp [h, b2n, Nat.mul_add] at hn ⊢ <;> omega

/-- Setting or clearing a bit leaves every other bit. -/
theorem bit_putBit (n i j : Nat) (b : Bool) : bit (putBit n i b) j = if j = i then b else bit n j := by
  have hlow : n % 2 ^ i < 2 ^ i := Nat.mod_lt _ (Nat.two_pow_pos i)
  rw [putBit_eq, bit_eq_testBit, bit_eq_testBit, Nat.testBit_two_pow_mul_add _ hlow]
  rcases Nat.lt_trichotomy j i with h | rfl | h
  · simp [h, Nat.ne_of_lt h, Nat.testBit_mod_two_pow]
  · cases b <;> simp [b2n, Nat.testBit_zero]
  · obtain ⟨k, rfl⟩ := Nat.exists_eq_add_of_lt h
    have hb : (2 * (n / 2 ^ i / 2) + b2n b) / 2 = n / 2 ^ i / 2 := by cases b <;> simp [b2n]; omega
    rw [if_neg (by omega), if_neg (by omega), show i + k + 1 - i = k + 1 by omega, Nat.testBit_succ, hb, ← Nat.testBit_succ,
      Nat.testBit_div_two_pow]
    congr 1; omega

/-- A bit of a field, after another bit of it was written. -/
theorem rdBit_wrBit (c : Chip) (f : Fld) (i : Nat) {j : Nat} (b : Bool) (hj : j < f.wd) :
    (c.wrBit f i b).rdBit f j = if j = i then b else c.rdBit f j := by
  unfold Chip.rdBit Chip.wrBit
  rw [rd_wr_same, bit_eq_testBit, Nat.testBit_mod_two_pow, ← bit_eq_testBit, bit_putBit]
  simp [hj]

/-! ## Updates confined to some registers -/

/-- What holds at the start of a run over a list of numbers, and through each of its steps, holds at the end. -/
theorem forEach_induct {P : Chip → Prop} {g : Nat → Chip → Chip} {c : Chip} {l : List Nat} (h : P c)
    (hg : ∀ k ∈ l, ∀ d, P d → P (g k d)) : P (c.forEach l g) := by
  induction l generalizing c with
  | nil => exact h
  | cons k l ih => exact ih (hg k (by simp) c h) fun j hj => hg j (by simp [hj])

/-- What the step for a number of the list brings about, and every step keeps, holds at the end. -/
theorem forEach_reaches {P : Chip → Prop} {g : Nat → Chip → Chip} (c : Chip) {l : List Nat} {k : Nat} (hk : k ∈ l)
    (hset : ∀ d, P (g k d)) (hkeep : ∀ j ∈ l, ∀ d, P d → P (g j d)) : P (c.forEach l g) := by
  induction l generalizing c with
  | nil => cases hk
  | cons j l ih =>
    have hrest : ∀ i ∈ l, ∀ d, P d → P (g i d) := fun i hi => hkeep i (by simp [hi])
    rcases List.mem_cons.mp hk with rfl | hk
    · exact forEach_induct (c := g k c) (hset c) hrest
    · exact ih _ hk hrest

/-- From `c` to `d` nothing differs but the loader, the memories of the squares, and register fields whose key satisfies `p`. -/
structure Confined (p : Nat → Prop) (c d : Chip) : Prop where
  only : d = { c with regs := d.regs, img := d.img, sqs := d.sqs }
  rd : ∀ f : Fld, ¬ p f.key → d.rd f = c.rd f

namespace Confined

variable {p : Nat → Prop} {c d e : Chip}

theorem refl (c : Chip) : Confined p c c := ⟨rfl, fun _ _ => rfl⟩

theorem trans (h : Confined p c d) (h' : Confined p d e) : Confined p c e :=
  ⟨h'.only.trans (congrArg (fun x : Chip => { x with regs := e.regs, img := e.img, sqs := e.sqs }) h.only),
    fun f hf => (h'.rd f hf).trans (h.rd f hf)⟩

theorem mono {q : Nat → Prop} (h : Confined p c d) (hpq : ∀ k, p k → q k) : Confined q c d :=
  ⟨h.only, fun f hf => h.rd f fun hp => hf (hpq _ hp)⟩

theorem bus (h : Confined p c d) : d.bus = c.bus := by rw [h.only]

theorem wr (c : Chip) {f : Fld} (h : p f.key) (v : Nat) : Confined p c (c.wr f v) :=
  ⟨rfl, fun _ hx => rd_wr_ne c v fun hk => hx (hk ▸ h)⟩

theorem setImg (c : Chip) (g : Img → Img) : Confined p c (c.setImg g) := ⟨rfl, fun _ _ => rfl⟩

theorem setSq (c : Chip) (n : Nat) (g : Sq → Sq) : Confined p c (c.setSq n g) := ⟨rfl, fun _ _ => rfl⟩

theorem forEach {g : Nat → Chip → Chip} {l : List Nat} (c : Chip) (h : ∀ k ∈ l, ∀ d, Confined p d (g k d)) :
    Confined p c (c.forEach l g) :=
  forEach_induct (refl c) fun k hk d hd => hd.trans (h k hk d)

end Confined

/-- A write that is an access to the register at `a` with effect `g` does what `P` says, if `g` does, and leaves the response alone. -/
theorem writes_of_effect {i : Instr} {q : Requester} {a : Nat} {g : Chip → Chip} {P : Chip → Chip → Prop}
    (hi : ∀ s, exec i s = s.onAccess q fun c => c.write q a g) (hbus : ∀ c, (g c).bus = c.bus) (hP : ∀ c, P c (g c)) :
    Writes i q a P := by
  intro s hs
  refine ⟨_, ?_, hP _⟩
  rw [hi, onAccess_write hs, coreTrap_none (by rw [hbus]; rfl)]

/-- A chain ending in a change of the loader's memory. -/
theorem keeps_setImg_of {c d : Chip} {l : List Fld} (h : Keeps c d l) (g : Img → Img) : Keeps c (d.setImg g) l := h

/-! ## START, ABORT and HASH_REQ -/

/-- START in IDLE, with no erasure running (R53, R55). -/
theorem imgStart_idle {c : Chip} (he : c.img.erasing = false) (hs : c.rd F.TOP_IMG_STATUS_STATE = 0) :
    c.imgStart = (((c.wr F.TOP_IMG_STATUS_STATE 1).wr F.TOP_IMG_STATUS_HASH_VALID 0).wr F.TOP_IMG_STATUS_HASH_BUSY 0).setImg fun x =>
      { x with
        phase := .header, buf := [], heldLo := none
        flashLeft := (if c.rd F.TOP_IMG_FLASH_MAX_KIB = 0 then 4096 else c.rd F.TOP_IMG_FLASH_MAX_KIB) * 1024
        flashAddr := c.rd F.TOP_IMG_FLASH_BASE, flashMode := c.rd F.TOP_IMG_FLASH_MODE, flashDummy := c.rd F.TOP_IMG_FLASH_DUMMY } := by
  unfold Chip.imgStart
  rw [if_neg (by simp [he]), if_neg (by simp [hs])]
  simp (disch := decide) [rd_wr_ne]

/-- Outside IDLE, START is ignored. -/
theorem imgStart_busy {c : Chip} (he : c.img.erasing = false) (hs : c.rd F.TOP_IMG_STATUS_STATE ≠ 0) : c.imgStart = c := by
  simp [Chip.imgStart, he, hs]

/-- While an erasure runs, START is held (R57). -/
theorem imgStart_erasing {c : Chip} (he : c.img.erasing = true) : c.imgStart = c.setImg fun x => { x with heldStart := true } := by
  simp [Chip.imgStart, he]

theorem imgStart_bus (c : Chip) : c.imgStart.bus = c.bus := by
  unfold Chip.imgStart
  split
  · rfl
  · split <;> rfl

/-- The load has ended between `c` and `d` with this CAUSE (R46): resolution starts, and what was left of the stream is dropped. -/
structure LoadEnded (cause : Nat) (c d : Chip) : Prop where
  state : d.rd F.TOP_IMG_STATUS_STATE = if cause = 1 then 2 else 3
  cause : d.rd F.TOP_IMG_STATUS_CAUSE = cause
  resolving : d.img.resolving = true
  buf : d.img.buf = []
  space : d.img.space = c.img.space
  only : d = { c with regs := d.regs, img := d.img }
  keeps : Keeps c d [F.TOP_IMG_STATUS_STATE, F.TOP_IMG_STATUS_CAUSE, F.TOP_IMG_STATUS_PORT_DROP]

theorem imgEnd_ends (c : Chip) {cause : Nat} (h : cause < 16) : LoadEnded cause c (c.imgEnd cause) := by
  have hc : cause % 2 ^ F.TOP_IMG_STATUS_CAUSE.wd = cause := Nat.mod_eq_of_lt h
  have hs : (if cause = 1 then 2 else 3) % 2 ^ F.TOP_IMG_STATUS_STATE.wd = if cause = 1 then 2 else 3 := by split <;> rfl
  have hk : Keeps c ((c.wr F.TOP_IMG_STATUS_STATE (if cause = 1 then 2 else 3)).wr F.TOP_IMG_STATUS_CAUSE cause)
      [F.TOP_IMG_STATUS_STATE, F.TOP_IMG_STATUS_CAUSE, F.TOP_IMG_STATUS_PORT_DROP] :=
    keeps_wr_of (keeps_wr (by simp) _) (by simp) _
  unfold Chip.imgEnd
  cases c.rd F.TOP_IMG_CTRL_SOURCE = 0 && (!c.img.buf.isEmpty || c.img.heldLo.isSome) <;> constructor
  case false.keeps => exact keeps_setImg_of hk _
  case true.keeps => exact keeps_setImg_of (keeps_wr_of hk (by simp) 1) _
  case false.only | true.only => rfl
  all_goals simp (disch := decide) [rd_wr_ne, hc, hs]

theorem imgEnd_bus (c : Chip) (cause : Nat) : (c.imgEnd cause).bus = c.bus := by
  unfold Chip.imgEnd
  cases c.rd F.TOP_IMG_CTRL_SOURCE = 0 && (!c.img.buf.isEmpty || c.img.heldLo.isSome) <;> rfl

theorem imgAbort_bus (c : Chip) : c.imgAbort.bus = c.bus := by
  unfold Chip.imgAbort
  split
  · exact imgEnd_bus c 5
  · rfl

theorem hashReq_bus (c : Chip) : c.hashReq.bus = c.bus := by
  unfold Chip.hashReq
  split
  · rfl
  · split <;> rfl

/-! ## The port -/

/-- A write of the port once there is room for a word (R54). -/
def Chip.portTake (c : Chip) (h : Half) (v : Nat) : Chip :=
  if c.rd F.TOP_IMG_STATUS_STATE ≠ 1 ∨ c.rd F.TOP_IMG_CTRL_SOURCE ≠ 0 then c.raise F.TOP_IMG_STATUS_PORT_DROP else
  match h, c.img.heldLo with
  | .full, none => c.imgDeliver (v % 2 ^ 64)
  | .full, some _ => ((c.raise F.TOP_IMG_STATUS_PORT_DROP).setImg fun x => { x with heldLo := none }).imgDeliver (v % 2 ^ 64)
  | .lo, _ => c.setImg fun x => { x with heldLo := some (v % 2 ^ 32) }
  | .hi, none => c.raise F.TOP_IMG_STATUS_PORT_DROP
  | .hi, some l => (c.setImg fun x => { x with heldLo := none }).imgDeliver (l + v % 2 ^ 32 * 2 ^ 32)

theorem imgPort_eq (c : Chip) (h : Half) (v : Nat) : c.imgPort h v = (c.imgRoom h).portTake h v := rfl

/-- A write that completes no word, or finds room, makes the loader take none. -/
theorem imgRoom_free {c : Chip} {h : Half} (hr : h = .lo ∨ c.img.buf.length < 64) : c.imgRoom h = c := by
  unfold Chip.imgRoom
  rcases hr with rfl | hr
  · rfl
  · simp [show ¬ 64 ≤ c.img.buf.length by omega]

/-- A write that completes a word and finds 64 words waiting makes the loader take one (log 92). -/
theorem imgRoom_full {c : Chip} {h : Half} (hh : h ≠ .lo) (hr : 64 ≤ c.img.buf.length) : c.imgRoom h = c.imgConsume := by
  cases h <;> simp_all [Chip.imgRoom, Half.hasHi]

/-- A write of the port takes the block from `c`, which has room for a word, to `d`. -/
structure PortTaken (h : Half) (v : Nat) (c d : Chip) : Prop where
  only : d = { c with regs := d.regs, img := d.img }
  keeps : Keeps c d [F.TOP_IMG_STATUS_PORT_DROP]
  dropped : c.rd F.TOP_IMG_STATUS_STATE ≠ 1 ∨ c.rd F.TOP_IMG_CTRL_SOURCE ≠ 0 → d.rd F.TOP_IMG_STATUS_PORT_DROP = 1 ∧ d.img = c.img
  taken : c.rd F.TOP_IMG_STATUS_STATE = 1 → c.rd F.TOP_IMG_CTRL_SOURCE = 0 →
    (h = .full → d.img.buf = c.img.buf ++ [v % 2 ^ 64] ∧ d.img.heldLo = none ∧
      (c.img.heldLo.isSome = true → d.rd F.TOP_IMG_STATUS_PORT_DROP = 1)) ∧
    (h = .lo → d.img = { c.img with heldLo := some (v % 2 ^ 32) }) ∧
    (h = .hi → c.img.heldLo = none → d.rd F.TOP_IMG_STATUS_PORT_DROP = 1 ∧ d.img = c.img) ∧
    (∀ l, h = .hi → c.img.heldLo = some l → d.img = { c.img with heldLo := none, buf := c.img.buf ++ [l + v % 2 ^ 32 * 2 ^ 32] })

theorem portTake_taken (h : Half) (v : Nat) (c : Chip) : PortTaken h v c (c.portTake h v) := by
  have hdrop : Keeps c (c.raise F.TOP_IMG_STATUS_PORT_DROP) [F.TOP_IMG_STATUS_PORT_DROP] := keeps_wr (by simp) _
  have hone : (c.raise F.TOP_IMG_STATUS_PORT_DROP).rd F.TOP_IMG_STATUS_PORT_DROP = 1 := rd_wr_same ..
  unfold Chip.portTake
  split
  next hout => exact ⟨rfl, hdrop, fun _ => ⟨hone, rfl⟩, fun h1 h0 => absurd hout (by simp [h1, h0])⟩
  next hin =>
    cases h with
    | full =>
      cases hl : c.img.heldLo with
      | none => exact ⟨rfl, keeps_refl _ _, fun ho => absurd ho hin, fun _ _ => by simp [Chip.imgDeliver, hl]⟩
      | some l => exact ⟨rfl, hdrop, fun ho => absurd ho hin, fun _ _ =>
        ⟨fun _ => ⟨rfl, rfl, fun _ => hone⟩, by simp, by simp, by simp⟩⟩
    | lo => exact ⟨rfl, keeps_refl _ _, fun ho => absurd ho hin, fun _ _ => by simp⟩
    | hi =>
      cases hl : c.img.heldLo with
      | none => exact ⟨rfl, hdrop, fun ho => absurd ho hin, fun _ _ =>
        ⟨by simp, by simp, fun _ _ => ⟨hone, rfl⟩, by simp [hl]⟩⟩
      | some l => exact ⟨rfl, keeps_refl _ _, fun ho => absurd ho hin, fun _ _ => by simp [Chip.imgDeliver, hl]⟩

/-! The loader takes one word (R44–R46). -/

theorem takeHeader_bus (c : Chip) (p : Nat → Bool) {g : Nat → Chip → Chip} (hg : ∀ w d, (g w d).bus = d.bus) :
    (c.takeHeader p g).bus = c.bus := by
  unfold Chip.takeHeader
  split
  · split
    · exact hg _ _
    · rfl
  · rfl

theorem imgDataWord_bus (c : Chip) : c.imgDataWord.bus = c.bus := by
  unfold Chip.imgDataWord
  split
  · split <;> rfl
  · rfl

theorem imgConsume_bus (c : Chip) : c.imgConsume.bus = c.bus := by
  unfold Chip.imgConsume
  split
  · exact imgDataWord_bus c
  · rfl
  · split
    · exact takeHeader_bus c _ fun _ d => imgEnd_bus d 1
    · split
      · exact takeHeader_bus c _ fun _ _ => rfl
      · exact takeHeader_bus c _ fun _ d => imgEnd_bus d _

/-- A word that the loader expects as data leaves the buffer. -/
theorem imgConsume_data_buf {c : Chip} {n i w : Nat} {l : List Nat} (hs : c.rd F.TOP_IMG_STATUS_STATE = 1)
    (hp : c.img.phase = .data n i) (hb : c.img.buf = w :: l) : c.imgConsume.img.buf = l := by
  simp [Chip.imgConsume, Chip.imgDataWord, hs, hp, hb]

theorem imgRoom_bus (c : Chip) (h : Half) : (c.imgRoom h).bus = c.bus := by
  unfold Chip.imgRoom Chip.when
  split
  · exact imgConsume_bus c
  · rfl

theorem imgPort_bus (c : Chip) (h : Half) (v : Nat) : (c.imgPort h v).bus = c.bus := by
  rw [imgPort_eq, (portTake_taken h v (c.imgRoom h)).only]
  exact imgRoom_bus c h

/-! ## Unrouting (R57) -/

/-- The field of TOP_ROUTED that holds the bit of square `n`, at `n % 32`. -/
def routedFld (n : Nat) : Fld := ⟨0x40 + 8 * (n / 64), 32 * (n / 32 % 2), 32, 0⟩

/-- What is done quarter by quarter is done at the square's place. -/
theorem byQuarter_eq {α : Type} (G : Fld → Nat → α) {n : Nat} (h : n < 128) :
    (if n < 32 then G F.TOP_ROUTED_LO_SQ_A n else if n < 64 then G F.TOP_ROUTED_LO_SQ_B (n - 32)
      else if n < 96 then G F.TOP_ROUTED_HI_SQ_C (n - 64) else G F.TOP_ROUTED_HI_SQ_D (n - 96)) = G (routedFld n) (n % 32) := by
  have place : ∀ {f : Fld} {i : Nat}, routedFld n = f → n % 32 = i → G f i = G (routedFld n) (n % 32) := by
    rintro _ _ rfl rfl; rfl
  repeat' split
  all_goals
    apply place
    · simp only [routedFld, F.TOP_ROUTED_LO_SQ_A, F.TOP_ROUTED_LO_SQ_B, F.TOP_ROUTED_HI_SQ_C, F.TOP_ROUTED_HI_SQ_D, Fld.mk.injEq, and_true]
      omega
    · omega

theorem routed_eq (c : Chip) {n : Nat} (h : n < 128) : c.routed n = c.rdBit (routedFld n) (n % 32) :=
  byQuarter_eq (fun f i => c.rdBit f i) h

theorem setRouted_eq (c : Chip) {n : Nat} (h : n < 128) (b : Bool) : c.setRouted n b = c.wrBit (routedFld n) (n % 32) b :=
  byQuarter_eq (fun f i => c.wrBit f i b) h

/-- A square's bit, after another's was written. -/
theorem routed_setRouted (c : Chip) {n k : Nat} (hn : n < 128) (hk : k < 128) (b : Bool) :
    (c.setRouted n b).routed k = if k = n then b else c.routed k := by
  rw [setRouted_eq c hn, routed_eq _ hk, routed_eq _ hk]
  by_cases hq : k / 32 = n / 32
  · have hf : routedFld k = routedFld n := by simp only [routedFld, Fld.mk.injEq, and_true]; omega
    rw [hf, rdBit_wrBit _ _ _ _ (show k % 32 < 32 by omega)]
    have hk : k % 32 = n % 32 ↔ k = n := by omega
    simp only [hk]
  · have hf : (routedFld k).key ≠ (routedFld n).key := by simp only [routedFld, Fld.key]; omega
    rw [if_neg (by omega)]
    simp only [Chip.rdBit, Chip.wrBit, rd_wr_ne c _ hf]

/-- The keys of the fields that say which squares are routed, of the squares and of the wings. -/
def routingKey (k : Nat) : Prop :=
  (0x40 ≤ k / 64 ∧ k / 64 < 0x50) ∨ (0x1000000 ≤ k / 64 ∧ k / 64 < 0x1080000) ∨ (0x1200000 ≤ k / 64 ∧ k / 64 < 0x1300000)

/-- What resolution says of a square that is not routed (R48, R134). -/
theorem resolveSq_nil (c : Chip) (n : Nat) :
    c.resolveSq [] n = (((((((c.setRouted n false).wr (F.SQ_ID_ROUTED n) 0).wr (F.SQ_ID_BOND_SIZE n) 0).wr (F.SQ_ID_BOND_POS n) 0).wr
      (F.SQ_ID_PAIRED n) 0).wr (F.SQ_ID_PAIR_SQ n) 0).wr (F.SQ_STATUS_STATE n) 0).setSq n fun q => { q with dir := 0, gPrev := none } := rfl

theorem setRouted_confined (c : Chip) {n : Nat} (hn : n < 128) (b : Bool) : Confined routingKey c (c.setRouted n b) := by
  rw [setRouted_eq c hn]
  exact .wr c (by simp only [routingKey, routedFld, Fld.key]; omega) _

theorem resolveSq_nil_confined (c : Chip) {n : Nat} (hn : n < 128) : Confined routingKey c (c.resolveSq [] n) := by
  have field : ∀ {f : Fld} (d : Chip), f.addr = 0x1000000 + 0x1000 * n ∨ f.addr = 0x1000038 + 0x1000 * n → f.lo < 64 →
      Confined routingKey d (d.wr f 0) := fun d ha hl => .wr d (by simp only [routingKey, Fld.key]; omega) 0
  rw [resolveSq_nil]
  refine (((((((setRouted_confined c hn false).trans (field _ ?_ ?_)).trans (field _ ?_ ?_)).trans (field _ ?_ ?_)).trans
    (field _ ?_ ?_)).trans (field _ ?_ ?_)).trans (field _ ?_ ?_)).trans (.setSq _ _ _)
  all_goals simp [F.SQ_ID_ROUTED, F.SQ_ID_BOND_SIZE, F.SQ_ID_BOND_POS, F.SQ_ID_PAIRED, F.SQ_ID_PAIR_SQ, F.SQ_STATUS_STATE]

/-- Square `n` is not routed, in OFF, and in no group. -/
def Chip.squareOff (c : Chip) (n : Nat) : Prop := c.routed n = false ∧ c.sqState n = 0 ∧ c.bondSize n = 0

/-- Updates that leave these three fields of a square leave it off. -/
theorem Confined.squareOff {p : Nat → Prop} {c d : Chip} {n : Nat} (h : Confined p c d) (hn : n < 128) (hr : ¬ p (routedFld n).key)
    (hs : ¬ p (F.SQ_STATUS_STATE n).key) (hb : ¬ p (F.SQ_ID_BOND_SIZE n).key) (hc : c.squareOff n) : d.squareOff n := by
  simpa only [Chip.squareOff, routed_eq _ hn, Chip.rdBit, Chip.sqState, Chip.bondSize, h.rd _ hr, h.rd _ hs, h.rd _ hb] using hc

/-- Resolution of square `n` leaves the fields of every other register but those of TOP_ROUTED. -/
theorem rd_resolveSq_nil (c : Chip) (n : Nat) {f : Fld} (hi : f.key / 64 ≠ 0x1000000 + 0x1000 * n)
    (hs : f.key / 64 ≠ 0x1000038 + 0x1000 * n) : (c.resolveSq [] n).rd f = (c.setRouted n false).rd f := by
  have skip : ∀ (d : Chip) {g : Fld}, g.addr = 0x1000000 + 0x1000 * n ∨ g.addr = 0x1000038 + 0x1000 * n → g.lo < 64 →
      (d.wr g 0).rd f = d.rd f := fun d {g} ha hl => rd_wr_ne d 0 (by simp only [Fld.key] at *; omega)
  rw [resolveSq_nil, setSq_rd, skip, skip, skip, skip, skip, skip]
  all_goals simp [F.SQ_ID_ROUTED, F.SQ_ID_BOND_SIZE, F.SQ_ID_BOND_POS, F.SQ_ID_PAIRED, F.SQ_ID_PAIR_SQ, F.SQ_STATUS_STATE]

theorem routed_resolveSq_nil (c : Chip) {n k : Nat} (hn : n < 128) (hk : k < 128) :
    (c.resolveSq [] n).routed k = if k = n then false else c.routed k := by
  have hkey : (routedFld k).key / 64 < 0x50 := by simp only [routedFld, Fld.key]; omega
  rw [← routed_setRouted c hn hk false, routed_eq _ hk, routed_eq _ hk, Chip.rdBit, rd_resolveSq_nil c n (by omega) (by omega), ← Chip.rdBit]

theorem resolveSq_nil_off (c : Chip) {n : Nat} (hn : n < 128) : (c.resolveSq [] n).squareOff n := by
  refine ⟨by simp [routed_resolveSq_nil c hn hn], by simp [Chip.sqState, resolveSq_nil], ?_⟩
  rw [Chip.bondSize, resolveSq_nil, setSq_rd, rd_wr_ne, rd_wr_ne, rd_wr_ne, rd_wr_ne, rd_wr_same]
  · rfl
  all_goals simp only [Fld.key, F.SQ_ID_BOND_SIZE, F.SQ_ID_BOND_POS, F.SQ_ID_PAIRED, F.SQ_ID_PAIR_SQ, F.SQ_STATUS_STATE]; omega

theorem resolveSq_nil_keeps_off (c : Chip) {n k : Nat} (hn : n < 128) (hk : k < 128) (h : c.squareOff k) :
    (c.resolveSq [] n).squareOff k := by
  by_cases hne : k = n
  · subst hne
    exact resolveSq_nil_off c hk
  have other : ∀ f : Fld, f = F.SQ_STATUS_STATE k ∨ f = F.SQ_ID_BOND_SIZE k → (c.resolveSq [] n).rd f = c.rd f := by
    rintro _ (rfl | rfl) <;>
    · rw [rd_resolveSq_nil, setRouted_eq c hn]
      · exact rd_wr_ne _ _ (by simp only [Fld.key, routedFld, F.SQ_STATUS_STATE, F.SQ_ID_BOND_SIZE]; omega)
      all_goals simp only [Fld.key, F.SQ_STATUS_STATE, F.SQ_ID_BOND_SIZE]; omega
  obtain ⟨hr, hs, hb⟩ := h
  exact ⟨by simp [routed_resolveSq_nil c hn hk, hne, hr], (other _ (.inl rfl)).trans hs, (other _ (.inr rfl)).trans hb⟩

/-- The keys of the fields of the wings. -/
def wingKey (k : Nat) : Prop := 0x1200000 ≤ k / 64 ∧ k / 64 < 0x1300000

theorem share_confined (c : Chip) {w : Nat} (hw : w < 4) (v : Nat) : Confined wingKey c (c.wr (F.WG_SHARE_SHARE_MHZ w) v) :=
  .wr c (by simp only [wingKey, Fld.key, F.WG_SHARE_SHARE_MHZ]; omega) v

/-- The shares are zeroed. -/
theorem zeroShares_confined (c : Chip) :
    Confined wingKey c (c.forEach (List.range 4) fun w c => c.wr (F.WG_SHARE_SHARE_MHZ w) 0) :=
  .forEach c fun _ hw d => share_confined d (List.mem_range.mp hw) 0

theorem unroute_confined (c : Chip) : Confined routingKey c c.unroute :=
  (Confined.forEach c fun _ hn d => resolveSq_nil_confined d (List.mem_range.mp hn)).trans
    ((zeroShares_confined _).mono fun _ h => .inr (.inr h))

theorem unroute_share (c : Chip) {w : Nat} (hw : w < 4) : c.unroute.rd (F.WG_SHARE_SHARE_MHZ w) = 0 := by
  refine forEach_reaches (P := fun d => d.rd (F.WG_SHARE_SHARE_MHZ w) = 0) _ (List.mem_range.mpr hw) (fun d => by simp)
    fun j _ d hd => ?_
  by_cases hne : w = j
  · simp [hne]
  · rw [rd_wr_ne _ _ (by simp only [Fld.key, F.WG_SHARE_SHARE_MHZ]; omega), hd]

theorem unroute_off (c : Chip) {n : Nat} (hn : n < 128) : c.unroute.squareOff n := by
  have hsq : (c.forEach allSquares fun n c => c.resolveSq [] n).squareOff n :=
    forEach_reaches (P := fun d => d.squareOff n) c (List.mem_range.mpr hn) (fun d => resolveSq_nil_off d hn)
      fun j hj d => resolveSq_nil_keeps_off d (List.mem_range.mp hj) hn
  refine (zeroShares_confined _).squareOff hn ?_ ?_ ?_ hsq
  all_goals simp only [wingKey, routedFld, Fld.key, F.SQ_STATUS_STATE, F.SQ_ID_BOND_SIZE]; omega

/-! ## Mute sources of squares at rest (R131, R134) -/

/-- The keys of the mute sources of the squares. -/
def muteKey (k : Nat) : Prop := ∃ n m, n < 128 ∧ k = (Ms.fld m n).key

/-- A mute source lies in bits 4 to 13 of SQ_STATUS. -/
theorem muteKey_place {k : Nat} (h : muteKey k) : ∃ n, n < 128 ∧ k / 64 = 0x1000038 + 0x1000 * n ∧ 4 ≤ k % 64 := by
  obtain ⟨n, m, hn, rfl⟩ := h
  refine ⟨n, hn, ?_⟩
  cases m <;> simp only [Ms.fld, Fld.key, F.SQ_STATUS_MS_FAULT, F.SQ_STATUS_MS_GROUP, F.SQ_STATUS_MS_RANK, F.SQ_STATUS_MS_WING,
    F.SQ_STATUS_MS_BRIDGE, F.SQ_STATUS_MS_HOLD, F.SQ_STATUS_MS_PROTECT, F.SQ_STATUS_MS_DIRECTION, F.SQ_STATUS_MS_STOP,
    F.SQ_STATUS_MS_PLACEMENT] <;> omega

theorem not_muteKey {k : Nat} (h : k % 64 < 4 ∨ ¬ (0x1000000 ≤ k / 64 ∧ k / 64 < 0x1080000 ∧ k / 64 % 0x1000 = 0x38)) : ¬ muteKey k := by
  intro hk
  obtain ⟨n, hn, ha, hl⟩ := muteKey_place hk
  omega

theorem ms_confined (c : Chip) (m : Ms) {n : Nat} (hn : n < 128) (v : Nat) : Confined muteKey c (c.wr (m.fld n) v) :=
  .wr c ⟨n, m, hn, rfl⟩ v

/-- Every square is in OFF, so that no mute source starts a ramp (R130). -/
def Chip.resting (c : Chip) : Prop := ∀ n, n < 128 → c.sqState n = 0

theorem Confined.resting {c d : Chip} (h : Confined muteKey c d) (hc : c.resting) : d.resting := fun n hn =>
  (h.rd _ (not_muteKey (.inl (by simp only [Fld.key, F.SQ_STATUS_STATE]; omega)))).trans (hc n hn)

theorem leader_le (c : Chip) (n : Nat) : c.leader n ≤ n := by
  unfold Chip.leader
  split <;> omega

theorem setMs_confined {c : Chip} (hc : c.resting) (m : Ms) {n : Nat} (hn : n < 128) : Confined muteKey c (c.setMs m n) := by
  have hu : c.leader n < 128 := Nat.lt_of_le_of_lt (leader_le c n) hn
  have hw := ms_confined c m hu 1
  have hoff : (c.wr (m.fld (c.leader n)) 1).sqState (c.leader n) = 0 := hw.resting hc _ hu
  simpa [Chip.setMs, Chip.startMute, hoff] using hw

/-- A mute source of a square at rest is brought in line with its condition. -/
theorem refreshMs_confined {c : Chip} (hc : c.resting) (m : Ms) {n : Nat} (hn : n < 128) (b : Bool) :
    Confined muteKey c (if b then (if c.on (m.fld n) then c else c.setMs m n) else c.wr (m.fld n) 0) := by
  split
  · split
    · exact .refl c
    · exact setMs_confined hc m hn
  · exact ms_confined c m hn 0

/-- A chain that ends in the refreshing of a square's fault sources. -/
theorem Confined.refreshFault {c d : Chip} (h : Confined muteKey c d) (hc : c.resting) {n : Nat} (hn : n < 128) :
    Confined muteKey c (d.refreshFault n) := by
  have hu : d.leader n < 128 := Nat.lt_of_le_of_lt (leader_le d n) hn
  have hfault := refreshMs_confined (h.resting hc) .fault hu
  exact h.trans ((hfault _).trans (refreshMs_confined ((hfault _).resting (h.resting hc)) .group hu _))

/-- Writes of mute sources of one square. -/
theorem writeMs_confined (c : Chip) (l : List Ms) {n : Nat} (hn : n < 128) (b : Chip → Ms → Bool) :
    Confined muteKey c (l.foldl (fun c m => c.wrB (m.fld n) (b c m)) c) := by
  induction l generalizing c with
  | nil => exact .refl c
  | cons m l ih => exact (ms_confined c m hn _).trans (ih _)

/-- Where every square is at rest, groups that form or dissolve change the mute sources and the squares' memories alone. -/
theorem regroup_confined {c : Chip} (hc : c.resting) (old : Chip) : Confined muteKey c (c.regroup old) := by
  have lt : ∀ {f : Nat → Bool} {n : Nat}, n ∈ allSquares.filter f → n < 128 := fun h =>
    List.mem_range.mp (List.mem_filter.mp h).1
  refine forEach_induct (P := Confined muteKey c) ?_ fun n hn d hd => hd.trans ?_
  · exact .forEach c fun n hn d => writeMs_confined d _ (lt hn) _
  · exact (((writeMs_confined d _ (lt hn) _).trans (.setSq _ n _)).trans (ms_confined _ .protect (lt hn) _)).refreshFault
      (hd.resting hc) (lt hn)

/-! ## CLEAR (R57) -/

/-- The loader's registers as CLEAR leaves them. -/
def Chip.clearTop (c : Chip) : Chip :=
  let c := ((((c.wr F.TOP_IMG_STATUS_STATE 0).wr F.TOP_IMG_STATUS_CAUSE 0).wr F.TOP_IMG_STATUS_RESOLVED 0).wr
    F.TOP_IMG_STATUS_HASH_BUSY 0).wr F.TOP_IMG_STATUS_HASH_VALID 0
  let c := ((c.wr F.TOP_IMG_COUNT_WORDS 0).wr F.TOP_IMG_COUNT_WRITES 0).wr F.TOP_IMG_COUNT_DISCARDED 0
  c.forEach (List.range 4) fun j c => (c.wr (F.TOP_HASH_DIGEST_LO j) 0).wr (F.TOP_HASH_DIGEST_HI j) 0

/-- CLEAR acts where no plan has been applied. -/
theorem clearNow_unplanned {c : Chip} (h : c.on F.TOP_IMG_STATUS_PLANNED = false) :
    c.clearNow = (c.clearTop.unroute.regroup c.clearTop).setImg fun x =>
      { x with
        phase := .header, buf := [], heldLo := none, resolving := false, erasing := true, heldStart := false, heldHash := false } := by
  unfold Chip.clearNow
  rw [h]
  rfl

/-- The keys of TOP_IMG_STATUS and TOP_IMG_COUNT, and of the digest. -/
def loaderKey (k : Nat) : Prop := 0x10 ≤ k / 64 ∧ k / 64 < 0x20
@[inherit_doc loaderKey] def digestKey (k : Nat) : Prop := 0x50 ≤ k / 64 ∧ k / 64 < 0x70

theorem zeroDigest_confined (c : Chip) : Confined digestKey c
    (c.forEach (List.range 4) fun j c => (c.wr (F.TOP_HASH_DIGEST_LO j) 0).wr (F.TOP_HASH_DIGEST_HI j) 0) := by
  refine .forEach c fun j hj d => ?_
  have hj4 : j < 4 := List.mem_range.mp hj
  refine (Confined.wr d ?_ 0).trans (.wr _ ?_ 0)
  all_goals simp only [digestKey, Fld.key, F.TOP_HASH_DIGEST_LO, F.TOP_HASH_DIGEST_HI]; omega

theorem clearTop_confined (c : Chip) : Confined (fun k => loaderKey k ∨ digestKey k) c c.clearTop := by
  have field : ∀ {f : Fld} (d : Chip), loaderKey f.key → Confined loaderKey d (d.wr f 0) := fun d h => .wr d h 0
  refine Confined.trans (Confined.mono ?_ fun _ => .inl) ((zeroDigest_confined _).mono fun _ => .inr)
  refine (((((((field c ?_).trans (field _ ?_)).trans (field _ ?_)).trans (field _ ?_)).trans (field _ ?_)).trans (field _ ?_)).trans
    (field _ ?_)).trans (field _ ?_)
  all_goals simp [loaderKey, Fld.key, F.TOP_IMG_STATUS_STATE, F.TOP_IMG_STATUS_CAUSE, F.TOP_IMG_STATUS_RESOLVED,
    F.TOP_IMG_STATUS_HASH_BUSY, F.TOP_IMG_STATUS_HASH_VALID, F.TOP_IMG_COUNT_WORDS, F.TOP_IMG_COUNT_WRITES, F.TOP_IMG_COUNT_DISCARDED]

/-- The fields of the loader that read 0 after CLEAR, whatever they held. -/
def clearedFlds : List Fld :=
  [F.TOP_IMG_STATUS_STATE, F.TOP_IMG_STATUS_CAUSE, F.TOP_IMG_STATUS_RESOLVED, F.TOP_IMG_STATUS_HASH_BUSY, F.TOP_IMG_STATUS_HASH_VALID,
    F.TOP_IMG_COUNT_WORDS, F.TOP_IMG_COUNT_WRITES, F.TOP_IMG_COUNT_DISCARDED]

theorem clearedFlds_key : ∀ f ∈ clearedFlds, f.key / 64 < 0x20 := by decide

theorem clearTop_rd (c : Chip) {f : Fld} (hf : f ∈ clearedFlds) : c.clearTop.rd f = 0 := by
  have hk := clearedFlds_key f hf
  refine ((zeroDigest_confined _).rd f (by unfold digestKey; omega)).trans ?_
  simp only [clearedFlds, List.mem_cons, List.not_mem_nil, or_false] at hf
  rcases hf with rfl | rfl | rfl | rfl | rfl | rfl | rfl | rfl <;> simp (disch := decide) [rd_wr_ne]

/-- The keys of the fields that CLEAR may change. -/
def clearKey (k : Nat) : Prop :=
  k / 64 < 0x100000 ∨ (0x1000000 ≤ k / 64 ∧ k / 64 < 0x1080000) ∨ (0x1200000 ≤ k / 64 ∧ k / 64 < 0x1300000)

/-- The image is cleared between `c` and `d` (R57): the loader is in IDLE and erases its words, and no square is routed. -/
structure ImageCleared (c d : Chip) : Prop where
  frame : Confined clearKey c d
  fields : ∀ f ∈ clearedFlds, d.rd f = 0
  erasing : d.img.erasing = true
  resolving : d.img.resolving = false
  squares : ∀ n, n < 128 → d.squareOff n
  shares : ∀ w, w < 4 → d.rd (F.WG_SHARE_SHARE_MHZ w) = 0

/-- Once every square is unrouted, mute sources and the loader's memory are all that is left to change. -/
theorem ImageCleared.of_unrouted {c d : Chip} (hmute : Confined muteKey c.clearTop.unroute d) (he : d.img.erasing = true)
    (hr : d.img.resolving = false) : ImageCleared c d := by
  have hroute := unroute_confined c.clearTop
  refine ⟨?frame, ?fields, he, hr, ?squares, ?shares⟩
  case frame =>
    refine (((clearTop_confined c).mono fun k hk => ?_).trans (hroute.mono fun k hk => ?_)).trans (hmute.mono fun k hk => ?_)
    · unfold loaderKey digestKey at hk
      exact .inl (by omega)
    · unfold routingKey at hk
      unfold clearKey
      omega
    · obtain ⟨n, hn, ha, -⟩ := muteKey_place hk
      exact .inr (.inl (by omega))
  case fields =>
    intro f hf
    have hk := clearedFlds_key f hf
    rw [hmute.rd f (not_muteKey (by omega)), hroute.rd f (by unfold routingKey; omega), clearTop_rd c hf]
  case squares =>
    intro n hn
    refine hmute.squareOff hn (not_muteKey ?_) (not_muteKey ?_) (not_muteKey ?_) (unroute_off _ hn)
    all_goals simp only [routedFld, Fld.key, F.SQ_STATUS_STATE, F.SQ_ID_BOND_SIZE]; omega
  case shares =>
    intro w hw
    rw [hmute.rd _ (not_muteKey (by simp only [Fld.key, F.WG_SHARE_SHARE_MHZ]; omega)), unroute_share _ hw]

theorem clearNow_cleared {c : Chip} (h : c.on F.TOP_IMG_STATUS_PLANNED = false) : ImageCleared c c.clearNow := by
  rw [clearNow_unplanned h]
  exact .of_unrouted ((regroup_confined (fun n hn => (unroute_off _ hn).2.1) _).trans (.setImg _ _)) rfl rfl

theorem clearNow_bus (c : Chip) : c.clearNow.bus = c.bus := by
  cases h : c.on F.TOP_IMG_STATUS_PLANNED with
  | true => rw [Chip.clearNow, if_pos h]
  | false => exact (clearNow_cleared h).frame.bus

theorem imgClear_bus (c : Chip) : c.imgClear.bus = c.bus := by
  unfold Chip.imgClear
  split
  · rfl
  · exact clearNow_bus c

/-- CLEAR waits where a plan has this boundary (R58). -/
theorem imgClear_waits {c : Chip} (h : ∃ x, x < 10 ∧ c.planHere x = true) :
    c.imgClear = c.setImg fun x => { x with clearLate := true } :=
  if_pos (by simpa using h)

/-- Elsewhere it acts at once. -/
theorem imgClear_acts {c : Chip} (h : ¬ ∃ x, x < 10 ∧ c.planHere x = true) : c.imgClear = c.clearNow :=
  if_neg (by simpa using h)

/-! ## The commands -/

/-- Settles O12: each command is a write of its register, so it remains to say what its effect does in each state of the loader. -/
theorem imageCommands : Obligations.ImageCommands := by
  refine ⟨fun q => ?_, fun q => ⟨?_, ?_, ?_⟩, fun q h v => ?_⟩
  · refine writes_of_effect (fun _ => rfl) imgStart_bus fun c => ⟨imgStart_erasing, imgStart_busy, fun he hs => ?_⟩
    rw [imgStart_idle he hs]
    refine ⟨?_, ?_, ?_, rfl, rfl, rfl, Nat.mul_comm _ _, rfl, rfl, ?keeps⟩
    case keeps => exact keeps_setImg_of (keeps_wr_of (keeps_wr_of (keeps_wr (by simp) _) (by simp) _) (by simp) _) _
    all_goals simp (disch := decide) [rd_wr_ne]
  · refine writes_of_effect (fun _ => rfl) imgAbort_bus fun c => ⟨fun hs => if_neg hs, fun hs => ?_⟩
    rw [Chip.imgAbort, if_pos hs]
    obtain ⟨state, cause, resolving, buf, space, only, keeps⟩ := imgEnd_ends c (cause := 5) (by decide)
    exact ⟨state, cause, resolving, buf, space, only, keeps⟩
  · refine writes_of_effect (fun _ => rfl) imgClear_bus fun c => ?_
    refine ⟨fun hf => ?_, fun hf hp => ?_, fun hf hp => ?_⟩
    · rw [imgClear_waits hf]; rfl
    · rw [imgClear_acts hf, Chip.clearNow, if_pos hp]
    · rw [imgClear_acts hf]
      obtain ⟨frame, fields, erasing, resolving, squares, shares⟩ := clearNow_cleared hp
      refine ⟨fields _ ?_, fields _ ?_, fields _ ?_, fields _ ?_, fields _ ?_, erasing, resolving, fun i => if_pos erasing, squares,
        shares, frame.only, frame.rd⟩
      all_goals simp [clearedFlds]
  · refine writes_of_effect (fun _ => rfl) hashReq_bus fun c => ⟨fun he => ?_, fun he hb => ?_, fun he hs hb => ?_⟩
    · rw [Chip.hashReq, if_pos he]; rfl
    · rw [Chip.hashReq, if_neg (by simp [he]), if_pos hb]
    · rw [Chip.hashReq, if_neg (by simp [he]), if_neg (by simp [hs, hb])]
      exact ⟨rd_wr_same .., keeps_wr (by simp) _, rfl⟩
  · refine writes_of_effect (fun _ => rfl) (imgPort_bus · h v) fun c => ⟨fun hr => ?_, fun hh hr => ⟨?_, fun n i w l => ?_⟩⟩
    · obtain ⟨only, keeps, dropped, taken⟩ := portTake_taken h v c
      rw [imgPort_eq, imgRoom_free hr]
      exact ⟨only, keeps, dropped, taken⟩
    · obtain ⟨only, keeps, dropped, taken⟩ := portTake_taken h v c.imgConsume
      rw [imgPort_eq, imgRoom_full hh hr]
      exact ⟨only, keeps, dropped, taken⟩
    · exact imgConsume_data_buf

end Sys2Proof.Machine
end

section
/-!
SUPPORT. The coefficient pages of the square and of the canceller (R121, R147, R161): a read as an access with an effect, one half-by-half
replacement for both pages, the advance of each page's address, and what a write that is not discarded stores.
-/

namespace Sys2Proof.Machine

/-- A read of the register at `a` that returns `v`, with side effect `g`, does what `P` says, if `g` does on the block that responds with
`v`, and leaves the response alone. -/
theorem reads_of_effect {i : Instr} {q : Requester} {a : Nat} {h : Half} {v : Chip → Nat} {g : Chip → Chip} {P : Chip → Chip → Prop}
    (hi : ∀ s, exec i s = s.onAccess q fun c => c.read q a h v g) (hbus : ∀ c, (g c).bus = c.bus)
    (hP : ∀ c, P c (g (c.respond q (h.data (v c))))) : Reads i q a P := by
  intro s hs
  refine ⟨_, ?_, hP _⟩
  rw [hi, onAccess_read hs, coreTrap_none (by rw [hbus]; rfl)]

/-! ## Memories of the squares -/

@[simp] theorem sq_setSq_same (c : Chip) (n : Nat) (g : Sq → Sq) : (c.setSq n g).sq n = g (c.sq n) := SMap.get_put_same ..

theorem sq_setSq_ne (c : Chip) {n m : Nat} (g : Sq → Sq) (h : m ≠ n) : (c.setSq n g).sq m = c.sq m := SMap.get_put_ne _ _ _ _ h

/-- What is taken out of a set is not in it. -/
theorem not_mem_setDel (k : Nat) (m : List Nat) : k ∉ setDel k m := by simp [setDel]

/-- A coefficient whose parts, of `b` bits each, are replaced in the halves that the access reaches, by those of the image `w`. -/
def mixHalves (b : Nat) (h : Half) (w : Nat) (old : Cx) : Cx :=
  ⟨if h.hasLo then toS b (bits w 0 b) else old.re, if h.hasHi then toS b (bits w 32 b) else old.im⟩

/-- FIR coefficient `k` replaced half by half, its parity with it (R121). -/
def Sq.putCoef (k : Nat) (h : Half) (w : Nat) (q : Sq) : Sq :=
  { q with coef := SMap.put Cx.zero q.coef k (mixHalves 18 h w (SMap.get Cx.zero q.coef k)), coefBad := setDel k q.coefBad }

/-- Echo coefficient `k` replaced half by half (R147). -/
def Sq.putEc (k : Nat) (h : Half) (w : Nat) (q : Sq) : Sq :=
  { q with ec := SMap.put Cx.zero q.ec k (mixHalves 24 h w (SMap.get Cx.zero q.ec k)) }

theorem putCoef_same (k : Nat) (h : Half) (w : Nat) (q : Sq) :
    SMap.get Cx.zero (q.putCoef k h w).coef k = mixHalves 18 h w (SMap.get Cx.zero q.coef k) := SMap.get_put_same ..

theorem putCoef_ne {k j : Nat} (hj : j ≠ k) (h : Half) (w : Nat) (q : Sq) :
    SMap.get Cx.zero (q.putCoef k h w).coef j = SMap.get Cx.zero q.coef j := SMap.get_put_ne _ _ _ _ hj

theorem putEc_same (k : Nat) (h : Half) (w : Nat) (q : Sq) :
    SMap.get Cx.zero (q.putEc k h w).ec k = mixHalves 24 h w (SMap.get Cx.zero q.ec k) := SMap.get_put_same ..

theorem putEc_ne {k j : Nat} (hj : j ≠ k) (h : Half) (w : Nat) (q : Sq) :
    SMap.get Cx.zero (q.putEc k h w).ec j = SMap.get Cx.zero q.ec j := SMap.get_put_ne _ _ _ _ hj

/-! ## What differs where registers changed -/

theorem bus_of_only_regs {c d : Chip} (h : d = { c with regs := d.regs }) : d.bus = c.bus := by rw [h]

theorem sqs_of_only_regs {c d : Chip} (h : d = { c with regs := d.regs }) : d.sqs = c.sqs := by rw [h]

theorem sq_of_only_regs {c d : Chip} (h : d = { c with regs := d.regs }) (m : Nat) : d.sq m = c.sq m := by
  rw [Chip.sq, sqs_of_only_regs h]; rfl

/-- Where the registers and the memories of the squares have changed, nothing else differs. -/
theorem only_regs_sqs {c d : Chip} {m : SMap Sq} (h : d = { c with regs := d.regs, sqs := m }) :
    d = { c with regs := d.regs, sqs := d.sqs } := by
  rw [show d.sqs = m by rw [h]]; exact h

/-- Where the registers and the response have changed, nothing else differs. -/
theorem only_regs_bus {c d : Chip} {b : BusResp} (h : d = { c with regs := d.regs, bus := b }) :
    d = { c with regs := d.regs, bus := d.bus } := by
  rw [show d.bus = b by rw [h]]; exact h

/-! ## The addresses advance -/

/-- An access to SQ_COEF_DATA has moved INDEX on from `c` to `d`, or left it (R121). -/
structure CoefAdvanced (n : Nat) (h : Half) (c d : Chip) : Prop where
  index : d.rd (F.SQ_COEF_ADDR_INDEX n) = if h.hasHi = true ∧ c.on (F.SQ_COEF_ADDR_AUTOINC n) = true
    then (if 383 ≤ c.rd (F.SQ_COEF_ADDR_INDEX n) then 0 else c.rd (F.SQ_COEF_ADDR_INDEX n) + 1) else c.rd (F.SQ_COEF_ADDR_INDEX n)
  keeps : Keeps c d [F.SQ_COEF_ADDR_INDEX n]
  only : d = { c with regs := d.regs }

theorem coefAdvance_advanced (n : Nat) (h : Half) (c : Chip) : CoefAdvanced n h c (c.coefAdvance n h) := by
  unfold Chip.coefAdvance
  by_cases ha : h.hasHi = true ∧ c.on (F.SQ_COEF_ADDR_AUTOINC n) = true
  · have hfits : (if 383 ≤ c.rd (F.SQ_COEF_ADDR_INDEX n) then 0 else c.rd (F.SQ_COEF_ADDR_INDEX n) + 1) <
        2 ^ (F.SQ_COEF_ADDR_INDEX n).wd := by
      change _ < 2 ^ 9
      split <;> omega
    rw [show (h.hasHi && c.on (F.SQ_COEF_ADDR_AUTOINC n)) = true by simp [ha], when_true]
    exact ⟨by rw [if_pos ha, rd_wr_same, Nat.mod_eq_of_lt hfits], keeps_wr (by simp) _, rfl⟩
  · rw [show (h.hasHi && c.on (F.SQ_COEF_ADDR_AUTOINC n)) = false by simpa using ha, when_false]
    exact ⟨by rw [if_neg ha], keeps_refl _ _, rfl⟩

theorem coefAdvance_bus (c : Chip) (n : Nat) (h : Half) : (c.coefAdvance n h).bus = c.bus :=
  bus_of_only_regs (coefAdvance_advanced n h c).only

/-- An access to SQ_EC_CDATA has moved TAP, and PATH after TAP 63, on from `c` to `d`, or left both (R147). -/
structure EcAdvanced (n : Nat) (h : Half) (c d : Chip) : Prop where
  keeps : Keeps c d [F.SQ_EC_CADDR_TAP n, F.SQ_EC_CADDR_PATH n]
  moves : h.hasHi = true → c.on (F.SQ_EC_CADDR_AUTOINC n) = true →
    d.rd (F.SQ_EC_CADDR_TAP n) = (c.rd (F.SQ_EC_CADDR_TAP n) + 1) % 64 ∧
    d.rd (F.SQ_EC_CADDR_PATH n) = if c.rd (F.SQ_EC_CADDR_TAP n) = 63 then (c.rd (F.SQ_EC_CADDR_PATH n) + 1) % 64
      else c.rd (F.SQ_EC_CADDR_PATH n)
  stays : h.hasHi = false ∨ c.on (F.SQ_EC_CADDR_AUTOINC n) = false → d.regs = c.regs
  only : d = { c with regs := d.regs }

theorem ecAdvance_advanced (n : Nat) (h : Half) (c : Chip) : EcAdvanced n h c (c.ecAdvance n h) := by
  have hkey : (F.SQ_EC_CADDR_PATH n).key ≠ (F.SQ_EC_CADDR_TAP n).key := by
    simp [Fld.key, F.SQ_EC_CADDR_PATH, F.SQ_EC_CADDR_TAP]
  have htap : Keeps c (c.wr (F.SQ_EC_CADDR_TAP n) (c.rd (F.SQ_EC_CADDR_TAP n) + 1)) [F.SQ_EC_CADDR_TAP n, F.SQ_EC_CADDR_PATH n] :=
    keeps_wr (by simp) _
  unfold Chip.ecAdvance
  by_cases ha : h.hasHi = true ∧ c.on (F.SQ_EC_CADDR_AUTOINC n) = true
  · obtain ⟨hh, ho⟩ := ha
    rw [hh, ho, Bool.and_true, when_true]
    by_cases hlast : c.rd (F.SQ_EC_CADDR_TAP n) = 63
    · simp only [hlast, decide_true, when_true, rd_wr_ne _ _ hkey]
      rw [hlast] at htap
      refine ⟨keeps_wr_of htap (by simp) _, fun _ _ => ⟨?_, ?_⟩, by simp [hh, ho], rfl⟩
      · rw [rd_wr_ne _ _ hkey.symm, rd_wr_same, hlast]; rfl
      · rw [rd_wr_same, if_pos hlast]; rfl
    · simp only [hlast, decide_false, when_false]
      exact ⟨htap, fun _ _ => ⟨rd_wr_same .., by rw [if_neg hlast, rd_wr_ne _ _ hkey]⟩, by simp [hh, ho], rfl⟩
  · rw [show (h.hasHi && c.on (F.SQ_EC_CADDR_AUTOINC n)) = false by simpa using ha, when_false]
    exact ⟨keeps_refl _ _, fun hh ho => absurd ⟨hh, ho⟩ ha, fun _ => rfl, rfl⟩

theorem ecAdvance_bus (c : Chip) (n : Nat) (h : Half) : (c.ecAdvance n h).bus = c.bus :=
  bus_of_only_regs (ecAdvance_advanced n h c).only

/-! ## A write of SQ_COEF_DATA -/

/-- While a committed plan is to switch the bank, a write is discarded. -/
theorem coefWrite_locked {c : Chip} {n : Nat} (hl : c.coefLocked n = true) (h : Half) (v : Nat) :
    c.coefWrite n h v = c.raise (F.SQ_INT_STATUS_COEF_DROP n) := if_pos hl

/-- A write at an INDEX that names a coefficient. -/
theorem coefWrite_stores {c : Chip} {n : Nat} (hl : c.coefLocked n = false) (hi : c.rd (F.SQ_COEF_ADDR_INDEX n) < 384) (h : Half)
    (v : Nat) : c.coefWrite n h v = (c.setSq n (Sq.putCoef (c.coefKey n) h (h.image v))).coefAdvance n h := by
  unfold Chip.coefWrite
  rw [if_neg (by simp [hl])]
  simp only [hi, decide_true, when_true]
  rfl

/-- A write at an INDEX that names none. -/
theorem coefWrite_beyond {c : Chip} {n : Nat} (hl : c.coefLocked n = false) (hi : 384 ≤ c.rd (F.SQ_COEF_ADDR_INDEX n)) (h : Half)
    (v : Nat) : c.coefWrite n h v = c.coefAdvance n h := by
  unfold Chip.coefWrite
  rw [if_neg (by simp [hl])]
  simp only [Nat.not_lt.mpr hi, decide_false, when_false]

theorem coefWrite_bus (c : Chip) (n : Nat) (h : Half) (v : Nat) : (c.coefWrite n h v).bus = c.bus := by
  cases hl : c.coefLocked n with
  | true => rw [coefWrite_locked hl]; rfl
  | false =>
    rcases Nat.lt_or_ge (c.rd (F.SQ_COEF_ADDR_INDEX n)) 384 with hi | hi
    · rw [coefWrite_stores hl hi, coefAdvance_bus]; rfl
    · rw [coefWrite_beyond hl hi, coefAdvance_bus]

/-! ## A write of SQ_EC_CDATA -/

/-- A member's window discards (R161). -/
theorem ecWrite_member {c : Chip} {n : Nat} (hm : c.isMember n = true) (h : Half) (v : Nat) : c.ecWrite n h v = c := if_pos hm

/-- While EC_EN is 1 and the square is not OFF, a write is discarded (R147). -/
theorem ecWrite_busy {c : Chip} {n : Nat} (hm : c.isMember n = false) (he : c.on (F.SQ_EC_CTRL_EC_EN n) = true) (hs : c.sqState n ≠ 0)
    (h : Half) (v : Nat) : c.ecWrite n h v = c.raise (F.SQ_EC_INT_STATUS_COEF_DROP n) := by
  rw [Chip.ecWrite, if_neg (by simp [hm]), if_pos ⟨he, hs⟩]

/-- Else it stores. -/
theorem ecWrite_stores {c : Chip} {n : Nat} (hm : c.isMember n = false) (hf : c.on (F.SQ_EC_CTRL_EC_EN n) = false ∨ c.sqState n = 0)
    (h : Half) (v : Nat) : c.ecWrite n h v = (c.setSq n (Sq.putEc (c.ecKey n) h (h.image v))).ecAdvance n h := by
  have hopen : ¬ (c.on (F.SQ_EC_CTRL_EC_EN n) = true ∧ c.sqState n ≠ 0) := by
    rintro ⟨he, hs⟩
    exact hf.elim (fun h0 => by simp [h0] at he) hs
  rw [Chip.ecWrite, if_neg (by simp [hm]), if_neg hopen]
  rfl

theorem ecWrite_bus (c : Chip) (n : Nat) (h : Half) (v : Nat) : (c.ecWrite n h v).bus = c.bus := by
  unfold Chip.ecWrite
  split
  · rfl
  · split
    · rfl
    · exact ecAdvance_bus _ n h

/-! ## The commands -/

/-- Settles O27: each command is an access to its page, so it remains to say what its effect does in each state of the page; what it stores
and the advance of the address concern different parts of the block. -/
theorem coefficients : Obligations.Coefficients := by
  refine ⟨fun q n h => ⟨fun v => ?firWrite, ?firRead⟩, fun q n h => ⟨fun v => ?echoWrite, ?echoRead⟩⟩
  case firWrite =>
    refine writes_of_effect (fun _ => rfl) (coefWrite_bus · n h v) fun c => ⟨fun hl => ?_, fun hl => ?_⟩
    · rw [coefWrite_locked hl]
      exact ⟨rd_wr_same .., keeps_wr (by simp) _, rfl⟩
    · rcases Nat.lt_or_ge (c.rd (F.SQ_COEF_ADDR_INDEX n)) 384 with hi | hi
      · rw [coefWrite_stores hl hi]
        obtain ⟨index, keeps, only⟩ := coefAdvance_advanced n h (c.setSq n (Sq.putCoef (c.coefKey n) h (h.image v)))
        have hsq := (sq_of_only_regs only n).trans (sq_setSq_same c n _)
        refine ⟨index, keeps, only_regs_sqs only, fun m hm => (sq_of_only_regs only m).trans (sq_setSq_ne c _ hm),
          fun hb => absurd hi (Nat.not_lt.mpr hb), fun _ => ?_⟩
        dsimp only
        rw [hsq]
        exact ⟨putCoef_same .., fun k hk => putCoef_ne hk .., not_mem_setDel _ _⟩
      · rw [coefWrite_beyond hl hi]
        obtain ⟨index, keeps, only⟩ := coefAdvance_advanced n h c
        exact ⟨index, keeps, only_regs_sqs only, fun m _ => sq_of_only_regs only m, fun _ => sqs_of_only_regs only,
          fun hb => absurd hb (Nat.not_lt.mpr hi)⟩
  case firRead =>
    refine reads_of_effect (fun _ => rfl) (coefAdvance_bus · n h) fun c => ?_
    obtain ⟨index, keeps, only⟩ := coefAdvance_advanced n h (c.respond q (h.data (c.coefRead n)))
    exact ⟨bus_of_only_regs only, index, keeps, only_regs_bus only⟩
  case echoWrite =>
    refine writes_of_effect (fun _ => rfl) (ecWrite_bus · n h v) fun c =>
      ⟨fun hm => ecWrite_member hm h v, fun hm he hs => ?_, fun hm hf => ?_⟩
    · rw [ecWrite_busy hm he hs]
      exact ⟨rd_wr_same .., keeps_wr (by simp) _, rfl⟩
    · rw [ecWrite_stores hm hf]
      obtain ⟨keeps, moves, stays, only⟩ := ecAdvance_advanced n h (c.setSq n (Sq.putEc (c.ecKey n) h (h.image v)))
      have hsq := (sq_of_only_regs only n).trans (sq_setSq_same c n _)
      dsimp only
      rw [hsq]
      exact ⟨putEc_same .., fun k hk => putEc_ne hk .., fun m hm => (sq_of_only_regs only m).trans (sq_setSq_ne c _ hm),
        ⟨keeps, moves, stays⟩, only_regs_sqs only⟩
  case echoRead =>
    refine reads_of_effect (fun _ => rfl) (ecAdvance_bus · n h) fun c => ?_
    obtain ⟨keeps, moves, stays, only⟩ := ecAdvance_advanced n h (c.respond q (h.data (c.ecRead n)))
    exact ⟨bus_of_only_regs only, only_regs_bus only, keeps, moves, stays⟩

end Sys2Proof.Machine
end
